-- ==== Sys2Proof/Syntax.lean ====
section
/-! DEFINITION. The syntax of the part: one constructor of `Instr` for every row of the opcode table. The
words carry the fields of their format (R77) that the opcode map leaves free (R81), without the chain bit C,
which belongs to the packet (R55). The events (the rows without an encoding) carry what comes from outside the
unit that performs them: which object they concern, and the data another agent supplies. -/

namespace Sys2Proof

/-- How a peer answered one request (R136, R417), or that it was lost first (R397). -/
inductive LineStatus where
  | ok | fabric | poison | lost
  deriving DecidableEq, Repr

/-- What another part answers (R136, R308, R417): nothing to answer, data bytes, a target fault, an
uncorrectable error, or loss of the peer (R397); `lines`: data bytes, and the answer to each line request of the operation in
ascending order (R127). -/
inductive RemoteReply where
  | none
  | data (bytes : List (BitVec 8))
  | fabric
  | poison
  | lost
  | lines (bytes : List (BitVec 8)) (status : List LineStatus)
  deriving DecidableEq, Repr

/-- What a request from a peer asks for (R396, R398): a read, a write, a write of 256-byte blocks in their stored modes (CMODE
and the bytes of each), an atomic, a compare-and-swap, or a near-memory command with its expression record and expected
words. -/
inductive PeerReq where
  | read (len : Nat)
  | write (bytes : List (BitVec 8))
  | blocks (bs : List (BitVec 4 × List (BitVec 8)))
  | atomic (op : BitVec 3) (wide : Bool) (val : BitVec 64)
  | cas (wide : Bool) (exp new : BitVec 64)
  | near (block : BitVec 512) (expr : BitVec 256) (expected : List (BitVec 64))
  deriving DecidableEq, Repr

/-- A delivery of a collective step (R312, R396, R398, R399): the fields of its header, the tags whose replies the sender holds, and its
data, as stored in mode CMODE. -/
structure Delivery where
  src     : BitVec 10 := 0
  fctx    : BitVec 12 := 0
  tag     : Nat := 0
  cmode   : BitVec 4 := 0
  retired : List Nat := []
  bytes   : List (BitVec 8) := []
  deriving DecidableEq, Repr

/-- A port that comes up, and the peers that its link reaches (R397, R401). -/
structure PortLink where
  port  : BitVec 4
  reach : List (BitVec 10)
  deriving DecidableEq, Repr

/-- The instructions and events of the part, in the order of the opcode table. -/
inductive Instr where
  /-- `NOP` (R209). Does nothing; it fills or pads a packet. -/
  | nop
  /-- `BRA` (R201). Branches unconditionally to a PC-relative target. -/
  | bra (off : BitVec 19)
  /-- `BRC` (R201). Branches to a PC-relative target when condition bit cN is 1. -/
  | brc (n : BitVec 3) (off : BitVec 19)
  /-- `BRC_F` (R201). Branches to a PC-relative target when condition bit cN is 0. -/
  | brcF (n : BitVec 3) (off : BitVec 19)
  /-- `BRP` (R79). Branches per lane on predicate pN and pushes a PENDING entry when the lanes diverge. -/
  | brp (n : BitVec 3) (off : BitVec 19)
  /-- `CALL` (R202). Writes the link register k15 and branches unconditionally. -/
  | call (off : BitVec 19)
  /-- `CALL_C` (R202). Writes k15 and branches when cN is 1. -/
  | callC (n : BitVec 3) (off : BitVec 19)
  /-- `CALL_F` (R202). Writes k15 and branches when cN is 0. -/
  | callF (n : BitVec 3) (off : BitVec 19)
  /-- `BRX` (R203). Branches to the address held in kA and checks its alignment. -/
  | brx (ka : BitVec 6)
  /-- `RET` (R203). Returns to the address held in kA, which is k15 by default. -/
  | ret (ka : BitVec 6)
  /-- `MARK` (R204). Pushes a REJOIN entry with the current EXEC onto the reconvergence stack. -/
  | mark (off : BitVec 19)
  /-- `JOIN` (R79). Pops the reconvergence stack until it finds a nonzero mask; retires the warp if none remains. -/
  | join
  /-- `EXIT` (R205). Retires the active lanes; the warp retires once no lane is live. -/
  | exit
  /-- `YIELD` (R206). Makes the warp count as having issued in this cycle for port arbitration. -/
  | yield
  /-- `WAITC` (R207). Holds its packet until the selected in-flight counter is at or below the threshold in kA. -/
  | waitc (ka : BitVec 6) (fn : BitVec 6)
  /-- `LIT` (R72). Supplies a 24-bit literal payload to the following word of its packet. -/
  | lit (payload : BitVec 24)
  /-- `REP` (R75). Reissues the following word 1 to 64 times, stepping the selected register fields. -/
  | rep (cnt : BitVec 6) (sd : BitVec 1) (sa : BitVec 1) (sb : BitVec 1) (sk : BitVec 1) (str : BitVec 2)
  /-- `TRAP` (R208). Raises USERTRAP with a user code from 0 to 63. -/
  | trap (fn : BitVec 6)
  /-- `UADD` (R211). Writes kA + kB modulo 2^64 to kD. -/
  | uadd (kd : BitVec 6) (ka : BitVec 6) (kb : BitVec 6)
  /-- `USUB` (R211). Writes kA - kB modulo 2^64 to kD. -/
  | usub (kd : BitVec 6) (ka : BitVec 6) (kb : BitVec 6)
  /-- `UMUL` (R211). Writes the low 64 bits of kA × kB to kD. -/
  | umul (kd : BitVec 6) (ka : BitVec 6) (kb : BitVec 6)
  /-- `UMULH` (R211). Writes the high 64 bits of the unsigned product of kA and kB to kD. -/
  | umulh (kd : BitVec 6) (ka : BitVec 6) (kb : BitVec 6)
  /-- `UAND` (R211). Writes the bitwise AND of kA and kB to kD. -/
  | uand (kd : BitVec 6) (ka : BitVec 6) (kb : BitVec 6)
  /-- `UOR` (R211). Writes the bitwise OR of kA and kB to kD. -/
  | uor (kd : BitVec 6) (ka : BitVec 6) (kb : BitVec 6)
  /-- `UXOR` (R211). Writes the bitwise XOR of kA and kB to kD. -/
  | uxor (kd : BitVec 6) (ka : BitVec 6) (kb : BitVec 6)
  /-- `USHL` (R211). Shifts kA left by kB mod 64 into kD. -/
  | ushl (kd : BitVec 6) (ka : BitVec 6) (kb : BitVec 6)
  /-- `USHR` (R211). Shifts kA right logically by kB mod 64 into kD. -/
  | ushr (kd : BitVec 6) (ka : BitVec 6) (kb : BitVec 6)
  /-- `USAR` (R211). Shifts kA right arithmetically by kB mod 64 into kD. -/
  | usar (kd : BitVec 6) (ka : BitVec 6) (kb : BitVec 6)
  /-- `UMIN` (R211). Writes the signed lesser of kA and kB to kD. -/
  | umin (kd : BitVec 6) (ka : BitVec 6) (kb : BitVec 6)
  /-- `UMAX` (R211). Writes the signed greater of kA and kB to kD. -/
  | umax (kd : BitVec 6) (ka : BitVec 6) (kb : BitVec 6)
  /-- `UMOV` (R211). Copies kA to kD. -/
  | umov (kd : BitVec 6) (ka : BitVec 6)
  /-- `UBFE` (R212). Extracts a bit field of kA, controlled by kB, into kD, with optional sign extension. -/
  | ubfe (kd : BitVec 6) (ka : BitVec 6) (kb : BitVec 6)
  /-- `UCLZ` (R211). Writes the count of leading zero bits of kA to kD. -/
  | uclz (kd : BitVec 6) (ka : BitVec 6)
  /-- `UCNT` (R211). Writes the count of set bits of kA to kD. -/
  | ucnt (kd : BitVec 6) (ka : BitVec 6)
  /-- `UMAD` (R211). Writes kA × kB + kD modulo 2^64 to kD. -/
  | umad (kd : BitVec 6) (ka : BitVec 6) (kb : BitVec 6)
  /-- `UCMP` (R213). Compares kA with kB under the condition in FN and writes the result to cN. -/
  | ucmp (n : BitVec 3) (ka : BitVec 6) (kb : BitVec 6) (fn : BitVec 6)
  /-- `USEL` (R213). Writes kA to kD when cN is 1, and kB otherwise. -/
  | usel (kd : BitVec 6) (ka : BitVec 6) (kb : BitVec 6) (n : BitVec 3)
  /-- `ULI` (R214). Loads a sign-extended immediate, widened by any literal, into kD. -/
  | uli (kd : BitVec 6) (imm : BitVec 18)
  /-- `ULD` (R216). Loads 8 bytes from the window, the cluster window or global memory into kD. -/
  | uld (kd : BitVec 6) (ka : BitVec 6) (off : BitVec 12)
  /-- `UST` (R216). Stores the 8 bytes of kD to the window, the cluster window or global memory. -/
  | ust (kd : BitVec 6) (ka : BitVec 6) (off : BitVec 12)
  /-- `USR` (R217). Copies a special register into kD. -/
  | usr (kd : BitVec 6) (idx : BitVec 12)
  /-- `UWS` (R217). Copies kA into a special register, with that register's side effects. -/
  | uws (ka : BitVec 6) (idx : BitVec 12)
  /-- `VADD` (R231). Adds a and b in each active lane. -/
  | vadd (w : BitVec 1) (d : BitVec 7) (a : BitVec 8) (b : BitVec 8)
  /-- `VSUB` (R231). Subtracts b from a in each active lane. -/
  | vsub (w : BitVec 1) (d : BitVec 7) (a : BitVec 8) (b : BitVec 8)
  /-- `VMUL` (R231). Writes the low 32 bits of a × b in each active lane. -/
  | vmul (w : BitVec 1) (d : BitVec 7) (a : BitVec 8) (b : BitVec 8)
  /-- `VMULH` (R231). Writes the high 32 bits of the unsigned product of a and b in each active lane. -/
  | vmulh (w : BitVec 1) (d : BitVec 7) (a : BitVec 8) (b : BitVec 8)
  /-- `VMAD` (R231). Writes the low 32 bits of a × b + d in each active lane. -/
  | vmad (w : BitVec 1) (d : BitVec 7) (a : BitVec 8) (b : BitVec 8)
  /-- `VADDS` (R231). Adds a and b as signed values with saturation. -/
  | vadds (w : BitVec 1) (d : BitVec 7) (a : BitVec 8) (b : BitVec 8)
  /-- `VSUBS` (R231). Subtracts b from a as signed values with saturation. -/
  | vsubs (w : BitVec 1) (d : BitVec 7) (a : BitVec 8) (b : BitVec 8)
  /-- `VAND` (R231). Writes the bitwise AND of a and b. -/
  | vand (w : BitVec 1) (d : BitVec 7) (a : BitVec 8) (b : BitVec 8)
  /-- `VOR` (R231). Writes the bitwise OR of a and b. -/
  | vor (w : BitVec 1) (d : BitVec 7) (a : BitVec 8) (b : BitVec 8)
  /-- `VXOR` (R231). Writes the bitwise XOR of a and b. -/
  | vxor (w : BitVec 1) (d : BitVec 7) (a : BitVec 8) (b : BitVec 8)
  /-- `VSHL` (R231). Shifts a left by b mod 32. -/
  | vshl (w : BitVec 1) (d : BitVec 7) (a : BitVec 8) (b : BitVec 8)
  /-- `VSHR` (R231). Shifts a right logically by b mod 32. -/
  | vshr (w : BitVec 1) (d : BitVec 7) (a : BitVec 8) (b : BitVec 8)
  /-- `VSAR` (R231). Shifts a right arithmetically by b mod 32. -/
  | vsar (w : BitVec 1) (d : BitVec 7) (a : BitVec 8) (b : BitVec 8)
  /-- `VFSH` (R232). Shifts the 64-bit value a:b right by d mod 64 and keeps the low word. -/
  | vfsh (w : BitVec 1) (d : BitVec 7) (a : BitVec 8) (b : BitVec 8)
  /-- `VMIN` (R231). Writes the signed lesser of a and b. -/
  | vmin (w : BitVec 1) (d : BitVec 7) (a : BitVec 8) (b : BitVec 8)
  /-- `VMAX` (R231). Writes the signed greater of a and b. -/
  | vmax (w : BitVec 1) (d : BitVec 7) (a : BitVec 8) (b : BitVec 8)
  /-- `VMINU` (R231). Writes the unsigned lesser of a and b. -/
  | vminu (w : BitVec 1) (d : BitVec 7) (a : BitVec 8) (b : BitVec 8)
  /-- `VMAXU` (R231). Writes the unsigned greater of a and b. -/
  | vmaxu (w : BitVec 1) (d : BitVec 7) (a : BitVec 8) (b : BitVec 8)
  /-- `VBFE` (R232). Extracts a bit field of a, controlled by b. -/
  | vbfe (w : BitVec 1) (d : BitVec 7) (a : BitVec 8) (b : BitVec 8)
  /-- `VBFI` (R232). Inserts a bit field of a into d, controlled by b. -/
  | vbfi (w : BitVec 1) (d : BitVec 7) (a : BitVec 8) (b : BitVec 8)
  /-- `VCMP` (R234). Compares a with b as integers and writes predicate pN in the active lanes. -/
  | vcmp (cond : BitVec 4) (n : BitVec 3) (a : BitVec 8) (b : BitVec 8)
  /-- `VSEL` (R231). Writes a where d is nonzero, and b otherwise. -/
  | vsel (w : BitVec 1) (d : BitVec 7) (a : BitVec 8) (b : BitVec 8)
  /-- `VABS` (R233). Writes the signed absolute value of a. -/
  | vabs (w : BitVec 1) (d : BitVec 7) (a : BitVec 8)
  /-- `VCLZ` (R233). Writes the count of leading zero bits of a. -/
  | vclz (w : BitVec 1) (d : BitVec 7) (a : BitVec 8)
  /-- `VCNT` (R233). Writes the count of set bits of a. -/
  | vcnt (w : BitVec 1) (d : BitVec 7) (a : BitVec 8)
  /-- `VBREV` (R233). Writes a with its bits reversed. -/
  | vbrev (w : BitVec 1) (d : BitVec 7) (a : BitVec 8)
  /-- `VMOV` (R233). Copies a to the destination. -/
  | vmov (w : BitVec 1) (d : BitVec 7) (a : BitVec 8)
  /-- `VPM` (R233). Writes all ones where pN is set, and zero elsewhere. -/
  | vpm (w : BitVec 1) (d : BitVec 7) (n : BitVec 3)
  /-- `VMP` (R233). Sets pN where a is nonzero. -/
  | vmp (n : BitVec 3) (a : BitVec 8)
  /-- `VFADD` (R235). Adds a and b in FP32 with one rounding under FPMODE. -/
  | vfadd (w : BitVec 1) (d : BitVec 7) (a : BitVec 8) (b : BitVec 8)
  /-- `VFSUB` (R235). Subtracts b from a in FP32 with one rounding. -/
  | vfsub (w : BitVec 1) (d : BitVec 7) (a : BitVec 8) (b : BitVec 8)
  /-- `VFMUL` (R235). Multiplies a and b in FP32 with one rounding. -/
  | vfmul (w : BitVec 1) (d : BitVec 7) (a : BitVec 8) (b : BitVec 8)
  /-- `VFMA` (R235). Computes the fused a × b + d in FP32 with one rounding. -/
  | vfma (w : BitVec 1) (d : BitVec 7) (a : BitVec 8) (b : BitVec 8)
  /-- `VFMA2` (R235). Computes a fused multiply-add on both FP32 halves of register pairs. -/
  | vfma2 (w : BitVec 1) (d : BitVec 7) (a : BitVec 8) (b : BitVec 8)
  /-- `VHFMA2` (R235). Computes a fused multiply-add on both FP16 halves of a register. -/
  | vhfma2 (w : BitVec 1) (d : BitVec 7) (a : BitVec 8) (b : BitVec 8)
  /-- `VFMIN` (R235). Writes the minimumNumber of a and b. -/
  | vfmin (w : BitVec 1) (d : BitVec 7) (a : BitVec 8) (b : BitVec 8)
  /-- `VFMAX` (R235). Writes the maximumNumber of a and b. -/
  | vfmax (w : BitVec 1) (d : BitVec 7) (a : BitVec 8) (b : BitVec 8)
  /-- `VFCMP` (R237). Compares a with b as FP32 values and writes predicate pN. -/
  | vfcmp (cond : BitVec 4) (n : BitVec 3) (a : BitVec 8) (b : BitVec 8)
  /-- `VFCVT` (R238). Converts a between formats under the conversion and rounding codes. -/
  | vfcvt (w : BitVec 1) (d : BitVec 7) (a : BitVec 8) (rnd : BitVec 3) (conv : BitVec 5)
  /-- `VFRCP` (R239). Computes the correctly rounded reciprocal of a. -/
  | vfrcp (w : BitVec 1) (d : BitVec 7) (a : BitVec 8)
  /-- `VFRSQ` (R239). Computes the correctly rounded reciprocal square root of a. -/
  | vfrsq (w : BitVec 1) (d : BitVec 7) (a : BitVec 8)
  /-- `VFSQRT` (R239). Computes the correctly rounded square root of a. -/
  | vfsqrt (w : BitVec 1) (d : BitVec 7) (a : BitVec 8)
  /-- `VFEXP2` (R239). Computes 2^a within 2 ulp. -/
  | vfexp2 (w : BitVec 1) (d : BitVec 7) (a : BitVec 8)
  /-- `VFLOG2` (R239). Computes log2 a within the stated bound. -/
  | vflog2 (w : BitVec 1) (d : BitVec 7) (a : BitVec 8)
  /-- `VFSIN` (R239). Computes sin(2πa). -/
  | vfsin (w : BitVec 1) (d : BitVec 7) (a : BitVec 8)
  /-- `VFCOS` (R239). Computes cos(2πa). -/
  | vfcos (w : BitVec 1) (d : BitVec 7) (a : BitVec 8)
  /-- `VCBLD` (R240). Loads codebook entries from lanes 0 to 15. -/
  | vcbld (a : BitVec 8)
  /-- `VCBX` (R241). Expands one codebook-4 index nibble of a to an FP32 value. -/
  | vcbx (w : BitVec 1) (d : BitVec 7) (a : BitVec 8) (b : BitVec 8)
  /-- `VCBQ` (R241). Quantises a to a codebook index and inserts it as a nibble of d. -/
  | vcbq (w : BitVec 1) (d : BitVec 7) (a : BitVec 8) (b : BitVec 8)
  /-- `VSHFL_IDX` (R243). Gives each lane the a of the lane indexed by b. -/
  | vshflIdx (w : BitVec 1) (d : BitVec 7) (a : BitVec 8) (b : BitVec 8)
  /-- `VSHFL_UP` (R243). Gives each lane the a of the lane b below it. -/
  | vshflUp (w : BitVec 1) (d : BitVec 7) (a : BitVec 8) (b : BitVec 8)
  /-- `VSHFL_DOWN` (R243). Gives each lane the a of the lane b above it. -/
  | vshflDown (w : BitVec 1) (d : BitVec 7) (a : BitVec 8) (b : BitVec 8)
  /-- `VSHFL_XOR` (R243). Gives each lane the a of the lane whose index is its own XOR b. -/
  | vshflXor (w : BitVec 1) (d : BitVec 7) (a : BitVec 8) (b : BitVec 8)
  /-- `VVOTE_ANY` (R244). Writes 1 if any active lane has pN set. -/
  | vvoteAny (w : BitVec 1) (d : BitVec 7) (n : BitVec 3)
  /-- `VVOTE_ALL` (R244). Writes 1 if every active lane has pN set. -/
  | vvoteAll (w : BitVec 1) (d : BitVec 7) (n : BitVec 3)
  /-- `VVOTE_BALLOT` (R244). Writes the mask of active lanes that have pN set. -/
  | vvoteBallot (w : BitVec 1) (d : BitVec 7) (n : BitVec 3)
  /-- `VRED` (R245). Reduces a over the active lanes in a fixed tree and gives the result to each active lane. -/
  | vred (w : BitVec 1) (d : BitVec 7) (a : BitVec 8) (op : BitVec 4)
  /-- `VSCAN` (R245). Computes the inclusive prefix of a over the lanes in a fixed tree. -/
  | vscan (w : BitVec 1) (d : BitVec 7) (a : BitVec 8) (op : BitVec 4)
  /-- `VBCAST` (R244). Broadcasts a from one lane to every active lane. -/
  | vbcast (w : BitVec 1) (d : BitVec 7) (a : BitVec 8) (b : BitVec 8)
  /-- `VMATCH` (R244). Gives each lane the mask of active lanes whose a equals its own. -/
  | vmatch (w : BitVec 1) (d : BitVec 7) (a : BitVec 8)
  /-- `VLD` (R249). Loads each active lane's span through a space-0 view. -/
  | vld (sem : BitVec 1) (data : BitVec 7) (off : BitVec 8) (view : BitVec 5) (size : BitVec 3)
  /-- `VST` (R250). Stores each active lane's data through a space-0 view. -/
  | vst (sem : BitVec 1) (data : BitVec 7) (off : BitVec 8) (view : BitVec 5) (size : BitVec 3)
  /-- `VSTM` (R250). Stores each active lane's data under a byte mask. -/
  | vstm (sem : BitVec 1) (data : BitVec 7) (off : BitVec 8) (view : BitVec 5) (size : BitVec 3)
  /-- `VATOM` (R251). Performs a 4-byte atomic read-modify-write per lane in global memory. -/
  | vatom (sem : BitVec 1) (data : BitVec 7) (off : BitVec 8) (view : BitVec 5) (op : BitVec 3)
  /-- `VCAS` (R252). Performs a compare-and-swap of 4 or 8 bytes per lane. -/
  | vcas (sem : BitVec 1) (data : BitVec 7) (off : BitVec 8) (view : BitVec 5) (wide : BitVec 1)
  /-- `SLD` (R253). Loads each lane's span through a scratchpad or cluster-window view. -/
  | sld (sem : BitVec 1) (data : BitVec 7) (off : BitVec 8) (view : BitVec 5) (size : BitVec 3)
  /-- `SST` (R253). Stores each lane's data through a scratchpad or cluster-window view. -/
  | sst (sem : BitVec 1) (data : BitVec 7) (off : BitVec 8) (view : BitVec 5) (size : BitVec 3)
  /-- `SATOM` (R251). Performs a 4-byte atomic per lane in scratchpad or the cluster window. -/
  | satom (sem : BitVec 1) (data : BitVec 7) (off : BitVec 8) (view : BitVec 5) (op : BitVec 3)
  /-- `TRD` (R254). Reads tile words, scales them by t and narrows them into vector registers. -/
  | trd (data : BitVec 7) (off : BitVec 8) (t : BitVec 3) (size : BitVec 3)
  /-- `TWR` (R254). Writes vector data into tile words. -/
  | twr (data : BitVec 7) (off : BitVec 8) (t : BitVec 3) (size : BitVec 3)
  /-- `VPRF` (R255). Prefetches the lines of the active lanes into L1 or L2. -/
  | vprf (off : BitVec 8) (view : BitVec 5) (lvl : BitVec 3)
  /-- `FENCE` (R263). Orders the warp's memory accesses by kind and scope. -/
  | fence (kind : BitVec 3) (scope : BitVec 3)
  /-- `BARI` (R267). Sets a barrier's expected count and clears its departures. -/
  | bari (ka : BitVec 6) (bar : BitVec 6)
  /-- `BARV` (R267). Arrives at a barrier and returns the phase arrived in. -/
  | barv (ka : BitVec 6) (bar : BitVec 6)
  /-- `BARD` (R267). Arrives at a barrier and departs from its later phases. -/
  | bard (bar : BitVec 6)
  /-- `BARW` (R268). Blocks until the barrier completes the named phase or closes. -/
  | barw (ka : BitVec 6) (bar : BitVec 6)
  /-- `BART` (R267). Adds expected transaction bytes to a barrier's current phase. -/
  | bart (ka : BitVec 6) (bar : BitVec 6)
  /-- `QPUSH` (R272). Pushes a handle onto a leash, blocking while the leash is full. -/
  | qpush (ka : BitVec 6) (q : BitVec 4)
  /-- `QPOP` (R272). Pops the oldest queued handle of a leash, blocking while it is empty. -/
  | qpop (ka : BitVec 6) (q : BitVec 4)
  /-- `QPEEK` (R272). Reads the oldest queued handle without blocking and reports in cM whether there was one. -/
  | qpeek (ka : BitVec 6) (m : BitVec 3) (q : BitVec 4)
  /-- `QREL` (R272). Frees the oldest held slot of a leash. -/
  | qrel (q : BitVec 4)
  /-- `SPAWN` (R276). Creates one lane task per active lane and sends each to a kennel. -/
  | spawn (ka : BitVec 6) (m : BitVec 3)
  /-- `SPAWN_DC` (R276). Creates one lane task per active lane and attaches each to a dependence counter. -/
  | spawnDc (ka : BitVec 6) (m : BitVec 3) (kc : BitVec 6)
  /-- `FGET` (R278). Reads a future per lane, squashing lanes whose future is empty. -/
  | fget (data : BitVec 7) (off : BitVec 8) (view : BitVec 5)
  /-- `FPUT` (R278). Fills a future per lane and releases its waiting counter. -/
  | fput (data : BitVec 7) (off : BitVec 8) (view : BitVec 5)
  /-- `DCNEW` (R279). Sets a dependence counter's count, releasing its list when the count is zero. -/
  | dcnew (ka : BitVec 6) (kb : BitVec 6)
  /-- `DCDEC` (R279). Decrements a dependence counter as a device-scope release. -/
  | dcdec (ka : BitVec 6)
  /-- `LAUNCH` (R280). Reads a 256-byte launch packet from memory and submits it for acceptance. -/
  | launch (ka : BitVec 6)
  /-- `EVSET` (R282). Sets the events named by a mask as a device-scope release. -/
  | evset (ka : BitVec 6) (g : BitVec 2)
  /-- `EVCLR` (R282). Clears the events named by a mask. -/
  | evclr (ka : BitVec 6) (g : BitVec 2)
  /-- `EVWAIT` (R282). Blocks until every event named by a mask is set at one instant. -/
  | evwait (ka : BitVec 6) (g : BitVec 2)
  /-- `SEQADD` (R283). Adds to a sequence counter modulo 2^64 as a device-scope release. -/
  | seqadd (ka : BitVec 6) (kb : BitVec 6)
  /-- `SEQWAIT` (R283). Blocks until a sequence counter reaches a threshold. -/
  | seqwait (ka : BitVec 6) (kb : BitVec 6)
  /-- `TCOPY` (R294). Issues a strided copy command with conversion to the copy engine. -/
  | tcopy (ka : BitVec 6) (kb : BitVec 6) (kc : BitVec 6)
  /-- `TGATH` (R296). Issues a copy whose source rows come from an index array. -/
  | tgath (ka : BitVec 6) (kb : BitVec 6) (kc : BitVec 6)
  /-- `TSCAT` (R296). Issues a copy whose destination rows come from an index array. -/
  | tscat (ka : BitVec 6) (kb : BitVec 6) (kc : BitVec 6)
  /-- `TRED` (R297). Issues a copy that combines each source element into its destination element. -/
  | tred (ka : BitVec 6) (kb : BitVec 6) (kc : BitVec 6)
  /-- `TFILL` (R298). Issues a command that fills a destination with a pattern. -/
  | tfill (ka : BitVec 6) (kb : BitVec 6) (kc : BitVec 6)
  /-- `NMC` (R301). Issues a near-memory command block to the base-die agents. -/
  | nmc (ka : BitVec 6) (kb : BitVec 6) (kc : BitVec 6)
  /-- `RLD` (R307). Loads 8 bytes from a peer page into kA. -/
  | rld (ka : BitVec 6) (kb : BitVec 6) (ord : BitVec 1)
  /-- `RST` (R307). Stores kA to 8 bytes of a peer page. -/
  | rst (ka : BitVec 6) (kb : BitVec 6) (rel : BitVec 1)
  /-- `RATOM` (R307). Performs an exactly-once 8-byte atomic on a peer page. -/
  | ratom (ka : BitVec 6) (kb : BitVec 6) (kc : BitVec 6) (op : BitVec 4)
  /-- `CSTEP` (R311). Issues a collective step block to the die's collective engine. -/
  | cstep (ka : BitVec 6) (kb : BitVec 6) (kc : BitVec 6)
  /-- `CFENCE` (R316). Holds later commands of the selected kinds until earlier ones complete. -/
  | cfence (mask : BitVec 4)
  /-- `ALW` (R310). Reads a peer's unreserved send allowance into kA. -/
  | alw (ka : BitVec 6) (kb : BitVec 6)
  /-- `BRALW` (R310). Branches when a peer's unreserved allowance is at least n. -/
  | bralw (ka : BitVec 6) (n : BitVec 10)
  /-- `CWAIT` (R315). Holds until the warp's steps with a STEPID complete and returns the status. -/
  | cwait (ka : BitVec 6) (kb : BitVec 6)
  /-- `MLOOP` (R334). Issues a multi-step matrix multiply-accumulate into a tile. -/
  | mloop (ka : BitVec 6) (kb : BitVec 6) (kc : BitVec 6) (t : BitVec 3)
  /-- `MSTEP` (R334). Issues a single-step matrix multiply-accumulate into a tile. -/
  | mstep (ka : BitVec 6) (kb : BitVec 6) (kc : BitVec 6) (t : BitVec 3)
  /-- `MFMT` (R326). Loads a format block from the window into the pack's format table. -/
  | mfmt (ka : BitVec 6) (kb : BitVec 6)
  /-- `MADR` (R335). Sets the warp's adapter identifier vector offset. -/
  | madr (ka : BitVec 6)
  /-- `MCFG` (R340). Invalidates adapter-cache entries once earlier matrix commands complete. -/
  | mcfg (ka : BitVec 6) (kb : BitVec 6)
  /-- `MBATCH` (R341). Closes the warp's open matrix commands into a numbered batch. -/
  | mbatch (ka : BitVec 6)
  /-- `MWAIT` (R341). Blocks until every batch up to a number has completed. -/
  | mwait (ka : BitVec 6)
  /-- `MEST` (R343). Returns the power estimate of the warp's latest matrix command. -/
  | mest (ka : BitVec 6)
  /-- `MZERO` (R346). Makes a tile CLEAN with every word +0. -/
  | mzero (t : BitVec 3)
  /-- `MTLD` (R348). Loads tile words from the window, widening them. -/
  | mtld (ka : BitVec 6) (kb : BitVec 6) (t : BitVec 3)
  /-- `MTST` (R349). Stores scaled, converted tile words to the window. -/
  | mtst (ka : BitVec 6) (kb : BitVec 6) (t : BitVec 3)
  /-- `MFFT` (R351). Runs butterfly stages of a transform on tile rows in place. -/
  | mfft (ka : BitVec 6) (t : BitVec 3)
  /-- `MTWID` (R346). Writes an N-point twiddle table into a tile. -/
  | mtwid (ka : BitVec 6) (t : BitVec 3)
  /-- `RETX` (R364). Returns from a handler to XPC at user level. -/
  | retx
  /-- `PARK` (R366). Marks a save point; holds the warp if a pre-emption is pending. -/
  | park
  /-- `IDLE` (R365). Consumes WAKE or blocks until a sev. -/
  | idle
  /-- `SEV` (R365). Readies the pack's idle warps or sets WAKE. -/
  | sev
  /-- `CHALT` (R367). Raises the context halt line. -/
  | chalt
  /-- `SYSR` (R368). Reads a system register into kA. -/
  | sysr (ka : BitVec 6) (idx : BitVec 12)
  /-- `SYSW` (R368). Writes kA to a system register. -/
  | sysw (ka : BitVec 6) (idx : BitVec 12)
  /-- `TLBINV` (R369). Invalidates the context's translations and raises its epoch. -/
  | tlbinv (ka : BitVec 6) (kb : BitVec 6)
  /-- `WPSET` (R370). Writes a watchpoint's base and control on every core of the partition. -/
  | wpset (ka : BitVec 6) (kb : BitVec 6)
  /-- `TSAVE` (R372). Saves a tile that another pack owns into that pack's record and untags it. -/
  | tsave (ka : BitVec 6)
  /-- `TREST` (R372). Claims a tile for the pack, restoring it from the pack's record if it was saved there. -/
  | trest (ka : BitVec 6)
  /-- `CHANNEL_SLOT_READ` (R408). The part reads the next packet slot of a submission channel after observing a write-index advance. -/
  | channelSlotRead (c : BitVec 6)
  /-- `PACK_DISPATCH` (R49). The dispatcher places the next pack, cluster group or wave that fits. -/
  | packDispatch (ctx : Nat) (lseq : BitVec 64) (places : List (Nat × Nat))
  /-- `PRIORITY_AGING` (R49). Waiting work gains one level of effective priority every 65,536 cycles, up to 3. -/
  | priorityAging
  /-- `KENNEL_TIMER_EXPIRY` (R35). KENNELT passes since the oldest task of a kennel entered. -/
  | kennelTimerExpiry (ctx kennel : Nat)
  /-- `PACK_RETIRE` (R27). A pack whose warps and operations have all finished frees its resources and applies its sequence adds. -/
  | packRetire (pack : Nat)
  /-- `PACK_PARK` (R43). A pack whose warps have all been blocked on watched conditions for PARKT is parked. -/
  | packPark (pack : Nat)
  /-- `PACK_RESUME` (R46). A parked or saved pack is restored on its home core or on another core. -/
  | packResume (pack core quad : Nat)
  /-- `ALLOWANCE_RETURN` (R309). Flow control or acknowledgements raise a peer's allowance and the head requester is sent or readied. -/
  | allowanceReturn (peer : BitVec 10) (units : Nat)
  /-- `SLICE_END` (R381). A context's time slice ends, and its packs are discarded, deferred or saved. -/
  | sliceEnd (ctx : Nat)
  /-- `TIMEOUT` (R383). TIMEOUT passes for a masked or supervisor-level pack and raises TIMEOUT. -/
  | timeout (pack : Nat)
  /-- `LANE_LOAD_REPLY` (R130). A load, atomic or uniform load reply writes its registers, tags poison or holds a FABRIC fault. -/
  | laneLoadReply (pack warp flight : Nat) (reply : RemoteReply)
  /-- `LANE_STORE_PERFORMED` (R130). A store is performed at its home and LANE-ST falls. -/
  | laneStorePerformed (pack warp flight : Nat) (reply : RemoteReply)
  /-- `WCB_DRAIN` (R192). A store leaves the write-combining buffer, is translated again, and is performed or held as a pending fault. -/
  | wcbDrain (pack warp flight : Nat)
  /-- `REMOTE_REPLY` (R308). A reply or acknowledgement to rld, rst or ratom arrives and FAB falls or a fault is held pending. -/
  | remoteReply (pack warp flight : Nat) (reply : RemoteReply)
  /-- `COPY_SEGMENT` (R294). The copy engine reads, converts and writes one segment of up to 4 KiB of a command. -/
  | copySegment (core tag : Nat) (reply : RemoteReply)
  /-- `ENGINE_FAULT_RETRY` (R374). A retry answer translates the access again and resumes the stalled or diverted command. -/
  | engineFaultRetry (ctx fseq : Nat)
  /-- `ENGINE_FAULT_ABORT` (R374). An abort answer halts the context with SOURCE abort. -/
  | engineFaultAbort (ctx fseq : Nat)
  /-- `ENGINE_LEASH_PUSH` (R273). A command's leash push that waited for a free slot is performed and the command completes. -/
  | engineLeashPush (core tag : Nat)
  /-- `ENGINE_BARRIER_DELIVERY` (R267). A command's transaction bytes are delivered to a barrier once TXB allows it. -/
  | engineBarrierDelivery (core tag : Nat)
  /-- `MATRIX_STEP` (R345). The engine grants and performs one step of a matrix command when credit allows. -/
  | matrixStep (core : Nat)
  /-- `ADAPTER_FILL_ARRIVAL` (R338). An adapter pair fill arrives in the cluster's adapter cache. -/
  | adapterFillArrival (core tag row : Nat) (reply : RemoteReply)
  /-- `CREDIT_REFILL` (R344). Every 1,024 cycles each core's credit is raised by BUDGET, capped at BUDGET. -/
  | creditRefill
  /-- `NMX` (R303). A base-die agent evaluates the expression on one output block. -/
  | nmx (core tag block : Nat) (reply : RemoteReply)
  /-- `NCAS` (R302). An agent compares and swaps up to four words indivisibly. -/
  | ncas (core tag : Nat) (reply : RemoteReply)
  /-- `NENQ` (R305). An agent enqueues a value into a ring queue indivisibly. -/
  | nenq (core tag : Nat) (reply : RemoteReply)
  /-- `NCHASE` (R305). An agent follows a linked list, hop by hop, until a stop condition. -/
  | nchase (core tag : Nat) (reply : RemoteReply)
  /-- `NFILL` (R302). An agent fills one output block with a pattern. -/
  | nfill (core tag block : Nat) (reply : RemoteReply)
  /-- `CSTEP_PEER_OFFER` (R312). A peer's offered step arrives and is paired with a matching local step, or mismatched. -/
  | cstepPeerOffer (peer : BitVec 10) (ctx : Nat) (step : BitVec 16) (count : Nat) (red senc : BitVec 4) (lower : Bool)
  /-- `CSTEP_DATA_ARRIVAL` (R313). Received collective data is combined with LOCAL and written to OUT. `tag` is the step's identity. -/
  | cstepDataArrival (tag : Nat) (data : Delivery) (poisoned last : Bool)
  /-- `CSTEP_ABANDON_NOTICE` (R314). Notice that a peer's step failed ends the local step with ABANDONED. -/
  | cstepAbandonNotice (peer : BitVec 10) (ctx : Nat) (step : BitVec 16)
  /-- `PEER_REQUEST` (R398). A Keastra request from a peer is served through its FCTX context and the reply cache. -/
  | peerRequest (src : BitVec 10) (fctx : BitVec 12) (tag : BitVec 16) (cls : BitVec 2) (va : BitVec 64) (req : PeerReq) (retired : List (BitVec 16))
  /-- `RETRY_REISSUE` (R399). A sender reissues a request 1 µs after a RETRY reply. -/
  | retryReissue (req : Nat)
  /-- `REQUEST_REISSUE` (R397). A request unanswered after REQTO is reissued, possibly on another port. -/
  | requestReissue (req port : Nat)
  /-- `PORT_UP` (R401). A UALink port comes up and starts negotiation with unreachable peers. -/
  | portUp (port : PortLink)
  /-- `PORT_DOWN` (R397). A UALink port goes down and requests use other ports or the peer is lost. `lost`: the peers that
  no other port's link reaches any more either. -/
  | portDown (port : BitVec 4) (lost : List (BitVec 10))
  /-- `PEER_CAPABILITIES` (R401). A peer's capabilities arrive and the entry becomes UP with negotiated versions. -/
  | peerCapabilities (peer : BitVec 10) (proto : BitVec 8) (decode nmcv : BitVec 4) (recv : BitVec 8) (coll : Bool)
  /-- `DIE_LINK_LOST` (R395). Loss of the die link halts every context and sets PSTAT.FATAL. -/
  | dieLinkLost
  /-- `REGISTER_UE` (R391). An uncorrectable error in register or control state discards the pack or halts the context. -/
  | registerUe (pack warp : Nat)
  /-- `TLBINV_ACK` (R191). No egress queue holds an older-epoch request and the invalidation is acknowledged. -/
  | tlbinvAck (ctx : Nat)
  /-- `HALT_MESSAGE_ARRIVAL` (R376). A halt message reaches a unit, which begins stopping within its skid bound. -/
  | haltMessageArrival (ctx unit : Nat)
  /-- `UNIT_STOP` (R376). A unit finishes its allowed work and stops for the halt. -/
  | unitStop (ctx unit : Nat)
  /-- `HALT_SETTLE` (R377). Once every unit has stopped, packs are saved, spill freed, launches completed HALTED and the header written. -/
  | haltSettle (ctx : Nat)
  /-- `CTXCREATE` (R406). Creates a context from a 256-byte descriptor. -/
  | ctxcreate (desc : BitVec 64) (ctx : BitVec 4)
  /-- `CTXDESTROY` (R404). Halts and destroys a context, completing its launches DISCARD and closing its channels. -/
  | ctxdestroy (ctx : BitVec 4)
  /-- `CTXCLEAR` (R407). Clears a halted context's records and task state and lifts its halt. -/
  | ctxclear (ctx : BitVec 4)
  /-- `HOSTEV_SET` (R404). Sets up to 64 events of a context from the host as a system-scope release. -/
  | hostevSet (ctx : BitVec 4) (g : BitVec 2) (mask : BitVec 64)
  /-- `HOSTEV_CLEAR` (R404). Clears up to 64 events of a context from the host. -/
  | hostevClear (ctx : BitVec 4) (g : BitVec 2) (mask : BitVec 64)
  /-- `DMA` (R409). Starts a bulk DMA between host and local memory. -/
  | dma (desc : BitVec 64)
  /-- `DMA_COMPLETE` (R409). A DMA finishes and its event releases all its writes. -/
  | dmaComplete (dma : Nat)
  /-- `FREEZE` (R413). Stops every clock except management and scan, after clearing secrets. -/
  | freeze
  /-- `ATTEST` (R415). Writes a signed 512-byte attestation report for a nonce. -/
  | attest (nonce report : BitVec 64)
  /-- `CHWR_WRITE` (R408). The host advances a channel's write index, or the write is ignored with OVR. -/
  | chwrWrite (c : BitVec 6) (val : BitVec 64)
  /-- `CHSTAT_WRITE` (R408). Write-one-to-clear of channel status; clearing FAULT resumes reading. -/
  | chstatWrite (c : BitVec 6) (val : BitVec 64)
  /-- `CHCTL_WRITE` (R408). Configures a channel's binding and size, refused while WR differs from RD. -/
  | chctlWrite (c : BitVec 6) (val : BitVec 64)
  /-- `CHBASE_WRITE` (R408). Sets a channel's ring base, refused while WR differs from RD. -/
  | chbaseWrite (c : BitVec 6) (val : BitVec 64)
  /-- `EVRRD_WRITE` (R405). The host consumes event records, freeing room for held events. -/
  | evrrdWrite (val : BitVec 64)
  /-- `CERTDATA_READ` (R405). Returns 8 bytes of the certificate chain and advances CERTSEL. -/
  | certdataRead
  /-- `SCANDATA_READ` (R413). Returns the next 64 bits of the selected scan chain. -/
  | scandataRead
  /-- `RAS_COUNTER_WRITE` (R412). Any write clears a RAS counter to zero. -/
  | rasCounterWrite (off : BitVec 16) (val : BitVec 64)
  /-- `PEER_ENTRY_WRITE` (R401). Writes a peer-table entry, and setting VALID starts negotiation. -/
  | peerEntryWrite (peer : BitVec 10) (val : BitVec 64)
  /-- `MGMT_REGISTER_WRITE` (R405). Writes a management register that has no behaviour of its own. -/
  | mgmtRegisterWrite (off : BitVec 16) (val : BitVec 64)
  /-- `POWER_LOOP` (R411). Every 100 µs the power loop sets EBUDGET to keep package power within PWRLIM. -/
  | powerLoop (pkgpw diepw0 diepw1 hbmpw : BitVec 32) (temp : BitVec 16) (ebudget : BitVec 32)
  /-- `POWER_OVERDRAW` (R411). Instantaneous draw passing PWRLIM halves EBUDGET within 10 µs. -/
  | powerOverdraw
  /-- `RESET` (R410). Reset starts the bring-up sequence of the part. -/
  | reset (fail : BitVec 3)
  /-- `UNASSIGNED_ENCODING` (R83). A packet holds a word whose major opcode or sub-function is unassigned, 0x7F included, and it raises ILLEGAL at decode. -/
  | unassignedEncoding (word : BitVec 32)
  /-- `DL_REPLAY` (R396). A UALink DL layer resends a flit exactly as stored after a transfer error, and DLREPLAY counts the event. -/
  | dlReplay (port : BitVec 4)
  deriving DecidableEq, Repr

end Sys2Proof
end

