-- ==== Sys2Proof/WellFormed.lean ====
section
/-! DEFINITION. Which words are instructions: the checks of order 1 of R83 that one word alone decides
(reserved operand and destination codes, R63 and R64; pair registers, R65; sub-functions that no row of the
opcode map lists, R81). What depends on the packet (`lit`, R72; `bralw` without `lit`) or on the warp's role is
checked when the packet issues. An event has no encoding and is always well formed. -/

namespace Sys2Proof

/-- A source code of R63 that names an operand: 0x73-0x77 and 0x7C-0x7F are reserved. -/
def srcOk (c : BitVec 8) : Bool :=
  !(decide (0x73 ≤ c.toNat) && decide (c.toNat ≤ 0x77)) && !(decide (0x7C ≤ c.toNat) && decide (c.toNat ≤ 0x7F))

/-- A source code in a 64-bit position (R65): no odd v or o code, no latch. -/
def srcOk64 (c : BitVec 8) : Bool :=
  srcOk c && !(decide (c.toNat < 0x70) && c.getLsbD 0) && !(decide (0x70 ≤ c.toNat) && decide (c.toNat ≤ 0x72))

/-- A 7-bit code that names a v or o register (R64, R246). -/
def accOk (d : BitVec 7) : Bool := decide (d.toNat < 0x70)

/-- A destination with its write bit (R64): a register when written, zero when not. -/
def dstOk (w : BitVec 1) (d : BitVec 7) : Bool := if w = 1 then accOk d else d == 0

/-- The number of data registers of a size code (R246). -/
def sizeRegs (size : BitVec 3) : Nat := match size.toNat with | 3 => 2 | 4 => 4 | _ => 1

/-- A data code with its size (R246): the size is 0 to 4 and the code is a multiple of the group. -/
def dataOk (data : BitVec 7) (size : BitVec 3) : Bool :=
  decide (size.toNat < 5) && accOk data && decide (data.toNat % sizeRegs size = 0)

/-- The mask register of `vstm` stands in the file of the data registers (R246, R250). -/
def maskOk (data : BitVec 7) (size : BitVec 3) : Bool :=
  decide (data.toNat + sizeRegs size < (if data.toNat < 0x60 then 0x60 else 0x70))

/-- A barrier code (R266): a root code has bit 4 clear. -/
def barOk (bar : BitVec 6) : Bool := !(bar.getLsbD 5 && bar.getLsbD 4)

/-- A field that names an even register of a pair (R321). -/
def pairOk (k : BitVec 6) : Bool := !k.getLsbD 0

/-- The special registers of R218 and R362 that some role holds. -/
def specialReadable (idx : BitVec 12) : Bool :=
  decide (idx.toNat ≤ 0x008) || (decide (0x010 ≤ idx.toNat) && decide (idx.toNat ≤ 0x015)) ||
  (decide (0x020 ≤ idx.toNat) && decide (idx.toNat ≤ 0x028))

/-- The special registers that are writable at some level (R218, R362). -/
def specialWritable (idx : BitVec 12) : Bool :=
  (decide (0x008 ≤ idx.toNat) && specialReadable idx) && !(decide (0x014 ≤ idx.toNat) && decide (idx.toNat ≤ 0x015))

/-- The system registers of R368. -/
def systemReadable (idx : BitVec 12) : Bool :=
  decide (idx.toNat ≤ 0x0BF) || (decide (0x100 ≤ idx.toNat) && decide (idx.toNat ≤ 0x11F)) ||
  (decide (0x200 ≤ idx.toNat) && decide (idx.toNat ≤ 0x204)) || idx.toNat == 0x208 || idx.toNat == 0x209

/-- The system registers that `sysw` may write (R368). -/
def systemWritable (idx : BitVec 12) : Bool := idx.toNat == 0x202 || idx.toNat == 0x203 || idx.toNat == 0x209

/-- The instruction is well formed. -/
def wf : Instr → Bool
  | .nop => true
  | .bra _ => true
  | .brc _ _ => true
  | .brcF _ _ => true
  | .brp _ _ => true
  | .call _ => true
  | .callC _ _ => true
  | .callF _ _ => true
  | .brx _ => true
  | .ret _ => true
  | .mark _ => true
  | .join => true
  | .exit => true
  | .yield => true
  | .waitc _ fn => decide (fn.toNat < 5)
  | .lit _ => true
  | .rep _ _ _ _ _ _ => true
  | .trap _ => true
  | .uadd _ _ _ => true
  | .usub _ _ _ => true
  | .umul _ _ _ => true
  | .umulh _ _ _ => true
  | .uand _ _ _ => true
  | .uor _ _ _ => true
  | .uxor _ _ _ => true
  | .ushl _ _ _ => true
  | .ushr _ _ _ => true
  | .usar _ _ _ => true
  | .umin _ _ _ => true
  | .umax _ _ _ => true
  | .umov _ _ => true
  | .ubfe _ _ _ => true
  | .uclz _ _ => true
  | .ucnt _ _ => true
  | .umad _ _ _ => true
  | .ucmp _ _ _ fn => decide (fn.toNat < 10)
  | .usel _ _ _ _ => true
  | .uli _ _ => true
  | .uld _ _ _ => true
  | .ust _ _ _ => true
  | .usr _ idx => specialReadable idx
  | .uws _ idx => specialWritable idx
  | .vadd w d a b => dstOk w d && srcOk a && srcOk b
  | .vsub w d a b => dstOk w d && srcOk a && srcOk b
  | .vmul w d a b => dstOk w d && srcOk a && srcOk b
  | .vmulh w d a b => dstOk w d && srcOk a && srcOk b
  | .vmad _ d a b => accOk d && srcOk a && srcOk b
  | .vadds w d a b => dstOk w d && srcOk a && srcOk b
  | .vsubs w d a b => dstOk w d && srcOk a && srcOk b
  | .vand w d a b => dstOk w d && srcOk a && srcOk b
  | .vor w d a b => dstOk w d && srcOk a && srcOk b
  | .vxor w d a b => dstOk w d && srcOk a && srcOk b
  | .vshl w d a b => dstOk w d && srcOk a && srcOk b
  | .vshr w d a b => dstOk w d && srcOk a && srcOk b
  | .vsar w d a b => dstOk w d && srcOk a && srcOk b
  | .vfsh _ d a b => accOk d && srcOk a && srcOk b
  | .vmin w d a b => dstOk w d && srcOk a && srcOk b
  | .vmax w d a b => dstOk w d && srcOk a && srcOk b
  | .vminu w d a b => dstOk w d && srcOk a && srcOk b
  | .vmaxu w d a b => dstOk w d && srcOk a && srcOk b
  | .vbfe w d a b => dstOk w d && srcOk a && srcOk b
  | .vbfi _ d a b => accOk d && srcOk a && srcOk b
  | .vcmp cond _ a b => decide (cond.toNat < 10) && srcOk a && srcOk b
  | .vsel _ d a b => accOk d && srcOk a && srcOk b
  | .vabs w d a => dstOk w d && srcOk a
  | .vclz w d a => dstOk w d && srcOk a
  | .vcnt w d a => dstOk w d && srcOk a
  | .vbrev w d a => dstOk w d && srcOk a
  | .vmov w d a => dstOk w d && srcOk a
  | .vpm w d _ => dstOk w d
  | .vmp _ a => srcOk a
  | .vfadd w d a b => dstOk w d && srcOk a && srcOk b
  | .vfsub w d a b => dstOk w d && srcOk a && srcOk b
  | .vfmul w d a b => dstOk w d && srcOk a && srcOk b
  | .vfma _ d a b => accOk d && srcOk a && srcOk b
  | .vfma2 _ d a b => accOk d && d.getLsbD 0 == false && srcOk64 a && srcOk64 b
  | .vhfma2 _ d a b => accOk d && srcOk a && srcOk b
  | .vfmin w d a b => dstOk w d && srcOk a && srcOk b
  | .vfmax w d a b => dstOk w d && srcOk a && srcOk b
  | .vfcmp cond _ a b => decide (cond.toNat < 8) && srcOk a && srcOk b
  | .vfcvt w d a rnd conv => dstOk w d && srcOk a && decide (rnd.toNat < 5) && decide (conv.toNat < 0x17)
  | .vfrcp w d a => dstOk w d && srcOk a
  | .vfrsq w d a => dstOk w d && srcOk a
  | .vfsqrt w d a => dstOk w d && srcOk a
  | .vfexp2 w d a => dstOk w d && srcOk a
  | .vflog2 w d a => dstOk w d && srcOk a
  | .vfsin w d a => dstOk w d && srcOk a
  | .vfcos w d a => dstOk w d && srcOk a
  | .vcbld a => srcOk a
  | .vcbx w d a b => dstOk w d && srcOk a && srcOk b
  | .vcbq _ d a b => accOk d && srcOk a && srcOk b
  | .vshflIdx w d a b => dstOk w d && srcOk a && srcOk b
  | .vshflUp w d a b => dstOk w d && srcOk a && srcOk b
  | .vshflDown w d a b => dstOk w d && srcOk a && srcOk b
  | .vshflXor w d a b => dstOk w d && srcOk a && srcOk b
  | .vvoteAny w d _ => dstOk w d
  | .vvoteAll w d _ => dstOk w d
  | .vvoteBallot w d _ => dstOk w d
  | .vred w d a op => dstOk w d && srcOk a && decide (op.toNat < 11)
  | .vscan w d a op => dstOk w d && srcOk a && decide (op.toNat < 11)
  | .vbcast w d a b => dstOk w d && srcOk a && srcOk b
  | .vmatch w d a => dstOk w d && srcOk a
  | .vld _ data off _ size => dataOk data size && srcOk off
  | .vst _ data off _ size => dataOk data size && srcOk off
  | .vstm _ data off _ size => dataOk data size && maskOk data size && srcOk off
  | .vatom _ data off _ _ => accOk data && srcOk off
  | .vcas _ data off _ wide => accOk data && decide (data.toNat % (if wide = 1 then 4 else 2) = 0) && srcOk off
  | .sld _ data off _ size => dataOk data size && srcOk off
  | .sst _ data off _ size => dataOk data size && srcOk off
  | .satom _ data off _ _ => accOk data && srcOk off
  | .trd data off _ size => dataOk data size && srcOk off
  | .twr data off _ size => dataOk data size && srcOk off
  | .vprf off _ lvl => srcOk off && decide (lvl.toNat < 3)
  | .fence kind scope => decide (kind.toNat < 4) && decide (scope.toNat < 5)
  | .bari _ bar => barOk bar
  | .barv _ bar => barOk bar
  | .bard bar => barOk bar
  | .barw _ bar => barOk bar
  | .bart _ bar => barOk bar
  | .qpush _ _ => true
  | .qpop _ _ => true
  | .qpeek _ _ _ => true
  | .qrel _ => true
  | .spawn _ m => decide (m.toNat < 6)
  | .spawnDc _ m _ => decide (m.toNat < 6)
  | .fget data off _ => accOk data && decide (data.toNat % 2 = 0) && srcOk off
  | .fput data off _ => accOk data && decide (data.toNat % 2 = 0) && srcOk off
  | .dcnew _ _ => true
  | .dcdec _ => true
  | .launch _ => true
  | .evset _ _ => true
  | .evclr _ _ => true
  | .evwait _ _ => true
  | .seqadd _ _ => true
  | .seqwait _ _ => true
  | .tcopy _ _ _ => true
  | .tgath _ _ _ => true
  | .tscat _ _ _ => true
  | .tred _ _ _ => true
  | .tfill _ _ _ => true
  | .nmc _ _ _ => true
  | .rld _ _ _ => true
  | .rst _ _ _ => true
  | .ratom _ _ kc op => decide (op.toNat < 8) && !(op == 7 && kc.getLsbD 0)
  | .cstep _ _ _ => true
  | .cfence mask => mask != 0
  | .alw _ _ => true
  | .bralw _ _ => true
  | .cwait _ _ => true
  | .mloop ka kb _ _ => pairOk ka && pairOk kb
  | .mstep _ _ _ _ => true
  | .mfmt _ _ => true
  | .madr _ => true
  | .mcfg _ _ => true
  | .mbatch _ => true
  | .mwait _ => true
  | .mest _ => true
  | .mzero _ => true
  | .mtld _ _ _ => true
  | .mtst _ _ _ => true
  | .mfft ka _ => pairOk ka
  | .mtwid _ _ => true
  | .retx => true
  | .park => true
  | .idle => true
  | .sev => true
  | .chalt => true
  | .sysr _ idx => systemReadable idx
  | .sysw _ idx => systemWritable idx
  | .tlbinv _ _ => true
  | .wpset _ _ => true
  | .tsave _ => true
  | .trest _ => true
  | .channelSlotRead _ => true
  | .packDispatch _ _ _ => true
  | .priorityAging => true
  | .kennelTimerExpiry _ _ => true
  | .packRetire _ => true
  | .packPark _ => true
  | .packResume _ _ _ => true
  | .allowanceReturn _ _ => true
  | .sliceEnd _ => true
  | .timeout _ => true
  | .laneLoadReply _ _ _ _ => true
  | .laneStorePerformed _ _ _ _ => true
  | .wcbDrain _ _ _ => true
  | .remoteReply _ _ _ _ => true
  | .copySegment _ _ _ => true
  | .engineFaultRetry _ _ => true
  | .engineFaultAbort _ _ => true
  | .engineLeashPush _ _ => true
  | .engineBarrierDelivery _ _ => true
  | .matrixStep _ => true
  | .adapterFillArrival _ _ _ _ => true
  | .creditRefill => true
  | .nmx _ _ _ _ => true
  | .ncas _ _ _ => true
  | .nenq _ _ _ => true
  | .nchase _ _ _ => true
  | .nfill _ _ _ _ => true
  | .cstepPeerOffer _ _ _ _ _ _ _ => true
  | .cstepDataArrival _ _ _ _ => true
  | .cstepAbandonNotice _ _ _ => true
  | .peerRequest _ _ _ _ _ _ _ => true
  | .retryReissue _ => true
  | .requestReissue _ _ => true
  | .portUp _ => true
  | .portDown _ _ => true
  | .peerCapabilities _ _ _ _ _ _ => true
  | .dieLinkLost => true
  | .registerUe _ _ => true
  | .tlbinvAck _ => true
  | .haltMessageArrival _ _ => true
  | .unitStop _ _ => true
  | .haltSettle _ => true
  | .ctxcreate _ _ => true
  | .ctxdestroy _ => true
  | .ctxclear _ => true
  | .hostevSet _ _ _ => true
  | .hostevClear _ _ _ => true
  | .dma _ => true
  | .dmaComplete _ => true
  | .freeze => true
  | .attest _ _ => true
  | .chwrWrite _ _ => true
  | .chstatWrite _ _ => true
  | .chctlWrite _ _ => true
  | .chbaseWrite _ _ => true
  | .evrrdWrite _ => true
  | .certdataRead => true
  | .scandataRead => true
  | .rasCounterWrite _ _ => true
  | .peerEntryWrite _ _ => true
  | .mgmtRegisterWrite _ _ => true
  | .powerLoop _ _ _ _ _ _ => true
  | .powerOverdraw => true
  | .reset _ => true
  | .unassignedEncoding _ => true
  | .dlReplay _ => true

end Sys2Proof
end

