-- ==== Sys2Proof/Decode.lean ====
section
/-! DEFINITION. Decoding and encoding of instruction words, by the formats of R77 and the opcode map of R81.
Decoding is total: a word that is no instruction gives `none`. Bit 31, the chain bit C, belongs to the packet
(R55) and is not read here; it is set in the encoding of `lit` and `rep`, which chain the word they serve. -/

namespace Sys2Proof

/-- The `n` bits of `x` from bit `lo` upwards. -/
def bf (n : Nat) (x lo : Nat) : BitVec n := BitVec.ofNat n (x / 2 ^ lo)


/-- The control words and prefixes of R81, by major opcode `op` and the sub-function fields of `x`. -/
def decodeControl (op x : Nat) : Option Instr :=
  if op = 0x00 then
    if x / 2 ^ 0 % 2 ^ 24 = 0 then some .nop else
    none
  else
  if op = 0x01 then
    if x / 2 ^ 19 % 2 ^ 5 = 0 then some (.bra (bf 19 x 0)) else
    if x / 2 ^ 22 % 2 ^ 2 = 1 then some (.brc (bf 3 x 19) (bf 19 x 0)) else
    if x / 2 ^ 22 % 2 ^ 2 = 2 then some (.brcF (bf 3 x 19) (bf 19 x 0)) else
    if x / 2 ^ 22 % 2 ^ 2 = 3 then some (.brp (bf 3 x 19) (bf 19 x 0)) else
    none
  else
  if op = 0x02 then
    if x / 2 ^ 19 % 2 ^ 5 = 0 then some (.call (bf 19 x 0)) else
    if x / 2 ^ 22 % 2 ^ 2 = 1 then some (.callC (bf 3 x 19) (bf 19 x 0)) else
    if x / 2 ^ 22 % 2 ^ 2 = 2 then some (.callF (bf 3 x 19) (bf 19 x 0)) else
    none
  else
  if op = 0x03 then
    if x / 2 ^ 0 % 2 ^ 18 = 0 then some (.brx (bf 6 x 18)) else
    none
  else
  if op = 0x04 then
    if x / 2 ^ 0 % 2 ^ 18 = 0 then some (.ret (bf 6 x 18)) else
    none
  else
  if op = 0x05 then
    if x / 2 ^ 19 % 2 ^ 5 = 0 then some (.mark (bf 19 x 0)) else
    none
  else
  if op = 0x06 then
    if x / 2 ^ 0 % 2 ^ 24 = 0 then some .join else
    none
  else
  if op = 0x07 then
    if x / 2 ^ 0 % 2 ^ 24 = 0 then some .exit else
    none
  else
  if op = 0x08 then
    if x / 2 ^ 0 % 2 ^ 24 = 0 then some .yield else
    none
  else
  if op = 0x09 then
    if x / 2 ^ 6 % 2 ^ 12 = 0 then some (.waitc (bf 6 x 18) (bf 6 x 0)) else
    none
  else
  if op = 0x0A then
    some (.lit (bf 24 x 0))
  else
  if op = 0x0B then
    if x / 2 ^ 0 % 2 ^ 12 = 0 then some (.rep (bf 6 x 18) (bf 1 x 17) (bf 1 x 16) (bf 1 x 15) (bf 1 x 14) (bf 2 x 12)) else
    none
  else
  if op = 0x0C then
    if x / 2 ^ 6 % 2 ^ 18 = 0 then some (.trap (bf 6 x 0)) else
    none
  else
  none

/-- The uniform words of R81, by major opcode `op` and the sub-function fields of `x`. -/
def decodeUniform (op x : Nat) : Option Instr :=
  if op = 0x10 then
    if x / 2 ^ 0 % 2 ^ 6 = 0 then some (.uadd (bf 6 x 18) (bf 6 x 12) (bf 6 x 6)) else
    if x / 2 ^ 0 % 2 ^ 6 = 1 then some (.usub (bf 6 x 18) (bf 6 x 12) (bf 6 x 6)) else
    if x / 2 ^ 0 % 2 ^ 6 = 2 then some (.umul (bf 6 x 18) (bf 6 x 12) (bf 6 x 6)) else
    if x / 2 ^ 0 % 2 ^ 6 = 3 then some (.umulh (bf 6 x 18) (bf 6 x 12) (bf 6 x 6)) else
    if x / 2 ^ 0 % 2 ^ 6 = 4 then some (.uand (bf 6 x 18) (bf 6 x 12) (bf 6 x 6)) else
    if x / 2 ^ 0 % 2 ^ 6 = 5 then some (.uor (bf 6 x 18) (bf 6 x 12) (bf 6 x 6)) else
    if x / 2 ^ 0 % 2 ^ 6 = 6 then some (.uxor (bf 6 x 18) (bf 6 x 12) (bf 6 x 6)) else
    if x / 2 ^ 0 % 2 ^ 6 = 7 then some (.ushl (bf 6 x 18) (bf 6 x 12) (bf 6 x 6)) else
    if x / 2 ^ 0 % 2 ^ 6 = 8 then some (.ushr (bf 6 x 18) (bf 6 x 12) (bf 6 x 6)) else
    if x / 2 ^ 0 % 2 ^ 6 = 9 then some (.usar (bf 6 x 18) (bf 6 x 12) (bf 6 x 6)) else
    if x / 2 ^ 0 % 2 ^ 6 = 10 then some (.umin (bf 6 x 18) (bf 6 x 12) (bf 6 x 6)) else
    if x / 2 ^ 0 % 2 ^ 6 = 11 then some (.umax (bf 6 x 18) (bf 6 x 12) (bf 6 x 6)) else
    if x / 2 ^ 0 % 2 ^ 12 = 12 then some (.umov (bf 6 x 18) (bf 6 x 12)) else
    if x / 2 ^ 0 % 2 ^ 6 = 13 then some (.ubfe (bf 6 x 18) (bf 6 x 12) (bf 6 x 6)) else
    if x / 2 ^ 0 % 2 ^ 12 = 14 then some (.uclz (bf 6 x 18) (bf 6 x 12)) else
    if x / 2 ^ 0 % 2 ^ 12 = 15 then some (.ucnt (bf 6 x 18) (bf 6 x 12)) else
    if x / 2 ^ 0 % 2 ^ 6 = 16 then some (.umad (bf 6 x 18) (bf 6 x 12) (bf 6 x 6)) else
    none
  else
  if op = 0x11 then
    if x / 2 ^ 21 % 2 ^ 3 = 0 then some (.ucmp (bf 3 x 18) (bf 6 x 12) (bf 6 x 6) (bf 6 x 0)) else
    none
  else
  if op = 0x12 then
    if x / 2 ^ 3 % 2 ^ 3 = 0 then some (.usel (bf 6 x 18) (bf 6 x 12) (bf 6 x 6) (bf 3 x 0)) else
    none
  else
  if op = 0x13 then
    some (.uli (bf 6 x 18) (bf 18 x 0))
  else
  if op = 0x14 then
    some (.uld (bf 6 x 18) (bf 6 x 12) (bf 12 x 0))
  else
  if op = 0x15 then
    some (.ust (bf 6 x 18) (bf 6 x 12) (bf 12 x 0))
  else
  if op = 0x16 then
    if x / 2 ^ 12 % 2 ^ 6 = 0 then some (.usr (bf 6 x 18) (bf 12 x 0)) else
    none
  else
  if op = 0x17 then
    if x / 2 ^ 18 % 2 ^ 6 = 0 then some (.uws (bf 6 x 12) (bf 12 x 0)) else
    none
  else
  none

/-- The vector integer words of R81, by major opcode `op` and the sub-function fields of `x`. -/
def decodeInteger (op x : Nat) : Option Instr :=
  if op = 0x20 then
    some (.vadd (bf 1 x 23) (bf 7 x 16) (bf 8 x 8) (bf 8 x 0))
  else
  if op = 0x21 then
    some (.vsub (bf 1 x 23) (bf 7 x 16) (bf 8 x 8) (bf 8 x 0))
  else
  if op = 0x22 then
    some (.vmul (bf 1 x 23) (bf 7 x 16) (bf 8 x 8) (bf 8 x 0))
  else
  if op = 0x23 then
    some (.vmulh (bf 1 x 23) (bf 7 x 16) (bf 8 x 8) (bf 8 x 0))
  else
  if op = 0x24 then
    some (.vmad (bf 1 x 23) (bf 7 x 16) (bf 8 x 8) (bf 8 x 0))
  else
  if op = 0x25 then
    some (.vadds (bf 1 x 23) (bf 7 x 16) (bf 8 x 8) (bf 8 x 0))
  else
  if op = 0x26 then
    some (.vsubs (bf 1 x 23) (bf 7 x 16) (bf 8 x 8) (bf 8 x 0))
  else
  if op = 0x27 then
    some (.vand (bf 1 x 23) (bf 7 x 16) (bf 8 x 8) (bf 8 x 0))
  else
  if op = 0x28 then
    some (.vor (bf 1 x 23) (bf 7 x 16) (bf 8 x 8) (bf 8 x 0))
  else
  if op = 0x29 then
    some (.vxor (bf 1 x 23) (bf 7 x 16) (bf 8 x 8) (bf 8 x 0))
  else
  if op = 0x2A then
    some (.vshl (bf 1 x 23) (bf 7 x 16) (bf 8 x 8) (bf 8 x 0))
  else
  if op = 0x2B then
    some (.vshr (bf 1 x 23) (bf 7 x 16) (bf 8 x 8) (bf 8 x 0))
  else
  if op = 0x2C then
    some (.vsar (bf 1 x 23) (bf 7 x 16) (bf 8 x 8) (bf 8 x 0))
  else
  if op = 0x2D then
    some (.vfsh (bf 1 x 23) (bf 7 x 16) (bf 8 x 8) (bf 8 x 0))
  else
  if op = 0x2E then
    some (.vmin (bf 1 x 23) (bf 7 x 16) (bf 8 x 8) (bf 8 x 0))
  else
  if op = 0x2F then
    some (.vmax (bf 1 x 23) (bf 7 x 16) (bf 8 x 8) (bf 8 x 0))
  else
  if op = 0x30 then
    some (.vminu (bf 1 x 23) (bf 7 x 16) (bf 8 x 8) (bf 8 x 0))
  else
  if op = 0x31 then
    some (.vmaxu (bf 1 x 23) (bf 7 x 16) (bf 8 x 8) (bf 8 x 0))
  else
  if op = 0x32 then
    some (.vbfe (bf 1 x 23) (bf 7 x 16) (bf 8 x 8) (bf 8 x 0))
  else
  if op = 0x33 then
    some (.vbfi (bf 1 x 23) (bf 7 x 16) (bf 8 x 8) (bf 8 x 0))
  else
  if op = 0x34 then
    if x / 2 ^ 23 % 2 ^ 1 = 1 then some (.vcmp (bf 4 x 19) (bf 3 x 16) (bf 8 x 8) (bf 8 x 0)) else
    none
  else
  if op = 0x35 then
    some (.vsel (bf 1 x 23) (bf 7 x 16) (bf 8 x 8) (bf 8 x 0))
  else
  if op = 0x37 then
    if x / 2 ^ 0 % 2 ^ 8 = 0 then some (.vabs (bf 1 x 23) (bf 7 x 16) (bf 8 x 8)) else
    if x / 2 ^ 0 % 2 ^ 8 = 1 then some (.vclz (bf 1 x 23) (bf 7 x 16) (bf 8 x 8)) else
    if x / 2 ^ 0 % 2 ^ 8 = 2 then some (.vcnt (bf 1 x 23) (bf 7 x 16) (bf 8 x 8)) else
    if x / 2 ^ 0 % 2 ^ 8 = 3 then some (.vbrev (bf 1 x 23) (bf 7 x 16) (bf 8 x 8)) else
    if x / 2 ^ 0 % 2 ^ 8 = 4 then some (.vmov (bf 1 x 23) (bf 7 x 16) (bf 8 x 8)) else
    if x / 2 ^ 0 % 2 ^ 8 = 5 ∧ x / 2 ^ 11 % 2 ^ 5 = 0 then some (.vpm (bf 1 x 23) (bf 7 x 16) (bf 3 x 8)) else
    if x / 2 ^ 0 % 2 ^ 8 = 6 ∧ x / 2 ^ 19 % 2 ^ 5 = 16 then some (.vmp (bf 3 x 16) (bf 8 x 8)) else
    none
  else
  none

/-- The vector floating, conversion, special-function and codebook words of R81, by major opcode `op` and the sub-function fields of `x`. -/
def decodeFloat (op x : Nat) : Option Instr :=
  if op = 0x38 then
    some (.vfadd (bf 1 x 23) (bf 7 x 16) (bf 8 x 8) (bf 8 x 0))
  else
  if op = 0x39 then
    some (.vfsub (bf 1 x 23) (bf 7 x 16) (bf 8 x 8) (bf 8 x 0))
  else
  if op = 0x3A then
    some (.vfmul (bf 1 x 23) (bf 7 x 16) (bf 8 x 8) (bf 8 x 0))
  else
  if op = 0x3B then
    some (.vfma (bf 1 x 23) (bf 7 x 16) (bf 8 x 8) (bf 8 x 0))
  else
  if op = 0x3C then
    some (.vfma2 (bf 1 x 23) (bf 7 x 16) (bf 8 x 8) (bf 8 x 0))
  else
  if op = 0x3D then
    some (.vhfma2 (bf 1 x 23) (bf 7 x 16) (bf 8 x 8) (bf 8 x 0))
  else
  if op = 0x3E then
    some (.vfmin (bf 1 x 23) (bf 7 x 16) (bf 8 x 8) (bf 8 x 0))
  else
  if op = 0x3F then
    some (.vfmax (bf 1 x 23) (bf 7 x 16) (bf 8 x 8) (bf 8 x 0))
  else
  if op = 0x40 then
    if x / 2 ^ 23 % 2 ^ 1 = 1 then some (.vfcmp (bf 4 x 19) (bf 3 x 16) (bf 8 x 8) (bf 8 x 0)) else
    none
  else
  if op = 0x41 then
    some (.vfcvt (bf 1 x 23) (bf 7 x 16) (bf 8 x 8) (bf 3 x 5) (bf 5 x 0))
  else
  if op = 0x42 then
    if x / 2 ^ 0 % 2 ^ 8 = 0 then some (.vfrcp (bf 1 x 23) (bf 7 x 16) (bf 8 x 8)) else
    if x / 2 ^ 0 % 2 ^ 8 = 1 then some (.vfrsq (bf 1 x 23) (bf 7 x 16) (bf 8 x 8)) else
    if x / 2 ^ 0 % 2 ^ 8 = 2 then some (.vfsqrt (bf 1 x 23) (bf 7 x 16) (bf 8 x 8)) else
    if x / 2 ^ 0 % 2 ^ 8 = 3 then some (.vfexp2 (bf 1 x 23) (bf 7 x 16) (bf 8 x 8)) else
    if x / 2 ^ 0 % 2 ^ 8 = 4 then some (.vflog2 (bf 1 x 23) (bf 7 x 16) (bf 8 x 8)) else
    if x / 2 ^ 0 % 2 ^ 8 = 5 then some (.vfsin (bf 1 x 23) (bf 7 x 16) (bf 8 x 8)) else
    if x / 2 ^ 0 % 2 ^ 8 = 6 then some (.vfcos (bf 1 x 23) (bf 7 x 16) (bf 8 x 8)) else
    none
  else
  if op = 0x43 then
    if x / 2 ^ 0 % 2 ^ 8 = 0 ∧ x / 2 ^ 16 % 2 ^ 8 = 0 then some (.vcbld (bf 8 x 8)) else
    none
  else
  if op = 0x44 then
    some (.vcbx (bf 1 x 23) (bf 7 x 16) (bf 8 x 8) (bf 8 x 0))
  else
  if op = 0x45 then
    some (.vcbq (bf 1 x 23) (bf 7 x 16) (bf 8 x 8) (bf 8 x 0))
  else
  none

/-- The cross-lane and lane-memory words of R81, by major opcode `op` and the sub-function fields of `x`. -/
def decodeLane (op x : Nat) : Option Instr :=
  if op = 0x50 then
    some (.vshflIdx (bf 1 x 23) (bf 7 x 16) (bf 8 x 8) (bf 8 x 0))
  else
  if op = 0x51 then
    some (.vshflUp (bf 1 x 23) (bf 7 x 16) (bf 8 x 8) (bf 8 x 0))
  else
  if op = 0x52 then
    some (.vshflDown (bf 1 x 23) (bf 7 x 16) (bf 8 x 8) (bf 8 x 0))
  else
  if op = 0x53 then
    some (.vshflXor (bf 1 x 23) (bf 7 x 16) (bf 8 x 8) (bf 8 x 0))
  else
  if op = 0x54 then
    if x / 2 ^ 0 % 2 ^ 8 = 0 ∧ x / 2 ^ 11 % 2 ^ 5 = 0 then some (.vvoteAny (bf 1 x 23) (bf 7 x 16) (bf 3 x 8)) else
    if x / 2 ^ 0 % 2 ^ 8 = 1 ∧ x / 2 ^ 11 % 2 ^ 5 = 0 then some (.vvoteAll (bf 1 x 23) (bf 7 x 16) (bf 3 x 8)) else
    if x / 2 ^ 0 % 2 ^ 8 = 2 ∧ x / 2 ^ 11 % 2 ^ 5 = 0 then some (.vvoteBallot (bf 1 x 23) (bf 7 x 16) (bf 3 x 8)) else
    none
  else
  if op = 0x55 then
    if x / 2 ^ 4 % 2 ^ 4 = 0 then some (.vred (bf 1 x 23) (bf 7 x 16) (bf 8 x 8) (bf 4 x 0)) else
    if x / 2 ^ 4 % 2 ^ 4 = 1 then some (.vscan (bf 1 x 23) (bf 7 x 16) (bf 8 x 8) (bf 4 x 0)) else
    none
  else
  if op = 0x56 then
    some (.vbcast (bf 1 x 23) (bf 7 x 16) (bf 8 x 8) (bf 8 x 0))
  else
  if op = 0x57 then
    if x / 2 ^ 0 % 2 ^ 8 = 0 then some (.vmatch (bf 1 x 23) (bf 7 x 16) (bf 8 x 8)) else
    none
  else
  if op = 0x58 then
    some (.vld (bf 1 x 23) (bf 7 x 16) (bf 8 x 8) (bf 5 x 3) (bf 3 x 0))
  else
  if op = 0x59 then
    some (.vst (bf 1 x 23) (bf 7 x 16) (bf 8 x 8) (bf 5 x 3) (bf 3 x 0))
  else
  if op = 0x5A then
    some (.vstm (bf 1 x 23) (bf 7 x 16) (bf 8 x 8) (bf 5 x 3) (bf 3 x 0))
  else
  if op = 0x5B then
    some (.vatom (bf 1 x 23) (bf 7 x 16) (bf 8 x 8) (bf 5 x 3) (bf 3 x 0))
  else
  if op = 0x5C then
    if x / 2 ^ 1 % 2 ^ 2 = 1 then some (.vcas (bf 1 x 23) (bf 7 x 16) (bf 8 x 8) (bf 5 x 3) (bf 1 x 0)) else
    none
  else
  if op = 0x5D then
    some (.sld (bf 1 x 23) (bf 7 x 16) (bf 8 x 8) (bf 5 x 3) (bf 3 x 0))
  else
  if op = 0x5E then
    some (.sst (bf 1 x 23) (bf 7 x 16) (bf 8 x 8) (bf 5 x 3) (bf 3 x 0))
  else
  if op = 0x5F then
    some (.satom (bf 1 x 23) (bf 7 x 16) (bf 8 x 8) (bf 5 x 3) (bf 3 x 0))
  else
  if op = 0x60 then
    if x / 2 ^ 6 % 2 ^ 2 = 0 ∧ x / 2 ^ 23 % 2 ^ 1 = 0 then some (.trd (bf 7 x 16) (bf 8 x 8) (bf 3 x 3) (bf 3 x 0)) else
    none
  else
  if op = 0x61 then
    if x / 2 ^ 6 % 2 ^ 2 = 0 ∧ x / 2 ^ 23 % 2 ^ 1 = 0 then some (.twr (bf 7 x 16) (bf 8 x 8) (bf 3 x 3) (bf 3 x 0)) else
    none
  else
  if op = 0x62 then
    if x / 2 ^ 16 % 2 ^ 8 = 0 then some (.vprf (bf 8 x 8) (bf 5 x 3) (bf 3 x 0)) else
    none
  else
  none

/-- The synchronisation words of R81, by major opcode `op` and the sub-function fields of `x`. -/
def decodeSync (op x : Nat) : Option Instr :=
  if op = 0x64 then
    if x / 2 ^ 6 % 2 ^ 18 = 0 then some (.fence (bf 3 x 3) (bf 3 x 0)) else
    none
  else
  if op = 0x65 then
    if x / 2 ^ 0 % 2 ^ 6 = 0 ∧ x / 2 ^ 12 % 2 ^ 6 = 0 then some (.bari (bf 6 x 18) (bf 6 x 6)) else
    if x / 2 ^ 0 % 2 ^ 6 = 1 ∧ x / 2 ^ 12 % 2 ^ 6 = 0 then some (.barv (bf 6 x 18) (bf 6 x 6)) else
    if x / 2 ^ 0 % 2 ^ 6 = 2 ∧ x / 2 ^ 12 % 2 ^ 12 = 0 then some (.bard (bf 6 x 6)) else
    if x / 2 ^ 0 % 2 ^ 6 = 3 ∧ x / 2 ^ 12 % 2 ^ 6 = 0 then some (.barw (bf 6 x 18) (bf 6 x 6)) else
    if x / 2 ^ 0 % 2 ^ 6 = 4 ∧ x / 2 ^ 12 % 2 ^ 6 = 0 then some (.bart (bf 6 x 18) (bf 6 x 6)) else
    none
  else
  if op = 0x66 then
    if x / 2 ^ 0 % 2 ^ 6 = 0 ∧ x / 2 ^ 10 % 2 ^ 8 = 0 then some (.qpush (bf 6 x 18) (bf 4 x 6)) else
    if x / 2 ^ 0 % 2 ^ 6 = 1 ∧ x / 2 ^ 10 % 2 ^ 8 = 0 then some (.qpop (bf 6 x 18) (bf 4 x 6)) else
    if x / 2 ^ 0 % 2 ^ 6 = 2 ∧ x / 2 ^ 10 % 2 ^ 2 = 0 ∧ x / 2 ^ 15 % 2 ^ 3 = 0 then some (.qpeek (bf 6 x 18) (bf 3 x 12) (bf 4 x 6)) else
    if x / 2 ^ 0 % 2 ^ 6 = 3 ∧ x / 2 ^ 10 % 2 ^ 14 = 0 then some (.qrel (bf 4 x 6)) else
    none
  else
  if op = 0x67 then
    if x / 2 ^ 0 % 2 ^ 12 = 0 ∧ x / 2 ^ 15 % 2 ^ 3 = 0 then some (.spawn (bf 6 x 18) (bf 3 x 12)) else
    if x / 2 ^ 0 % 2 ^ 6 = 1 ∧ x / 2 ^ 15 % 2 ^ 3 = 0 then some (.spawnDc (bf 6 x 18) (bf 3 x 12) (bf 6 x 6)) else
    none
  else
  if op = 0x68 then
    if x / 2 ^ 0 % 2 ^ 3 = 0 ∧ x / 2 ^ 23 % 2 ^ 1 = 0 then some (.fget (bf 7 x 16) (bf 8 x 8) (bf 5 x 3)) else
    if x / 2 ^ 0 % 2 ^ 3 = 1 ∧ x / 2 ^ 23 % 2 ^ 1 = 0 then some (.fput (bf 7 x 16) (bf 8 x 8) (bf 5 x 3)) else
    none
  else
  if op = 0x69 then
    if x / 2 ^ 0 % 2 ^ 12 = 0 then some (.dcnew (bf 6 x 18) (bf 6 x 12)) else
    if x / 2 ^ 0 % 2 ^ 18 = 1 then some (.dcdec (bf 6 x 18)) else
    none
  else
  if op = 0x6A then
    if x / 2 ^ 0 % 2 ^ 18 = 0 then some (.launch (bf 6 x 18)) else
    if x / 2 ^ 0 % 2 ^ 12 = 1 ∧ x / 2 ^ 14 % 2 ^ 4 = 0 then some (.evset (bf 6 x 18) (bf 2 x 12)) else
    if x / 2 ^ 0 % 2 ^ 12 = 2 ∧ x / 2 ^ 14 % 2 ^ 4 = 0 then some (.evclr (bf 6 x 18) (bf 2 x 12)) else
    if x / 2 ^ 0 % 2 ^ 12 = 3 ∧ x / 2 ^ 14 % 2 ^ 4 = 0 then some (.evwait (bf 6 x 18) (bf 2 x 12)) else
    none
  else
  if op = 0x6B then
    if x / 2 ^ 0 % 2 ^ 12 = 0 then some (.seqadd (bf 6 x 18) (bf 6 x 12)) else
    if x / 2 ^ 0 % 2 ^ 12 = 1 then some (.seqwait (bf 6 x 18) (bf 6 x 12)) else
    none
  else
  none

/-- The copy and fabric words of R81, by major opcode `op` and the sub-function fields of `x`. -/
def decodeCopy (op x : Nat) : Option Instr :=
  if op = 0x6C then
    if x / 2 ^ 0 % 2 ^ 6 = 0 then some (.tcopy (bf 6 x 18) (bf 6 x 12) (bf 6 x 6)) else
    if x / 2 ^ 0 % 2 ^ 6 = 1 then some (.tgath (bf 6 x 18) (bf 6 x 12) (bf 6 x 6)) else
    if x / 2 ^ 0 % 2 ^ 6 = 2 then some (.tscat (bf 6 x 18) (bf 6 x 12) (bf 6 x 6)) else
    if x / 2 ^ 0 % 2 ^ 6 = 3 then some (.tred (bf 6 x 18) (bf 6 x 12) (bf 6 x 6)) else
    if x / 2 ^ 0 % 2 ^ 6 = 4 then some (.tfill (bf 6 x 18) (bf 6 x 12) (bf 6 x 6)) else
    none
  else
  if op = 0x6D then
    if x / 2 ^ 0 % 2 ^ 6 = 0 then some (.nmc (bf 6 x 18) (bf 6 x 12) (bf 6 x 6)) else
    none
  else
  if op = 0x6E then
    if x / 2 ^ 0 % 2 ^ 2 = 0 ∧ x / 2 ^ 3 % 2 ^ 9 = 0 then some (.rld (bf 6 x 18) (bf 6 x 12) (bf 1 x 2)) else
    if x / 2 ^ 0 % 2 ^ 2 = 1 ∧ x / 2 ^ 3 % 2 ^ 9 = 0 then some (.rst (bf 6 x 18) (bf 6 x 12) (bf 1 x 2)) else
    if x / 2 ^ 0 % 2 ^ 2 = 2 then some (.ratom (bf 6 x 18) (bf 6 x 12) (bf 6 x 6) (bf 4 x 2)) else
    none
  else
  if op = 0x6F then
    if x / 2 ^ 0 % 2 ^ 6 = 0 then some (.cstep (bf 6 x 18) (bf 6 x 12) (bf 6 x 6)) else
    none
  else
  if op = 0x70 then
    if x / 2 ^ 4 % 2 ^ 20 = 0 then some (.cfence (bf 4 x 0)) else
    none
  else
  if op = 0x71 then
    if x / 2 ^ 0 % 2 ^ 12 = 0 then some (.alw (bf 6 x 18) (bf 6 x 12)) else
    none
  else
  if op = 0x72 then
    if x / 2 ^ 0 % 2 ^ 8 = 0 then some (.bralw (bf 6 x 18) (bf 10 x 8)) else
    none
  else
  if op = 0x73 then
    if x / 2 ^ 0 % 2 ^ 12 = 0 then some (.cwait (bf 6 x 18) (bf 6 x 12)) else
    none
  else
  none

/-- The matrix words of R81, by major opcode `op` and the sub-function fields of `x`. -/
def decodeMatrix (op x : Nat) : Option Instr :=
  if op = 0x74 then
    if x / 2 ^ 3 % 2 ^ 3 = 0 then some (.mloop (bf 6 x 18) (bf 6 x 12) (bf 6 x 6) (bf 3 x 0)) else
    none
  else
  if op = 0x75 then
    if x / 2 ^ 3 % 2 ^ 3 = 0 then some (.mstep (bf 6 x 18) (bf 6 x 12) (bf 6 x 6) (bf 3 x 0)) else
    none
  else
  if op = 0x76 then
    if x / 2 ^ 0 % 2 ^ 12 = 0 then some (.mfmt (bf 6 x 18) (bf 6 x 12)) else
    if x / 2 ^ 0 % 2 ^ 18 = 1 then some (.madr (bf 6 x 18)) else
    if x / 2 ^ 0 % 2 ^ 12 = 2 then some (.mcfg (bf 6 x 18) (bf 6 x 12)) else
    none
  else
  if op = 0x77 then
    if x / 2 ^ 0 % 2 ^ 18 = 0 then some (.mbatch (bf 6 x 18)) else
    if x / 2 ^ 0 % 2 ^ 18 = 1 then some (.mwait (bf 6 x 18)) else
    if x / 2 ^ 0 % 2 ^ 18 = 2 then some (.mest (bf 6 x 18)) else
    none
  else
  if op = 0x78 then
    if x / 2 ^ 3 % 2 ^ 21 = 0 then some (.mzero (bf 3 x 0)) else
    none
  else
  if op = 0x79 then
    if x / 2 ^ 3 % 2 ^ 9 = 0 then some (.mtld (bf 6 x 18) (bf 6 x 12) (bf 3 x 0)) else
    if x / 2 ^ 3 % 2 ^ 9 = 4 then some (.mtst (bf 6 x 18) (bf 6 x 12) (bf 3 x 0)) else
    none
  else
  if op = 0x7A then
    if x / 2 ^ 3 % 2 ^ 15 = 0 then some (.mfft (bf 6 x 18) (bf 3 x 0)) else
    none
  else
  if op = 0x7B then
    if x / 2 ^ 3 % 2 ^ 15 = 0 then some (.mtwid (bf 6 x 18) (bf 3 x 0)) else
    none
  else
  none

/-- The system words of R81, by major opcode `op` and the sub-function fields of `x`. -/
def decodeSystem (op x : Nat) : Option Instr :=
  if op = 0x7C then
    if x / 2 ^ 0 % 2 ^ 24 = 0 then some .retx else
    if x / 2 ^ 0 % 2 ^ 24 = 1 then some .park else
    if x / 2 ^ 0 % 2 ^ 24 = 2 then some .idle else
    if x / 2 ^ 0 % 2 ^ 24 = 3 then some .sev else
    if x / 2 ^ 0 % 2 ^ 24 = 4 then some .chalt else
    none
  else
  if op = 0x7D then
    if x / 2 ^ 0 % 2 ^ 6 = 0 then some (.sysr (bf 6 x 18) (bf 12 x 6)) else
    if x / 2 ^ 0 % 2 ^ 6 = 1 then some (.sysw (bf 6 x 18) (bf 12 x 6)) else
    if x / 2 ^ 0 % 2 ^ 12 = 2 then some (.tlbinv (bf 6 x 18) (bf 6 x 12)) else
    if x / 2 ^ 0 % 2 ^ 12 = 3 then some (.wpset (bf 6 x 18) (bf 6 x 12)) else
    none
  else
  if op = 0x7E then
    if x / 2 ^ 0 % 2 ^ 18 = 0 then some (.tsave (bf 6 x 18)) else
    if x / 2 ^ 0 % 2 ^ 18 = 1 then some (.trest (bf 6 x 18)) else
    none
  else
  none

/-- The instruction whose major opcode and sub-functions (R81) `x` holds, before the checks of its fields. -/
def decodeFields (x : Nat) : Option Instr :=
  let op := x / 2 ^ 24 % 2 ^ 7
  if op ≤ 0x0F then decodeControl op x else
  if op ≤ 0x1F then decodeUniform op x else
  if op ≤ 0x37 then decodeInteger op x else
  if op ≤ 0x4F then decodeFloat op x else
  if op ≤ 0x63 then decodeLane op x else
  if op ≤ 0x6B then decodeSync op x else
  if op ≤ 0x73 then decodeCopy op x else
  if op ≤ 0x7B then decodeMatrix op x else
  decodeSystem op x

/-- The instruction a word holds; `none` where R83 order 1 makes the word ILLEGAL by itself. -/
def decode (w : BitVec 32) : Option Instr :=
  match decodeFields w.toNat with
  | some i => if wf i then some i else none
  | none => none

/-- The word of an instruction; an event has none. -/
def encode : Instr → Option (BitVec 32)
  | .nop => some (BitVec.ofNat 32 (0x00000000))
  | .bra off => some (BitVec.ofNat 32 (0x01000000 + off.toNat))
  | .brc n off => some (BitVec.ofNat 32 (0x01400000 + n.toNat * 0x80000 + off.toNat))
  | .brcF n off => some (BitVec.ofNat 32 (0x01800000 + n.toNat * 0x80000 + off.toNat))
  | .brp n off => some (BitVec.ofNat 32 (0x01C00000 + n.toNat * 0x80000 + off.toNat))
  | .call off => some (BitVec.ofNat 32 (0x02000000 + off.toNat))
  | .callC n off => some (BitVec.ofNat 32 (0x02400000 + n.toNat * 0x80000 + off.toNat))
  | .callF n off => some (BitVec.ofNat 32 (0x02800000 + n.toNat * 0x80000 + off.toNat))
  | .brx ka => some (BitVec.ofNat 32 (0x03000000 + ka.toNat * 0x40000))
  | .ret ka => some (BitVec.ofNat 32 (0x04000000 + ka.toNat * 0x40000))
  | .mark off => some (BitVec.ofNat 32 (0x05000000 + off.toNat))
  | .join => some (BitVec.ofNat 32 (0x06000000))
  | .exit => some (BitVec.ofNat 32 (0x07000000))
  | .yield => some (BitVec.ofNat 32 (0x08000000))
  | .waitc ka fn => some (BitVec.ofNat 32 (0x09000000 + ka.toNat * 0x40000 + fn.toNat))
  | .lit payload => some (BitVec.ofNat 32 (0x8A000000 + payload.toNat))
  | .rep cnt sd sa sb sk str => some (BitVec.ofNat 32 (0x8B000000 + cnt.toNat * 0x40000 + sd.toNat * 0x20000 + sa.toNat * 0x10000 + sb.toNat * 0x8000 + sk.toNat * 0x4000 + str.toNat * 0x1000))
  | .trap fn => some (BitVec.ofNat 32 (0x0C000000 + fn.toNat))
  | .uadd kd ka kb => some (BitVec.ofNat 32 (0x10000000 + kd.toNat * 0x40000 + ka.toNat * 0x1000 + kb.toNat * 0x40))
  | .usub kd ka kb => some (BitVec.ofNat 32 (0x10000001 + kd.toNat * 0x40000 + ka.toNat * 0x1000 + kb.toNat * 0x40))
  | .umul kd ka kb => some (BitVec.ofNat 32 (0x10000002 + kd.toNat * 0x40000 + ka.toNat * 0x1000 + kb.toNat * 0x40))
  | .umulh kd ka kb => some (BitVec.ofNat 32 (0x10000003 + kd.toNat * 0x40000 + ka.toNat * 0x1000 + kb.toNat * 0x40))
  | .uand kd ka kb => some (BitVec.ofNat 32 (0x10000004 + kd.toNat * 0x40000 + ka.toNat * 0x1000 + kb.toNat * 0x40))
  | .uor kd ka kb => some (BitVec.ofNat 32 (0x10000005 + kd.toNat * 0x40000 + ka.toNat * 0x1000 + kb.toNat * 0x40))
  | .uxor kd ka kb => some (BitVec.ofNat 32 (0x10000006 + kd.toNat * 0x40000 + ka.toNat * 0x1000 + kb.toNat * 0x40))
  | .ushl kd ka kb => some (BitVec.ofNat 32 (0x10000007 + kd.toNat * 0x40000 + ka.toNat * 0x1000 + kb.toNat * 0x40))
  | .ushr kd ka kb => some (BitVec.ofNat 32 (0x10000008 + kd.toNat * 0x40000 + ka.toNat * 0x1000 + kb.toNat * 0x40))
  | .usar kd ka kb => some (BitVec.ofNat 32 (0x10000009 + kd.toNat * 0x40000 + ka.toNat * 0x1000 + kb.toNat * 0x40))
  | .umin kd ka kb => some (BitVec.ofNat 32 (0x1000000A + kd.toNat * 0x40000 + ka.toNat * 0x1000 + kb.toNat * 0x40))
  | .umax kd ka kb => some (BitVec.ofNat 32 (0x1000000B + kd.toNat * 0x40000 + ka.toNat * 0x1000 + kb.toNat * 0x40))
  | .umov kd ka => some (BitVec.ofNat 32 (0x1000000C + kd.toNat * 0x40000 + ka.toNat * 0x1000))
  | .ubfe kd ka kb => some (BitVec.ofNat 32 (0x1000000D + kd.toNat * 0x40000 + ka.toNat * 0x1000 + kb.toNat * 0x40))
  | .uclz kd ka => some (BitVec.ofNat 32 (0x1000000E + kd.toNat * 0x40000 + ka.toNat * 0x1000))
  | .ucnt kd ka => some (BitVec.ofNat 32 (0x1000000F + kd.toNat * 0x40000 + ka.toNat * 0x1000))
  | .umad kd ka kb => some (BitVec.ofNat 32 (0x10000010 + kd.toNat * 0x40000 + ka.toNat * 0x1000 + kb.toNat * 0x40))
  | .ucmp n ka kb fn => some (BitVec.ofNat 32 (0x11000000 + n.toNat * 0x40000 + ka.toNat * 0x1000 + kb.toNat * 0x40 + fn.toNat))
  | .usel kd ka kb n => some (BitVec.ofNat 32 (0x12000000 + kd.toNat * 0x40000 + ka.toNat * 0x1000 + kb.toNat * 0x40 + n.toNat))
  | .uli kd imm => some (BitVec.ofNat 32 (0x13000000 + kd.toNat * 0x40000 + imm.toNat))
  | .uld kd ka off => some (BitVec.ofNat 32 (0x14000000 + kd.toNat * 0x40000 + ka.toNat * 0x1000 + off.toNat))
  | .ust kd ka off => some (BitVec.ofNat 32 (0x15000000 + kd.toNat * 0x40000 + ka.toNat * 0x1000 + off.toNat))
  | .usr kd idx => some (BitVec.ofNat 32 (0x16000000 + kd.toNat * 0x40000 + idx.toNat))
  | .uws ka idx => some (BitVec.ofNat 32 (0x17000000 + ka.toNat * 0x1000 + idx.toNat))
  | .vadd w d a b => some (BitVec.ofNat 32 (0x20000000 + w.toNat * 0x800000 + d.toNat * 0x10000 + a.toNat * 0x100 + b.toNat))
  | .vsub w d a b => some (BitVec.ofNat 32 (0x21000000 + w.toNat * 0x800000 + d.toNat * 0x10000 + a.toNat * 0x100 + b.toNat))
  | .vmul w d a b => some (BitVec.ofNat 32 (0x22000000 + w.toNat * 0x800000 + d.toNat * 0x10000 + a.toNat * 0x100 + b.toNat))
  | .vmulh w d a b => some (BitVec.ofNat 32 (0x23000000 + w.toNat * 0x800000 + d.toNat * 0x10000 + a.toNat * 0x100 + b.toNat))
  | .vmad w d a b => some (BitVec.ofNat 32 (0x24000000 + w.toNat * 0x800000 + d.toNat * 0x10000 + a.toNat * 0x100 + b.toNat))
  | .vadds w d a b => some (BitVec.ofNat 32 (0x25000000 + w.toNat * 0x800000 + d.toNat * 0x10000 + a.toNat * 0x100 + b.toNat))
  | .vsubs w d a b => some (BitVec.ofNat 32 (0x26000000 + w.toNat * 0x800000 + d.toNat * 0x10000 + a.toNat * 0x100 + b.toNat))
  | .vand w d a b => some (BitVec.ofNat 32 (0x27000000 + w.toNat * 0x800000 + d.toNat * 0x10000 + a.toNat * 0x100 + b.toNat))
  | .vor w d a b => some (BitVec.ofNat 32 (0x28000000 + w.toNat * 0x800000 + d.toNat * 0x10000 + a.toNat * 0x100 + b.toNat))
  | .vxor w d a b => some (BitVec.ofNat 32 (0x29000000 + w.toNat * 0x800000 + d.toNat * 0x10000 + a.toNat * 0x100 + b.toNat))
  | .vshl w d a b => some (BitVec.ofNat 32 (0x2A000000 + w.toNat * 0x800000 + d.toNat * 0x10000 + a.toNat * 0x100 + b.toNat))
  | .vshr w d a b => some (BitVec.ofNat 32 (0x2B000000 + w.toNat * 0x800000 + d.toNat * 0x10000 + a.toNat * 0x100 + b.toNat))
  | .vsar w d a b => some (BitVec.ofNat 32 (0x2C000000 + w.toNat * 0x800000 + d.toNat * 0x10000 + a.toNat * 0x100 + b.toNat))
  | .vfsh w d a b => some (BitVec.ofNat 32 (0x2D000000 + w.toNat * 0x800000 + d.toNat * 0x10000 + a.toNat * 0x100 + b.toNat))
  | .vmin w d a b => some (BitVec.ofNat 32 (0x2E000000 + w.toNat * 0x800000 + d.toNat * 0x10000 + a.toNat * 0x100 + b.toNat))
  | .vmax w d a b => some (BitVec.ofNat 32 (0x2F000000 + w.toNat * 0x800000 + d.toNat * 0x10000 + a.toNat * 0x100 + b.toNat))
  | .vminu w d a b => some (BitVec.ofNat 32 (0x30000000 + w.toNat * 0x800000 + d.toNat * 0x10000 + a.toNat * 0x100 + b.toNat))
  | .vmaxu w d a b => some (BitVec.ofNat 32 (0x31000000 + w.toNat * 0x800000 + d.toNat * 0x10000 + a.toNat * 0x100 + b.toNat))
  | .vbfe w d a b => some (BitVec.ofNat 32 (0x32000000 + w.toNat * 0x800000 + d.toNat * 0x10000 + a.toNat * 0x100 + b.toNat))
  | .vbfi w d a b => some (BitVec.ofNat 32 (0x33000000 + w.toNat * 0x800000 + d.toNat * 0x10000 + a.toNat * 0x100 + b.toNat))
  | .vcmp cond n a b => some (BitVec.ofNat 32 (0x34800000 + cond.toNat * 0x80000 + n.toNat * 0x10000 + a.toNat * 0x100 + b.toNat))
  | .vsel w d a b => some (BitVec.ofNat 32 (0x35000000 + w.toNat * 0x800000 + d.toNat * 0x10000 + a.toNat * 0x100 + b.toNat))
  | .vabs w d a => some (BitVec.ofNat 32 (0x37000000 + w.toNat * 0x800000 + d.toNat * 0x10000 + a.toNat * 0x100))
  | .vclz w d a => some (BitVec.ofNat 32 (0x37000001 + w.toNat * 0x800000 + d.toNat * 0x10000 + a.toNat * 0x100))
  | .vcnt w d a => some (BitVec.ofNat 32 (0x37000002 + w.toNat * 0x800000 + d.toNat * 0x10000 + a.toNat * 0x100))
  | .vbrev w d a => some (BitVec.ofNat 32 (0x37000003 + w.toNat * 0x800000 + d.toNat * 0x10000 + a.toNat * 0x100))
  | .vmov w d a => some (BitVec.ofNat 32 (0x37000004 + w.toNat * 0x800000 + d.toNat * 0x10000 + a.toNat * 0x100))
  | .vpm w d n => some (BitVec.ofNat 32 (0x37000005 + w.toNat * 0x800000 + d.toNat * 0x10000 + n.toNat * 0x100))
  | .vmp n a => some (BitVec.ofNat 32 (0x37800006 + n.toNat * 0x10000 + a.toNat * 0x100))
  | .vfadd w d a b => some (BitVec.ofNat 32 (0x38000000 + w.toNat * 0x800000 + d.toNat * 0x10000 + a.toNat * 0x100 + b.toNat))
  | .vfsub w d a b => some (BitVec.ofNat 32 (0x39000000 + w.toNat * 0x800000 + d.toNat * 0x10000 + a.toNat * 0x100 + b.toNat))
  | .vfmul w d a b => some (BitVec.ofNat 32 (0x3A000000 + w.toNat * 0x800000 + d.toNat * 0x10000 + a.toNat * 0x100 + b.toNat))
  | .vfma w d a b => some (BitVec.ofNat 32 (0x3B000000 + w.toNat * 0x800000 + d.toNat * 0x10000 + a.toNat * 0x100 + b.toNat))
  | .vfma2 w d a b => some (BitVec.ofNat 32 (0x3C000000 + w.toNat * 0x800000 + d.toNat * 0x10000 + a.toNat * 0x100 + b.toNat))
  | .vhfma2 w d a b => some (BitVec.ofNat 32 (0x3D000000 + w.toNat * 0x800000 + d.toNat * 0x10000 + a.toNat * 0x100 + b.toNat))
  | .vfmin w d a b => some (BitVec.ofNat 32 (0x3E000000 + w.toNat * 0x800000 + d.toNat * 0x10000 + a.toNat * 0x100 + b.toNat))
  | .vfmax w d a b => some (BitVec.ofNat 32 (0x3F000000 + w.toNat * 0x800000 + d.toNat * 0x10000 + a.toNat * 0x100 + b.toNat))
  | .vfcmp cond n a b => some (BitVec.ofNat 32 (0x40800000 + cond.toNat * 0x80000 + n.toNat * 0x10000 + a.toNat * 0x100 + b.toNat))
  | .vfcvt w d a rnd conv => some (BitVec.ofNat 32 (0x41000000 + w.toNat * 0x800000 + d.toNat * 0x10000 + a.toNat * 0x100 + rnd.toNat * 0x20 + conv.toNat))
  | .vfrcp w d a => some (BitVec.ofNat 32 (0x42000000 + w.toNat * 0x800000 + d.toNat * 0x10000 + a.toNat * 0x100))
  | .vfrsq w d a => some (BitVec.ofNat 32 (0x42000001 + w.toNat * 0x800000 + d.toNat * 0x10000 + a.toNat * 0x100))
  | .vfsqrt w d a => some (BitVec.ofNat 32 (0x42000002 + w.toNat * 0x800000 + d.toNat * 0x10000 + a.toNat * 0x100))
  | .vfexp2 w d a => some (BitVec.ofNat 32 (0x42000003 + w.toNat * 0x800000 + d.toNat * 0x10000 + a.toNat * 0x100))
  | .vflog2 w d a => some (BitVec.ofNat 32 (0x42000004 + w.toNat * 0x800000 + d.toNat * 0x10000 + a.toNat * 0x100))
  | .vfsin w d a => some (BitVec.ofNat 32 (0x42000005 + w.toNat * 0x800000 + d.toNat * 0x10000 + a.toNat * 0x100))
  | .vfcos w d a => some (BitVec.ofNat 32 (0x42000006 + w.toNat * 0x800000 + d.toNat * 0x10000 + a.toNat * 0x100))
  | .vcbld a => some (BitVec.ofNat 32 (0x43000000 + a.toNat * 0x100))
  | .vcbx w d a b => some (BitVec.ofNat 32 (0x44000000 + w.toNat * 0x800000 + d.toNat * 0x10000 + a.toNat * 0x100 + b.toNat))
  | .vcbq w d a b => some (BitVec.ofNat 32 (0x45000000 + w.toNat * 0x800000 + d.toNat * 0x10000 + a.toNat * 0x100 + b.toNat))
  | .vshflIdx w d a b => some (BitVec.ofNat 32 (0x50000000 + w.toNat * 0x800000 + d.toNat * 0x10000 + a.toNat * 0x100 + b.toNat))
  | .vshflUp w d a b => some (BitVec.ofNat 32 (0x51000000 + w.toNat * 0x800000 + d.toNat * 0x10000 + a.toNat * 0x100 + b.toNat))
  | .vshflDown w d a b => some (BitVec.ofNat 32 (0x52000000 + w.toNat * 0x800000 + d.toNat * 0x10000 + a.toNat * 0x100 + b.toNat))
  | .vshflXor w d a b => some (BitVec.ofNat 32 (0x53000000 + w.toNat * 0x800000 + d.toNat * 0x10000 + a.toNat * 0x100 + b.toNat))
  | .vvoteAny w d n => some (BitVec.ofNat 32 (0x54000000 + w.toNat * 0x800000 + d.toNat * 0x10000 + n.toNat * 0x100))
  | .vvoteAll w d n => some (BitVec.ofNat 32 (0x54000001 + w.toNat * 0x800000 + d.toNat * 0x10000 + n.toNat * 0x100))
  | .vvoteBallot w d n => some (BitVec.ofNat 32 (0x54000002 + w.toNat * 0x800000 + d.toNat * 0x10000 + n.toNat * 0x100))
  | .vred w d a op => some (BitVec.ofNat 32 (0x55000000 + w.toNat * 0x800000 + d.toNat * 0x10000 + a.toNat * 0x100 + op.toNat))
  | .vscan w d a op => some (BitVec.ofNat 32 (0x55000010 + w.toNat * 0x800000 + d.toNat * 0x10000 + a.toNat * 0x100 + op.toNat))
  | .vbcast w d a b => some (BitVec.ofNat 32 (0x56000000 + w.toNat * 0x800000 + d.toNat * 0x10000 + a.toNat * 0x100 + b.toNat))
  | .vmatch w d a => some (BitVec.ofNat 32 (0x57000000 + w.toNat * 0x800000 + d.toNat * 0x10000 + a.toNat * 0x100))
  | .vld sem data off view size => some (BitVec.ofNat 32 (0x58000000 + sem.toNat * 0x800000 + data.toNat * 0x10000 + off.toNat * 0x100 + view.toNat * 0x8 + size.toNat))
  | .vst sem data off view size => some (BitVec.ofNat 32 (0x59000000 + sem.toNat * 0x800000 + data.toNat * 0x10000 + off.toNat * 0x100 + view.toNat * 0x8 + size.toNat))
  | .vstm sem data off view size => some (BitVec.ofNat 32 (0x5A000000 + sem.toNat * 0x800000 + data.toNat * 0x10000 + off.toNat * 0x100 + view.toNat * 0x8 + size.toNat))
  | .vatom sem data off view op => some (BitVec.ofNat 32 (0x5B000000 + sem.toNat * 0x800000 + data.toNat * 0x10000 + off.toNat * 0x100 + view.toNat * 0x8 + op.toNat))
  | .vcas sem data off view wide => some (BitVec.ofNat 32 (0x5C000002 + sem.toNat * 0x800000 + data.toNat * 0x10000 + off.toNat * 0x100 + view.toNat * 0x8 + wide.toNat))
  | .sld sem data off view size => some (BitVec.ofNat 32 (0x5D000000 + sem.toNat * 0x800000 + data.toNat * 0x10000 + off.toNat * 0x100 + view.toNat * 0x8 + size.toNat))
  | .sst sem data off view size => some (BitVec.ofNat 32 (0x5E000000 + sem.toNat * 0x800000 + data.toNat * 0x10000 + off.toNat * 0x100 + view.toNat * 0x8 + size.toNat))
  | .satom sem data off view op => some (BitVec.ofNat 32 (0x5F000000 + sem.toNat * 0x800000 + data.toNat * 0x10000 + off.toNat * 0x100 + view.toNat * 0x8 + op.toNat))
  | .trd data off t size => some (BitVec.ofNat 32 (0x60000000 + data.toNat * 0x10000 + off.toNat * 0x100 + t.toNat * 0x8 + size.toNat))
  | .twr data off t size => some (BitVec.ofNat 32 (0x61000000 + data.toNat * 0x10000 + off.toNat * 0x100 + t.toNat * 0x8 + size.toNat))
  | .vprf off view lvl => some (BitVec.ofNat 32 (0x62000000 + off.toNat * 0x100 + view.toNat * 0x8 + lvl.toNat))
  | .fence kind scope => some (BitVec.ofNat 32 (0x64000000 + kind.toNat * 0x8 + scope.toNat))
  | .bari ka bar => some (BitVec.ofNat 32 (0x65000000 + ka.toNat * 0x40000 + bar.toNat * 0x40))
  | .barv ka bar => some (BitVec.ofNat 32 (0x65000001 + ka.toNat * 0x40000 + bar.toNat * 0x40))
  | .bard bar => some (BitVec.ofNat 32 (0x65000002 + bar.toNat * 0x40))
  | .barw ka bar => some (BitVec.ofNat 32 (0x65000003 + ka.toNat * 0x40000 + bar.toNat * 0x40))
  | .bart ka bar => some (BitVec.ofNat 32 (0x65000004 + ka.toNat * 0x40000 + bar.toNat * 0x40))
  | .qpush ka q => some (BitVec.ofNat 32 (0x66000000 + ka.toNat * 0x40000 + q.toNat * 0x40))
  | .qpop ka q => some (BitVec.ofNat 32 (0x66000001 + ka.toNat * 0x40000 + q.toNat * 0x40))
  | .qpeek ka m q => some (BitVec.ofNat 32 (0x66000002 + ka.toNat * 0x40000 + m.toNat * 0x1000 + q.toNat * 0x40))
  | .qrel q => some (BitVec.ofNat 32 (0x66000003 + q.toNat * 0x40))
  | .spawn ka m => some (BitVec.ofNat 32 (0x67000000 + ka.toNat * 0x40000 + m.toNat * 0x1000))
  | .spawnDc ka m kc => some (BitVec.ofNat 32 (0x67000001 + ka.toNat * 0x40000 + m.toNat * 0x1000 + kc.toNat * 0x40))
  | .fget data off view => some (BitVec.ofNat 32 (0x68000000 + data.toNat * 0x10000 + off.toNat * 0x100 + view.toNat * 0x8))
  | .fput data off view => some (BitVec.ofNat 32 (0x68000001 + data.toNat * 0x10000 + off.toNat * 0x100 + view.toNat * 0x8))
  | .dcnew ka kb => some (BitVec.ofNat 32 (0x69000000 + ka.toNat * 0x40000 + kb.toNat * 0x1000))
  | .dcdec ka => some (BitVec.ofNat 32 (0x69000001 + ka.toNat * 0x40000))
  | .launch ka => some (BitVec.ofNat 32 (0x6A000000 + ka.toNat * 0x40000))
  | .evset ka g => some (BitVec.ofNat 32 (0x6A000001 + ka.toNat * 0x40000 + g.toNat * 0x1000))
  | .evclr ka g => some (BitVec.ofNat 32 (0x6A000002 + ka.toNat * 0x40000 + g.toNat * 0x1000))
  | .evwait ka g => some (BitVec.ofNat 32 (0x6A000003 + ka.toNat * 0x40000 + g.toNat * 0x1000))
  | .seqadd ka kb => some (BitVec.ofNat 32 (0x6B000000 + ka.toNat * 0x40000 + kb.toNat * 0x1000))
  | .seqwait ka kb => some (BitVec.ofNat 32 (0x6B000001 + ka.toNat * 0x40000 + kb.toNat * 0x1000))
  | .tcopy ka kb kc => some (BitVec.ofNat 32 (0x6C000000 + ka.toNat * 0x40000 + kb.toNat * 0x1000 + kc.toNat * 0x40))
  | .tgath ka kb kc => some (BitVec.ofNat 32 (0x6C000001 + ka.toNat * 0x40000 + kb.toNat * 0x1000 + kc.toNat * 0x40))
  | .tscat ka kb kc => some (BitVec.ofNat 32 (0x6C000002 + ka.toNat * 0x40000 + kb.toNat * 0x1000 + kc.toNat * 0x40))
  | .tred ka kb kc => some (BitVec.ofNat 32 (0x6C000003 + ka.toNat * 0x40000 + kb.toNat * 0x1000 + kc.toNat * 0x40))
  | .tfill ka kb kc => some (BitVec.ofNat 32 (0x6C000004 + ka.toNat * 0x40000 + kb.toNat * 0x1000 + kc.toNat * 0x40))
  | .nmc ka kb kc => some (BitVec.ofNat 32 (0x6D000000 + ka.toNat * 0x40000 + kb.toNat * 0x1000 + kc.toNat * 0x40))
  | .rld ka kb ord => some (BitVec.ofNat 32 (0x6E000000 + ka.toNat * 0x40000 + kb.toNat * 0x1000 + ord.toNat * 0x4))
  | .rst ka kb rel => some (BitVec.ofNat 32 (0x6E000001 + ka.toNat * 0x40000 + kb.toNat * 0x1000 + rel.toNat * 0x4))
  | .ratom ka kb kc op => some (BitVec.ofNat 32 (0x6E000002 + ka.toNat * 0x40000 + kb.toNat * 0x1000 + kc.toNat * 0x40 + op.toNat * 0x4))
  | .cstep ka kb kc => some (BitVec.ofNat 32 (0x6F000000 + ka.toNat * 0x40000 + kb.toNat * 0x1000 + kc.toNat * 0x40))
  | .cfence mask => some (BitVec.ofNat 32 (0x70000000 + mask.toNat))
  | .alw ka kb => some (BitVec.ofNat 32 (0x71000000 + ka.toNat * 0x40000 + kb.toNat * 0x1000))
  | .bralw ka n => some (BitVec.ofNat 32 (0x72000000 + ka.toNat * 0x40000 + n.toNat * 0x100))
  | .cwait ka kb => some (BitVec.ofNat 32 (0x73000000 + ka.toNat * 0x40000 + kb.toNat * 0x1000))
  | .mloop ka kb kc t => some (BitVec.ofNat 32 (0x74000000 + ka.toNat * 0x40000 + kb.toNat * 0x1000 + kc.toNat * 0x40 + t.toNat))
  | .mstep ka kb kc t => some (BitVec.ofNat 32 (0x75000000 + ka.toNat * 0x40000 + kb.toNat * 0x1000 + kc.toNat * 0x40 + t.toNat))
  | .mfmt ka kb => some (BitVec.ofNat 32 (0x76000000 + ka.toNat * 0x40000 + kb.toNat * 0x1000))
  | .madr ka => some (BitVec.ofNat 32 (0x76000001 + ka.toNat * 0x40000))
  | .mcfg ka kb => some (BitVec.ofNat 32 (0x76000002 + ka.toNat * 0x40000 + kb.toNat * 0x1000))
  | .mbatch ka => some (BitVec.ofNat 32 (0x77000000 + ka.toNat * 0x40000))
  | .mwait ka => some (BitVec.ofNat 32 (0x77000001 + ka.toNat * 0x40000))
  | .mest ka => some (BitVec.ofNat 32 (0x77000002 + ka.toNat * 0x40000))
  | .mzero t => some (BitVec.ofNat 32 (0x78000000 + t.toNat))
  | .mtld ka kb t => some (BitVec.ofNat 32 (0x79000000 + ka.toNat * 0x40000 + kb.toNat * 0x1000 + t.toNat))
  | .mtst ka kb t => some (BitVec.ofNat 32 (0x79000020 + ka.toNat * 0x40000 + kb.toNat * 0x1000 + t.toNat))
  | .mfft ka t => some (BitVec.ofNat 32 (0x7A000000 + ka.toNat * 0x40000 + t.toNat))
  | .mtwid ka t => some (BitVec.ofNat 32 (0x7B000000 + ka.toNat * 0x40000 + t.toNat))
  | .retx => some (BitVec.ofNat 32 (0x7C000000))
  | .park => some (BitVec.ofNat 32 (0x7C000001))
  | .idle => some (BitVec.ofNat 32 (0x7C000002))
  | .sev => some (BitVec.ofNat 32 (0x7C000003))
  | .chalt => some (BitVec.ofNat 32 (0x7C000004))
  | .sysr ka idx => some (BitVec.ofNat 32 (0x7D000000 + ka.toNat * 0x40000 + idx.toNat * 0x40))
  | .sysw ka idx => some (BitVec.ofNat 32 (0x7D000001 + ka.toNat * 0x40000 + idx.toNat * 0x40))
  | .tlbinv ka kb => some (BitVec.ofNat 32 (0x7D000002 + ka.toNat * 0x40000 + kb.toNat * 0x1000))
  | .wpset ka kb => some (BitVec.ofNat 32 (0x7D000003 + ka.toNat * 0x40000 + kb.toNat * 0x1000))
  | .tsave ka => some (BitVec.ofNat 32 (0x7E000000 + ka.toNat * 0x40000))
  | .trest ka => some (BitVec.ofNat 32 (0x7E000001 + ka.toNat * 0x40000))
  | .channelSlotRead _ => none
  | .packDispatch _ _ _ => none
  | .priorityAging => none
  | .kennelTimerExpiry _ _ => none
  | .packRetire _ => none
  | .packPark _ => none
  | .packResume _ _ _ => none
  | .allowanceReturn _ _ => none
  | .sliceEnd _ => none
  | .timeout _ => none
  | .laneLoadReply _ _ _ _ => none
  | .laneStorePerformed _ _ _ _ => none
  | .wcbDrain _ _ _ => none
  | .remoteReply _ _ _ _ => none
  | .copySegment _ _ _ => none
  | .engineFaultRetry _ _ => none
  | .engineFaultAbort _ _ => none
  | .engineLeashPush _ _ => none
  | .engineBarrierDelivery _ _ => none
  | .matrixStep _ => none
  | .adapterFillArrival _ _ _ _ => none
  | .creditRefill => none
  | .nmx _ _ _ _ => none
  | .ncas _ _ _ => none
  | .nenq _ _ _ => none
  | .nchase _ _ _ => none
  | .nfill _ _ _ _ => none
  | .cstepPeerOffer _ _ _ _ _ _ _ => none
  | .cstepDataArrival _ _ _ _ => none
  | .cstepAbandonNotice _ _ _ => none
  | .peerRequest _ _ _ _ _ _ _ => none
  | .retryReissue _ => none
  | .requestReissue _ _ => none
  | .portUp _ => none
  | .portDown _ _ => none
  | .peerCapabilities _ _ _ _ _ _ => none
  | .dieLinkLost => none
  | .registerUe _ _ => none
  | .tlbinvAck _ => none
  | .haltMessageArrival _ _ => none
  | .unitStop _ _ => none
  | .haltSettle _ => none
  | .ctxcreate _ _ => none
  | .ctxdestroy _ => none
  | .ctxclear _ => none
  | .hostevSet _ _ _ => none
  | .hostevClear _ _ _ => none
  | .dma _ => none
  | .dmaComplete _ => none
  | .freeze => none
  | .attest _ _ => none
  | .chwrWrite _ _ => none
  | .chstatWrite _ _ => none
  | .chctlWrite _ _ => none
  | .chbaseWrite _ _ => none
  | .evrrdWrite _ => none
  | .certdataRead => none
  | .scandataRead => none
  | .rasCounterWrite _ _ => none
  | .peerEntryWrite _ _ => none
  | .mgmtRegisterWrite _ _ => none
  | .powerLoop _ _ _ _ _ _ => none
  | .powerOverdraw => none
  | .reset _ => none
  | .unassignedEncoding _ => none
  | .dlReplay _ => none

/-- A word as the memory holds it (R13, R55): four bytes, the least significant first. -/
def wordBytes (w : BitVec 32) : List (BitVec 8) := [bf 8 w.toNat 0, bf 8 w.toNat 8, bf 8 w.toNat 16, bf 8 w.toNat 24]

/-- The word that four bytes of memory hold; bytes that are missing read as zero. -/
def bytesWord (bs : List (BitVec 8)) : BitVec 32 :=
  BitVec.ofNat 32 (bs.foldr (fun b acc => b.toNat + 256 * acc) 0)

/-- The instruction read from an instruction of the opcode table whose bits are `w` (one 32-bit word, R55). -/
def decodeTableWord (_nbits w : Nat) : Option Instr := decode (bytesWord (wordBytes (BitVec.ofNat 32 w)))

end Sys2Proof
end

