-- ==== Sys2Proof/Config.lean ====
section
/-! DEFINITION. What an implementation fixes and the manual leaves open: free values, constants with no
body, of which nothing can be proved; and the figures of stepping B0 that rules depend on. -/

namespace Sys2Proof.Config

/-- The bits another implementation may return for `vfexp2`, `vflog2`, `vfsin` and `vfcos` (R108: "Another
implementation of revision 2 may return other values within the same bounds"); the meaning keeps the bound. -/
opaque approxBits : Nat → BitVec 32 → BitVec 32

/-- A choice the manual leaves open, drawn with the counter `State.fresh`: the lane order of an atomic (R167),
the row a `tscat` leaves (R296), which of two outcomes happens. -/
opaque freeChoice : Nat → Nat

/-- What a read of a scan chain returns: "The chains and their contents belong to each stepping and are not
architected" (R413). -/
opaque scanWord : BitVec 8 → Nat → BitVec 64

/-- How many times 64 bits a scan chain holds, which belongs to each stepping (R413). -/
opaque scanLength : BitVec 8 → Nat

/-- The part's serial number (R405, R415), which no rule gives. -/
opaque serial : BitVec 64

/-- The attestation certificate chain (R405, R415), whose bytes no rule gives. -/
opaque certByte : Nat → BitVec 8

/-- The length of the certificate chain in bytes (R405). -/
opaque certLen : Nat

/-- The SHAKE256 digest of 64 bytes (R414, R415); the algorithm is RFC 8032's and FIPS 202's, not this manual's. -/
opaque shake256 : List (BitVec 8) → List (BitVec 8)

/-- Whether an Ed448 signature of a message verifies under a public key (R414, RFC 8032). -/
opaque ed448Verify : List (BitVec 8) → List (BitVec 8) → List (BitVec 8) → Bool

/-- The part's Ed448 attestation signature of a message (R415). -/
opaque ed448Sign : List (BitVec 8) → List (BitVec 8)

/-- The bytes of a firmware header that holds a version, a target part number and stepping, and the body's digest (R414); no rule
gives their layout. -/
opaque firmwareHeader : BitVec 32 → BitVec 16 → BitVec 8 → List (BitVec 8) → List (BitVec 8)

/-- The digest of the root public key held in the boot ROM, the digest of the ROM itself, the minimum
firmware version held in fuses, and the 4 bytes of PWRLIM and fuse state (R414, R415). -/
opaque rootKeyDigest : List (BitVec 8)
opaque romDigest : List (BitVec 8)
opaque minFirmware : Nat
opaque fuseState : BitVec 32 → BitVec 32

/-- SLICEMIN, 40,000 cycles (R380). -/
def sliceMin : Nat := 40000

/-- The exclusive bound of local physical addresses (R126). -/
def dramEnd : Nat := 0x00C000000000

/-- The first address of die 0's spill buffer (R126); the buffers run to the end of local memory. -/
def spillBase : Nat := 0x00BFF8000000

/-- The scratchpad of a core in bytes (R4). -/
def scratchBytes : Nat := 3072 * 1024

end Sys2Proof.Config
end

