-- ==== Sys2Proof/Machine/State.lean ====
section
/-! DEFINITION. The state of the part (R14 to R391, R395 to R415), the reasons a step can stop, and the
state after reset. Every piece of state is plain data: a sparse file of registers or of memory is a
`Map`, a list of (key, value) pairs with the keys strictly rising and no entry equal to the value an
unlisted key reads as, so that equal contents are equal data. -/

namespace Sys2Proof.Machine

/-- A sparse file: keys strictly rising, no entry equal to the file's default (`Map.wf`). -/
abbrev Map (α : Type) := List (Nat × α)

/-- Memory, one byte an address (R390 keeps poison beside it). -/
abbrev Memory := List Host.Cell

/-! ## Warps -/

/-- The causes of R358, in the order of their codes 1 to 27. -/
inductive Cause where
  | illegal | priv | role | regrange | badpack | badpair | rstack | repbad | misalign | view
  | xlate | prot | poison | lockhit | barover | leashbad | futlate | fmt | adapt | tileown
  | fabric | nmcerr | watch | usertrap | timeout | slice | ue
  deriving DecidableEq, Repr

/-- The hardware role of a warp (R26, R219). -/
inductive Role where
  | copy | maths | epilogue
  deriving DecidableEq, Repr

/-- The level a warp runs at (R359). -/
inductive Level where
  | user | supervisor
  deriving DecidableEq, Repr

/-- The scopes of R163. -/
inductive Scope where
  | warp | pack | cluster | device | system
  deriving DecidableEq, Repr

/-- The five in-flight paths of R129. -/
inductive Path where
  | laneLd | laneSt | copy | math | fab
  deriving DecidableEq, Repr

/-- What an entry of the reconvergence stack is (R79). -/
inductive StackKind where
  | rejoin | pending
  deriving DecidableEq, Repr

/-- One entry of the reconvergence stack (R79, R223). -/
structure StackEntry where
  kind : StackKind := .rejoin
  addr : BitVec 64 := 0
  mask : BitVec 32 := 0
  deriving DecidableEq, Repr

/-- Where one byte of an access has its home (R165). -/
inductive Place where
  | dram (pa : Nat)
  | host (pa : Nat)
  | scratch (core : Nat) (off : Nat)
  | peer (p : Nat) (va : Nat)
  deriving DecidableEq, Repr

/-- One lane's span: its first byte's address and home, its length in bytes, the position of its first
unit (R142), the address and home of each scale and zero point that its units use, in the order of their
groups (R145), and its page's KIND + 4 x STRIPESET (R192). -/
structure LaneAcc where
  lane  : Nat
  va    : Nat
  place : Place
  len   : Nat
  pos   : Nat
  scales : List (Nat × Place)
  zeros  : List (Nat × Place)
  via    : Nat := 0
  deriving DecidableEq, Repr

/-- One byte of a store: only the bits of `mask` are written (R146, R250). `via` is its page's KIND + 4 x
STRIPESET (R192). -/
structure StoreByte where
  va    : Nat
  via   : Nat
  place : Place
  mask  : BitVec 8
  val   : BitVec 8
  raw   : Bool := false
  deriving DecidableEq, Repr

/-- One lane's operand of an atomic or compare-and-swap (R251, R252). -/
structure AtomLane where
  acc  : LaneAcc
  exp  : BitVec 64
  new  : BitVec 64
  deriving DecidableEq, Repr

/-- What an operation in flight will do when it completes (R130). The lanes of a store whose scales lie at a peer
wait for them (`late`, with each lane's register value). -/
inductive FlightKind where
  | load (data : BitVec 7) (z : Nat) (view : BitVec 320) (accs : List LaneAcc) (voids : List Nat)
  | atomic (data : BitVec 7) (op : BitVec 3) (lanes : List AtomLane)
  | cas (data : BitVec 7) (wide : Bool) (lanes : List AtomLane)
  | store (bytes : List StoreByte) (view : BitVec 320) (z : Nat) (late : List (LaneAcc × Nat))
  | uload (kd : BitVec 6) (acc : LaneAcc)
  | tileLoad (regs : List (Nat × BitVec 32)) (poison : List Nat)
  | tileStore
  | rload (kd : BitVec 6) (peer : Nat) (va : Nat) (ordered : Bool)
  | rstore (peer : Nat) (va : Nat) (val : BitVec 64) (once : Bool)
  | ratomic (kd : BitVec 6) (peer : Nat) (va : Nat) (op : BitVec 4) (val new : BitVec 64)
  | engine (tag : Nat)
  deriving DecidableEq, Repr

/-- An operation counted on an in-flight path (R129, R130). `waits`: what a `cfence` holds it for (R316); `done`:
the operation has completed, but an older one of its path has not; `gen`: how often its core's L1 had been emptied when it
issued (R124). -/
structure Flight where
  id        : Nat
  path      : Path
  kind      : FlightKind
  pc        : BitVec 64
  epoch     : BitVec 64
  acquire   : Option Scope
  release   : Option Scope
  inWcb     : Bool
  waits     : List Nat := []
  done      : Bool
  gen       : Nat := 0
  deriving DecidableEq, Repr

/-- A fault held pending in a warp (R192, R308, R339, R371, R417): the packets that raise it are the one
that touches a listed register, a `waitc` on the listed path (for a matrix command, one whose threshold covers its number), a
release, an `mwait` of the listed batch,
any packet at all (engine watch hits), and a packet that would retire the warp. -/
structure PendFault where
  seq       : Nat
  cause     : Cause
  addr      : BitVec 64
  pc        : BitVec 64
  regs      : List Nat
  kreg      : Option (BitVec 6)
  waitPath  : Option Path
  onRelease : Bool
  batchCmd  : Option Nat
  mathNo    : Option Nat := none
  onAny     : Bool
  deriving DecidableEq, Repr

/-- What a blocked warp waits for (R41). -/
inductive BlockWhy where
  | waitc (path : Path) (threshold : BitVec 64)
  | qpush (q : Nat)
  | qpop (q : Nat)
  | barw (bar : BitVec 6) (phase : BitVec 32)
  | evwait (group : BitVec 2) (mask : BitVec 64)
  | seqwait (index : Nat) (threshold : BitVec 64)
  | mwait (batch : BitVec 64)
  | spawn (need : Nat)
  | idle
  | heel (peer : Nat) (units : Nat)
  deriving DecidableEq, Repr

/-- A block: why, since which cycle, and whether one state has satisfied it (R29, R30, R268). -/
structure Block where
  why   : BlockWhy
  since : Nat
  sat   : Bool
  deriving DecidableEq, Repr

/-- The load that last tagged a register as poisoned (R257, R388). -/
structure TagOrigin where
  addr : BitVec 64 := 0
  pc   : BitVec 64 := 0
  deriving DecidableEq, Repr

/-- A launch packet that a warp reads from a peer's memory (R280): its address, the number of the read, and the answer. -/
structure LaunchRead where
  va    : Nat
  id    : Nat
  reply : Option RemoteReply
  deriving DecidableEq, Repr

/-- One warp: its architected state (R26, R62, R68, R79, R101, R102, R129, R218, R240, R335, R341, R359,
R361, R362) and what the part holds for it (R38, R41, R50, R182, R192, R316). `softErr`: a correctable error has struck its
registers or control state (R390); `launchRead`: the packet that a `launch` reads from a peer (R280); `midPair`: the producer's address,
while a producer's own access at a peer keeps its consumer from issuing (R70); `parkHeld`: it is held at `park` (R366). -/
structure Warp where
  role      : Role := .epilogue
  num       : Nat := 0
  slot      : Nat := 0
  quad      : Nat := 0
  kbud      : BitVec 2 := 0
  vbud      : BitVec 2 := 0
  pc        : BitVec 64 := 0
  exec      : BitVec 32 := 0
  live      : BitVec 32 := 0
  level     : Level := .user
  k         : Map (BitVec 64) := []
  c         : BitVec 8 := 0
  v         : Map (BitVec 32) := []
  p         : Map (BitVec 32) := []
  stack     : Map StackEntry := []
  depth     : BitVec 6 := 0
  rssel     : BitVec 5 := 0
  repc      : BitVec 32 := 0
  fpmode    : BitVec 2 := 0
  fpflags   : BitVec 5 := 0
  codebook  : Map (BitVec 16) := []
  latch     : List (Option (Map (BitVec 32))) := []
  xpc       : BitVec 64 := 0
  xcause    : BitVec 64 := 0
  xaddr     : BitVec 64 := 0
  xinfo     : BitVec 64 := 0
  xscr0     : BitVec 64 := 0
  xscr1     : BitVec 64 := 0
  skipWatch : Bool := false
  adrv      : BitVec 64 := 0
  batch     : BitVec 64 := 0
  lastEst   : BitVec 64 := 0
  mathSeq   : Nat := 0
  flight    : List Flight := []
  pending   : List PendFault := []
  tags      : Map Bool := []
  origins   : Map TagOrigin := []
  sideEff   : BitVec 32 := 0
  cfences   : List (BitVec 4 × List Nat) := []
  nmFence   : Nat := 0
  ackWait   : Option (BitVec 64) := none
  block     : Option Block := none
  preHeld   : Bool := false
  parkHeld  : Bool := false
  lastIssue : Nat := 0
  lastStep  : Option (BitVec 16 × Nat) := none
  softErr   : Bool := false
  launchRead : Option LaunchRead := none
  midPair   : Option (BitVec 64) := none
  deriving DecidableEq, Repr

/-! ## Packs -/

/-- A barrier, leaf or root (R264). `wides`: the phases that an `nmc` or `cstep` has delivered bytes to (R178). -/
structure Barrier where
  parts    : Nat := 0
  expect   : Nat := 0
  nextdrop : Nat := 0
  arrived  : Nat := 0
  arrmask  : BitVec 512 := 0
  gone     : BitVec 512 := 0
  phase    : BitVec 32 := 0
  txb      : Int := 0
  closed   : Bool := false
  wides    : List (BitVec 32) := []
  deriving DecidableEq, Repr

/-- A leash (R25, R271): its storage's window offset, its depth and its ring state. `wides`: the slots whose handle an
`nmc` or `cstep` has pushed (R178). -/
structure Leash where
  base   : Nat := 0
  depth  : Nat := 0
  head   : Nat := 0
  queued : Nat := 0
  held   : Nat := 0
  wides  : List Nat := []
  deriving DecidableEq, Repr

/-- A lane task (R32): its record's identity, entry, argument record and home cluster. -/
structure Task where
  id    : Nat
  entry : BitVec 64
  arg   : BitVec 512
  home  : Nat
  deriving DecidableEq, Repr

/-- Where a pack stands (R43 to R46, R381 to R384). -/
inductive PackStatus where
  | running | parked | saved
  deriving DecidableEq, Repr

/-- An error that has struck a granule of memory (R390, R392, R395, R412): uncorrectable in HBM4E, in L2 or scratchpad, or in data that
the die link carries next, or a correctable one of HBM4E, L2 or scratchpad. Words of tiles and adapter caches are SRAM too. -/
inductive Strike where
  | hbm | sram | link | hbmFixed | sramFixed
  deriving DecidableEq, Repr

/-- The state of a tile register (R322), its words, and its poison (R390). `strikes`: the errors of its words that no read has
found. -/
structure TileState where
  kind    : BitVec 2 := 0
  tset    : Bool := false
  t       : BitVec 32 := 0
  words   : Map (BitVec 32) := []
  poison  : Map Bool := []
  strikes : Map (Option Strike) := []
  deriving DecidableEq, Repr

/-- A physical tile of a core: its owner tag, if any (R323), and its state. -/
structure Tile where
  owner : Option (Nat × Nat) := none
  state : TileState := {}
  deriving DecidableEq, Repr

/-- A completion held for a saved pack, applied at resume (R384). `wide`: of an `nmc` or a `cstep` (R178). -/
structure HeldDone where
  tag    : Nat
  target : BitVec 64
  handle : BitVec 64
  bytes  : Nat
  path   : Option Path
  warp   : Nat
  wide   : Bool := false
  deriving DecidableEq, Repr

/-- The context record of a parked or saved pack (R385 to R387), beside its bytes in the park area: its slot, SCRIN, and the
tiles of TSAVED and TRES. -/
structure Record where
  slot  : Nat
  scrIn : Bool
  saved : List Nat
  tres  : List Nat
  deriving DecidableEq, Repr

/-- A pack (R23 to R27, R35, R43, R139, R264, R271, R325, R365). `preempt`: a pre-emption is pending against it since that
cycle (R368, R383); `timedOut`: TIMEOUT has been raised in it (R383); `queuedAt`: it is queued for resumption since that
cycle (R46). -/
structure Pack where
  id        : Nat := 0
  ctx       : Nat := 0
  lseq      : BitVec 64 := 0
  pkt       : BitVec 2048 := 0
  x         : Nat := 0
  y         : Nat := 0
  z         : Nat := 0
  wave      : Bool := false
  tasks     : List Task := []
  group     : Nat := 0
  core      : Nat := 0
  slot      : Nat := 0
  scrBase   : Nat := 0
  tiles     : List Nat := []
  status    : PackStatus := .running
  queuedAt  : Option Nat := none
  boost     : Nat := 0
  preempt   : Option Nat := none
  timedOut  : Bool := false
  warps     : List Warp := []
  bars      : List Barrier := []
  roots     : List Barrier := []
  leashes   : List Leash := []
  fmt       : List (Option (BitVec 128)) := []
  views     : List (BitVec 320) := []
  wake      : Bool := false
  heldDone  : List HeldDone := []
  record    : Option Record := none
  deriving DecidableEq, Repr

/-! ## Engines -/

/-- A segment of a spill buffer (R158): the destination bytes one copy command diverted in one aligned
4 KiB range, each with its poison. An offset that is not listed has not been written. -/
structure SpillSeg where
  base  : Nat
  order : Nat
  bytes : Map (Option (BitVec 8 × Bool))
  deriving DecidableEq, Repr

/-- A request that an engine makes of a peer, of bytes of one 256-byte block: `len` spans them, `bytes` counts
them, and `modes` holds the stored mode in which a whole block travels (R300). -/
structure Ask where
  peer  : Nat
  va    : Nat
  len   : Nat
  bytes : Nat
  write : Bool
  modes : List (BitVec 4) := []
  deriving DecidableEq, Repr

/-- Where an engine command stands (R156, R267, R273, R291). -/
inductive CmdPhase where
  | running
  | stalled (fseq : Nat)
  | signal
  | stopped
  deriving DecidableEq, Repr

/-- A copy command (R292 to R300). `op` is FN: 0 tcopy, 1 tgath, 2 tscat, 3 tred, 4 tfill. `posted`: the pages of its posted faults
that the driver has not answered, by base and size, with the fault's number (R320). `read`: what its present segment has asked of
peers, with their answer; `acked`: the units whose updates at peers they have acknowledged, from which it goes on (R297). -/
structure CopyCmd where
  tag      : Nat
  core     : Nat
  pack     : Nat
  ctx      : Nat
  warp     : Nat
  pc       : BitVec 64
  op       : BitVec 3
  desc     : BitVec 1024
  idx      : List Nat
  target   : BitVec 64
  handle   : BitVec 64
  waits    : List Nat
  next     : Nat
  written  : Nat
  phase    : CmdPhase
  posted   : List (Nat × Nat × Nat)
  segs     : List SpillSeg
  watched  : Bool
  read     : Option (List Ask × RemoteReply) := none
  acked    : List Nat := []
  deriving DecidableEq, Repr

/-- A near-memory command (R301 to R306). `fence`: the latest write that a near-memory fence of its warp covers
(R182); `left`: output blocks not yet performed; `bad`: the status bitmap so far. -/
structure NmcCmd where
  tag      : Nat
  core     : Nat
  pack     : Nat
  ctx      : Nat
  warp     : Nat
  pc       : BitVec 64
  block    : BitVec 512
  expr     : BitVec 256
  expected : List (BitVec 64)
  fence    : Nat
  target   : BitVec 64
  handle   : BitVec 64
  waits    : List Nat
  left     : List Nat
  bad      : BitVec 256
  phase    : CmdPhase
  deriving DecidableEq, Repr

/-- Where a collective step stands (R312 to R314): `signal` once its status is written and its target waits. -/
inductive StepPhase where
  | waiting | offered | paired | stalled (fseq : Nat) | signal
  deriving DecidableEq, Repr

/-- A collective step (R311). `id` rises with issue over the whole part; `before`: where it stood when a fault stalled
it; `got`: elements performed; `sent`: bytes of SEND that have been sent; `bad`: the OUT blocks that take poison. -/
structure CollStep where
  id      : Nat
  tag     : Nat
  die     : Nat
  core    : Nat
  pack    : Nat
  ctx     : Nat
  warp    : Nat
  pc      : BitVec 64
  block   : BitVec 512
  target  : BitVec 64
  handle  : BitVec 64
  waits   : List Nat
  phase   : StepPhase
  before  : StepPhase
  got     : Nat
  sent    : Nat := 0
  bad     : List Nat
  deriving DecidableEq, Repr

/-- A step offered by a peer, or its notice that it ended with PREVFAIL or FOREIGN (R312, R314). -/
structure Offer where
  peer    : Nat
  ctx     : Nat
  step    : BitVec 16
  abandon : Bool
  count   : Nat
  red     : BitVec 4
  senc    : BitVec 4
  lower   : Bool
  deriving DecidableEq, Repr

/-- What the part has told a peer of a step of its own that ended with PREVFAIL or FOREIGN (R314): the peer, the fabric context, the
step. -/
structure Notice where
  peer : Nat
  fctx : Nat
  step : BitVec 16
  deriving DecidableEq, Repr

/-- A step that has ended, with its status (R312, R315). `met`: the peer's offer or notice for it has come, or none will. -/
structure CollEnd where
  id     : Nat
  peer   : Nat
  met    : Bool
  ctx    : Nat
  die    : Nat
  pack   : Nat
  warp   : Nat
  step   : BitVec 16
  status : Nat
  deriving DecidableEq, Repr

/-- The matrix commands (R321). -/
inductive MatOp where
  | mloop | mstep | mzero | mtld | mtst | mfft | mtwid
  deriving DecidableEq, Repr

/-- A matrix command in a queue (R327 to R350): its registers, format blocks and adapter identifiers as read at issue,
its number among its warp's commands, its steps, the charge of each, how often it was passed over (R345), and its batch
(R341). -/
structure MatCmd where
  tag     : Nat
  core    : Nat
  pack    : Nat
  ctx     : Nat
  warp    : Nat
  pc      : BitVec 64
  op      : MatOp
  tile    : Nat
  a       : BitVec 64
  a1      : BitVec 64
  b       : BitVec 64
  b1      : BitVec 64
  ctl     : BitVec 64
  fA      : BitVec 128
  fB      : BitVec 128
  ids     : List (BitVec 16)
  no      : Nat
  steps   : Nat
  stepsDone : Nat
  charge  : Nat
  passed  : Nat
  batch   : Option (BitVec 64)
  deriving DecidableEq, Repr

/-- A range-lock entry (R155). -/
structure LockEntry where
  dest  : Bool
  glob  : Bool
  ctx   : Nat
  pack  : Nat
  tag   : Nat
  lo    : Nat
  hi    : Nat
  deriving DecidableEq, Repr

/-- One core (R4): scratchpad with its poison, tiles, range-lock table, the bytes and the lines that its L1 holds (a line's
number, and whether it goes first for replacement, R123), how often the L1 has been emptied (R124), the issue sequence of its
commands, its power credit (where it differs from that of a core that has never been charged), and its engines' commands. -/
structure Core where
  scratch : Memory := []
  scrBad  : Map Bool := []
  tiles   : List Tile := []
  locks   : Map (Option LockEntry) := []
  l1      : Map (Option (BitVec 8)) := []
  lines   : List (Nat × Bool) := []
  l1Gen   : Nat := 0
  seq     : Nat := 0
  credit  : Option Int := none
  copies  : List CopyCmd := []
  nmcs    : List NmcCmd := []
  mats    : List MatCmd := []
  deriving DecidableEq, Repr

/-! ## Contexts -/

/-- A dependence counter (R37). -/
structure DepCounter where
  count   : BitVec 32 := 0
  pending : List Task := []
  deriving DecidableEq, Repr

/-- A kennel that holds tasks (R34, R35): each task with the cycle it entered. -/
structure Kennel where
  cluster : Nat
  key     : BitVec 64
  tasks   : List (Nat × Task)
  deriving DecidableEq, Repr

/-- An accepted launch, or a wave, not yet complete (R20, R31, R35, R49). -/
structure Launch where
  lseq     : BitVec 64
  pkt      : BitVec 2048
  wave     : Option (Nat × List Task) := none
  evOk     : Bool := false
  seq0Ok   : Bool := false
  seq1Ok   : Bool := false
  eligible : Option Nat := none
  boost    : Nat := 0
  next     : Nat := 0
  redo     : List Nat := []
  retired  : Nat := 0
  deriving DecidableEq, Repr

/-- A cached translation (R369): the page's first address and size, the leaf, and the members of its stripe set as the
miss read them (R137). -/
structure TlbEntry where
  base   : Nat
  size   : Nat
  leaf   : BitVec 64
  stripe : List Nat := []
  deriving DecidableEq, Repr

/-- An engine fault the driver has not answered (R373, R374). -/
structure EngFault where
  fseq   : Nat
  va     : BitVec 64
  cause  : Cause
  engine : Nat
  tag    : Nat
  core   : Nat
  deriving DecidableEq, Repr

/-- Who raised a halt (R379). -/
inductive HaltSource where
  | cause | ue | chalt | abort | host | superCause
  deriving DecidableEq, Repr

/-- The record of a raise (R379). -/
structure RaiseRec where
  source : HaltSource
  core   : Nat
  pack   : Nat
  role   : Role
  warp   : Nat
  cause  : BitVec 6
  xpc    : BitVec 64
  kind   : Nat
  deriving DecidableEq, Repr

/-- A unit that a halt stops (R376, R378, R379). `kind` is as in a stop record; `since`: the cycle at which the halt message
reached it; `skid`: the cycles it then took to stop; `done`: the work it has done since, by issue port for a core's
ports. -/
structure HaltUnit where
  kind    : Nat
  place   : Nat
  arrived : Bool := false
  stopped : Bool := false
  since   : Nat := 0
  skid    : Nat := 0
  done    : List Nat := []
  deriving DecidableEq, Repr

/-- The halt line of a context (R375 to R377). -/
inductive HaltState where
  | clear
  | raised (units : List HaltUnit) (raises : List RaiseRec)
  | halted
  deriving DecidableEq, Repr

/-- An atomic of an agent that an L2 slice holds (R194, R393): an update of a `tred` with the code of its element and its poison, a near-memory
command of the part, or a request of a peer. -/
inductive HeldAgent where
  | update (core tag : Nat) (desc : BitVec 1024) (code : Nat) (bad : Bool)
  | near (core tag : Nat)
  | peer (src : BitVec 10) (fctx : BitVec 12) (tag : BitVec 16) (cls : BitVec 2) (req : PeerReq)
  deriving DecidableEq, Repr

/-- A request that an L2 slice holds for a migrating page (R194, R393): a store, with whether its bytes are poisoned; an
atomic of a warp with the physical addresses of its lanes and the reply of those at peers; or an atomic of an agent, with its address and
its physical addresses. -/
inductive HeldReq where
  | store (bytes : List StoreByte) (bad : Bool)
  | atomic (pack warp flight : Nat) (pas : List Nat) (reply : RemoteReply)
  | agent (who : HeldAgent) (va : Nat) (pas : List Nat)
  deriving DecidableEq, Repr

/-- A completion record that could not be written, waiting for the driver (R22). -/
structure DoneWait where
  fseq   : Nat
  lseq   : BitVec 64
  pkt    : BitVec 2048
  status : Nat
  packs  : Nat
  deriving DecidableEq, Repr

/-- An entry of a cluster's adapter cache (R338): its tags, and the bytes that its fills have read, with their poison, by
virtual address. `strikes`: the errors of its 32-byte granules that no use has found (R412). -/
structure AdPair where
  cluster : Nat
  table   : Nat
  id      : BitVec 16
  slot    : Nat
  bytes   : Map (Option (BitVec 8 × Bool))
  strikes : Map (Option Strike) := []
  deriving DecidableEq, Repr

/-- A context (R14, R15, R17, R406): a copy of its descriptor and everything it holds. `held` are the requests that its migrating
pages hold, and `moving` the removed translations of such pages that no acknowledgement has followed yet (R194). `invSeq`: the
requests to peers that had been made when the latest `tlbinv` was accepted (R191). `served`: the cycles of its slices that have
ended (R16). `oseq`: the stop records that each unit has written (R379). -/
structure Context where
  desc     : BitVec 2048 := 0
  events   : BitVec 256 := 0
  seqs     : Map (BitVec 64) := []
  deps     : Map DepCounter := []
  poolUsed : Nat := 0
  taskSeq  : Nat := 0
  overflow : List Task := []
  kennels  : List Kennel := []
  taskbad  : BitVec 64 := 0
  dcunder  : BitVec 64 := 0
  lseq     : BitVec 64 := 0
  epoch    : BitVec 64 := 0
  ackEpoch : BitVec 64 := 0
  hseq     : BitVec 64 := 1
  halt     : HaltState := .clear
  launches : List Launch := []
  doneWait : List DoneWait := []
  tlb      : List TlbEntry := []
  records  : List Nat := []
  efqTail  : Nat := 0
  fseq     : Nat := 0
  faults   : List EngFault := []
  waddr    : Map (BitVec 64) := []
  wctl     : Map (BitVec 64) := []
  inSlice  : Bool := true
  sliceAt  : Nat := 0
  held     : List HeldReq := []
  moving   : List TlbEntry := []
  invSeq   : Nat := 0
  served   : Nat := 0
  adCache  : List AdPair := []
  oseq     : Map Nat := []
  deriving DecidableEq, Repr

/-! ## Links and the host -/

/-- A requester waiting for send allowance (R42, R309): a warp (pack, warp index) or an engine command. -/
inductive Requester where
  | warp (pack : Nat) (warp : Nat)
  | engine (tag : Nat)
  deriving DecidableEq, Repr

/-- A peer (R309, R400): its table entry, allowance, units reserved for readied warps, and queue; the ports whose links reach
it, and the port that the requests of each block take (R397); the tags whose entry its reply cache may hold, and those of
them whose replies this part holds (R399). -/
structure Peer where
  entry    : BitVec 64 := 0
  allow    : Nat := 0
  reserved : List (Requester × Nat) := []
  queue    : List (Requester × Nat) := []
  reach    : BitVec 16 := 0
  ports    : Map Nat := []
  tags     : List Nat := []
  retire   : List Nat := []
  deriving DecidableEq, Repr

/-- The delivery class of a request (R398). -/
inductive ReqClass where
  | plain | once | nmc | coll
  deriving DecidableEq, Repr

/-- A request to a peer with no final answer yet (R127, R397 to R399): its header's SRC, FCTX, TAG, CLASS and CMODE, its first
address and bytes, the sectors that it touches, and the tags that it retires. -/
structure Request where
  id     : Nat
  peer   : Nat
  src    : Nat
  fctx   : BitVec 12
  tag    : Nat
  cls    : ReqClass
  cmode  : List (BitVec 4)
  port   : Nat
  va     : Nat
  len    : Nat
  mask   : Nat
  tries  : Nat
  owner  : Requester
  flight : Nat
  retire : List Nat
  deriving DecidableEq, Repr

/-- The answer to a peer's request (R136, R399): data or an acknowledgement, or what it was refused with. -/
inductive Answer where
  | data (bytes : List (BitVec 8))
  | fabric
  | poison
  | retry
  deriving DecidableEq, Repr

/-- A reply the target keeps, by source and tag (R399). -/
structure ReplyEntry where
  src   : Nat
  tag   : Nat
  reply : Answer
  deriving DecidableEq, Repr

/-- A submission channel (R408). -/
structure Channel where
  ctl  : BitVec 64 := 0
  base : BitVec 64 := 0
  wr   : BitVec 32 := 0
  rd   : BitVec 32 := 0
  stat : BitVec 2 := 0
  deriving DecidableEq, Repr

/-- An event record (R409). -/
structure EventRec where
  kind : Nat
  ctx  : Option Nat
  a    : BitVec 64
  b    : BitVec 64
  deriving DecidableEq, Repr

/-- A DMA under way (R409). -/
structure Dma where
  tag    : BitVec 64
  host   : Nat
  loc    : Nat
  len    : Nat
  toPart : Bool
  deriving DecidableEq, Repr

/-- A firmware image as the boot ROM sees it (R414): the fields of its header, a signature of 114 bytes, a public key of 57 bytes, and
its body. -/
structure Firmware where
  version : BitVec 32 := 0
  partNo  : BitVec 16 := 0
  step    : BitVec 8 := 0
  digest  : BitVec 512 := 0
  sig     : BitVec 912 := 0
  key     : BitVec 456 := 0
  body    : List (BitVec 8) := []
  deriving DecidableEq, Repr

/-- The management block and the links (R395 to R415). `credit`: the power credit of every core that has never been charged (R344). -/
structure Mgmt where
  step     : Nat := 0
  code     : Nat := 0
  ready    : Bool := false
  fatal    : Bool := false
  frozen   : Bool := false
  secrets  : Bool := true
  portEn   : BitVec 16 := 0xFFFF
  reqto    : BitVec 16 := 50
  portUp   : BitVec 16 := 0
  certsel  : BitVec 64 := 0
  scansel  : BitVec 8 := 0
  scanpos  : Nat := 0
  mcmd     : BitVec 8 := 0
  marg0    : BitVec 64 := 0
  marg1    : BitVec 64 := 0
  busy     : Bool := false
  result   : BitVec 8 := 0
  evrbase  : BitVec 64 := 0
  evrlog2  : BitVec 5 := 0
  evrwr    : BitVec 32 := 0
  evrrd    : BitVec 32 := 0
  evseq    : BitVec 64 := 0
  evheld   : List EventRec := []
  pwrlim   : BitVec 32 := 3200
  budget   : BitVec 32 := 1024000
  ebudget  : BitVec 32 := 1024000
  pkgpw    : BitVec 32 := 0
  diepw    : BitVec 64 := 0
  hbmpw    : BitVec 32 := 0
  temp     : BitVec 16 := 0
  throttle : BitVec 64 := 0
  credit   : Int := 1024000
  ras      : Map (BitVec 64) := []
  channels : Map Channel := []
  dmas     : List Dma := []
  rdata    : BitVec 64 := 0
  firmware : Firmware := {}
  deriving DecidableEq, Repr

/-! ## Issue -/

/-- What became of the word that executed last (R41, R58). -/
inductive WordResult where
  | done | raised | blocked | held
  deriving DecidableEq, Repr

/-- The packet being issued (R55 to R58, R68, R72, R75): the address of word 0, the number of words, the
index of the word that executes, the word after it, the literal in front of it, the warp as it stood before the packet, the
address XPC takes if a word raises, the iteration of a `rep`, and the values for the latches. -/
structure Issue where
  base    : BitVec 64 := 0
  words   : Nat := 1
  next    : BitVec 32 := 0
  ix      : Nat := 0
  lit     : Option (BitVec 24) := none
  pre     : Warp := {}
  restart : BitVec 64 := 0
  repJ    : Option (Nat × Nat) := none
  result  : WordResult := .done
  latch   : List (Option (Map (BitVec 32))) := []
  deriving DecidableEq, Repr

/-! ## The whole part -/

/-- The state of the part. `strikes` are the errors that no read has found. `agenda` holds the events that come next (R12: what is outside the part, and the
timing the manual leaves open, is plain data); `cur` names the warp that issues next, as a pack identity and
a warp index; `fresh` counts the free values drawn. `answered` is the
last reply that the part sent to a peer. `prev` keeps, beside each byte of local memory, what it held before each
write and that write's number, the latest first (R181); `wseq` numbers the writes. -/
structure State where
  cycle    : Nat := 0
  dieCycle : List (BitVec 64) := [0, 0]
  dram     : Memory := []
  dramBad  : Map Bool := []
  rawLines : Map Bool := []
  strikes  : Map (Option Strike) := []
  prev     : Map (List (Nat × BitVec 8)) := []
  wseq     : Nat := 0
  hostMem  : Memory := []
  cores    : Map Core := []
  packs    : List Pack := []
  packSeq  : Nat := 1
  contexts : List (Option Context) := []
  colls    : List CollStep := []
  collLog  : List CollEnd := []
  offers   : List Offer := []
  notices  : List Notice := []
  flightSeq : Nat := 0
  spillSeq : Nat := 0
  peers    : Map Peer := []
  requests : List Request := []
  reqSeq   : Nat := 0
  replies  : List ReplyEntry := []
  answered : Option ReplyEntry := none
  mgmt     : Mgmt := {}
  agenda   : List Instr := []
  cur      : Nat × Nat := (0, 0)
  iss      : Issue := {}
  fresh    : Nat := 0
  deriving DecidableEq, Repr

/-- Why a step stops the model. `absentAddress`: raised by a page-table walk that would touch a local physical address
the part does not have (R126, R132); safe, the model stops where the
manual names no effect. -/
inductive Fault where
  | absentAddress (pa : Nat)
  deriving DecidableEq, Repr

/-- Why a step has no meaning. `notModelled`: raised only by an arm of `exec` whose instruction has no meaning
in this model yet; safe. -/
inductive Refusal where
  | notModelled (mnemonic : String)
  deriving DecidableEq, Repr

/-- The part right after reset (R405, R410, R411): bring-up has not begun (PSTAT holds 0), every management
register holds the value its table gives, no context exists, and every memory is blank. -/
def State.reset : State where
  contexts := List.replicate 16 none

end Sys2Proof.Machine
end

