-- ==== Sys2Proof/Machine/Map.lean ====
section
/-! DEFINITION. Reading and writing the sparse files of the state. A file is a list of (key, value) pairs with
the keys strictly rising and no value equal to the default `d`, which is what an unlisted key reads as. -/

namespace Sys2Proof.Machine

/-- The value of key `k`; `d` where the file lists none. -/
def Map.get {α : Type} (d : α) : Map α → Nat → α
  | [], _ => d
  | (j, v) :: m, k => if k = j then v else Map.get d m k

/-- The file without key `k`. -/
def Map.drop {α : Type} : Map α → Nat → Map α
  | [], _ => []
  | (j, v) :: m, k => if k = j then Map.drop m k else (j, v) :: Map.drop m k

/-- The file with a new key `k`, in front of the first greater one. -/
def Map.put {α : Type} : Map α → Nat → α → Map α
  | [], k, v => [(k, v)]
  | (j, w) :: m, k, v => if k < j then (k, v) :: (j, w) :: m else (j, w) :: Map.put m k v

/-- The file with key `k` set to `v`; setting the default removes the entry. -/
def Map.set {α : Type} [DecidableEq α] (d : α) (m : Map α) (k : Nat) (v : α) : Map α :=
  if v = d then Map.drop m k else Map.put (Map.drop m k) k v

/-- Every key of the file is at least `lo`, the keys rise strictly, and no value is the default. -/
def Map.wfFrom {α : Type} [DecidableEq α] (d : α) : Nat → Map α → Bool
  | _, [] => true
  | lo, (k, v) :: m => decide (lo ≤ k) && decide (v ≠ d) && Map.wfFrom d (k + 1) m

/-- The canonical form of a file. -/
def Map.wf {α : Type} [DecidableEq α] (d : α) (m : Map α) : Bool := Map.wfFrom d 0 m

/-- The file with every listed pair of `ps` set in turn. -/
def Map.setAll {α : Type} [DecidableEq α] (d : α) (m : Map α) (ps : List (Nat × α)) : Map α :=
  ps.foldl (fun acc p => Map.set d acc p.1 p.2) m

/-- The file without the keys from `lo` up to but not including `hi`. -/
def Map.dropRange {α : Type} (m : Map α) (lo hi : Nat) : Map α :=
  m.filter (fun p => p.1 < lo || hi ≤ p.1)

/-- The lesser of two optional numbers. -/
def minIx : Option Nat → Option Nat → Option Nat
  | some a, some b => some (min a b)
  | some a, none => some a
  | none, b => b

/-- What a byte of memory that nothing has written reads as (a model's choice, log entry 1). -/
def Memory.blank : BitVec 8 := 0

/-- One byte of memory. -/
def Memory.read (m : Memory) (a : Nat) : BitVec 8 := Map.get Memory.blank m a

/-- Memory with the byte at `a` set to `b`. -/
def Memory.write (m : Memory) (a : Nat) (b : BitVec 8) : Memory := Map.set Memory.blank m a b

/-- The canonical form of a memory. -/
def Memory.wf (m : Memory) : Bool := Map.wf Memory.blank m

/-- Memory with the bytes `bs` written from `a` upwards. -/
def Memory.writeBytes (m : Memory) : Nat → List (BitVec 8) → Memory
  | _, [] => m
  | a, b :: bs => Memory.writeBytes (Memory.write m a b) (a + 1) bs

/-- The little-endian number of a list of bytes (R13). -/
def leNat : List (BitVec 8) → Nat
  | [] => 0
  | b :: bs => b.toNat + 256 * leNat bs

/-- The low `n` bytes of a number, little-endian (R13). -/
def leBytes : Nat → Nat → List (BitVec 8)
  | 0, _ => []
  | n + 1, x => BitVec.ofNat 8 x :: leBytes n (x / 256)

/-- The `n` bytes that `rd` gives from `a` upwards. -/
def bytesAt (rd : Nat → BitVec 8) : Nat → Nat → List (BitVec 8)
  | _, 0 => []
  | a, n + 1 => rd a :: bytesAt rd (a + 1) n

/-- Bits [hi:lo] of a number. -/
def bits (x hi lo : Nat) : Nat := x / 2 ^ lo % 2 ^ (hi + 1 - lo)

/-- A number read as a signed value of `w` bits. -/
def signedOf (w x : Nat) : Int := if x % 2 ^ w < 2 ^ (w - 1) then (x % 2 ^ w : Nat) else (x % 2 ^ w : Nat) - (2 ^ w : Nat)

/-- The numbers below `n`, in ascending order. -/
def upTo (n : Nat) : List Nat := List.range n

/-- Round `x` up to a multiple of `n`. -/
def alignUp (x n : Nat) : Nat := (x + n - 1) / n * n

end Sys2Proof.Machine
end

