-- ==== Sys2Proof/Machine/Fields.lean ====
section
/-! DEFINITION. The fields of the records the manual lays out: the launch packet (R18, R19), the context
descriptor (R406, with the clamps of R17 and R380), the view record (R140) and the format block (R110), and the
numbering of warps, roles, causes, scopes and paths. -/

namespace Sys2Proof.Machine

/-- Bits [lo+len-1:lo] of the field at byte `off` of a record. -/
def recBits {n : Nat} (r : BitVec n) (off lo len : Nat) : Nat := r.toNat / 2 ^ (8 * off + lo) % 2 ^ len

/-- A little-endian record of bytes as one number. -/
def recOf (n : Nat) (bs : List (BitVec 8)) : BitVec n := BitVec.ofNat n (leNat bs)

/-! ## The launch packet (R18) -/

def pktNbv (p : BitVec 2048) : Nat := recBits p 0x00 20 4
def pktPrio (p : BitVec 2048) : Nat := recBits p 0x00 18 2
def pktIdem (p : BitVec 2048) : Bool := recBits p 0x00 17 1 == 1
def pktPmask (p : BitVec 2048) : Bool := recBits p 0x00 16 1 == 1
/-- Cluster size: 1, 2, 4 or 8 packs. -/
def pktClsz (p : BitVec 2048) : Nat := 2 ^ recBits p 0x00 14 2
def pktHostev (p : BitVec 2048) : Bool := recBits p 0x00 13 1 == 1
def pktNcopy (p : BitVec 2048) : Nat := recBits p 0x04 19 1
def pktNmath (p : BitVec 2048) : Nat := recBits p 0x04 15 4
def pktNepi (p : BitVec 2048) : Nat := recBits p 0x04 9 6
def pktEvb (p : BitVec 2048) : Nat := recBits p 0x04 7 2
def pktCkb (p : BitVec 2048) : Nat := recBits p 0x04 5 2
def pktMkb (p : BitVec 2048) : Nat := recBits p 0x04 3 2
def pktEkb (p : BitVec 2048) : Nat := recBits p 0x04 1 2
/-- The scratchpad window in bytes (SCR x 256). -/
def pktScr (p : BitVec 2048) : Nat := recBits p 0x08 17 14
def pktWindow (p : BitVec 2048) : Nat := pktScr p * 256
def pktTiles (p : BitVec 2048) : Nat := recBits p 0x08 13 4
def pktLeashes (p : BitVec 2048) : Nat := recBits p 0x08 8 5
def pktBars (p : BitVec 2048) : Nat := recBits p 0x08 2 6
/-- The depth of leash `i`, 1 to 16. -/
def pktDepth (p : BitVec 2048) (i : Nat) : Nat := recBits p 0x10 (4 * i) 4 + 1
def pktArgs (p : BitVec 2048) : Nat := recBits p 0x18 0 64
def pktEntryC (p : BitVec 2048) : Nat := recBits p 0x20 0 64
def pktEntryM (p : BitVec 2048) : Nat := recBits p 0x28 0 64
def pktEntryE (p : BitVec 2048) : Nat := recBits p 0x30 0 64
def pktGx (p : BitVec 2048) : Nat := recBits p 0x38 0 32
def pktGy (p : BitVec 2048) : Nat := recBits p 0x3C 0 16
def pktGz (p : BitVec 2048) : Nat := recBits p 0x3E 0 16
def pktEvwait (p : BitVec 2048) : BitVec 256 := BitVec.ofNat 256 (recBits p 0x40 0 256)
def pktEvset (p : BitVec 2048) : BitVec 256 := BitVec.ofNat 256 (recBits p 0x60 0 256)
/-- The sequence record at byte `off` (R19): value, counter, valid. -/
def pktSeq (p : BitVec 2048) (off : Nat) : BitVec 64 × Nat × Bool :=
  (BitVec.ofNat 64 (recBits p off 0 64), recBits p off 64 8, recBits p off 72 1 == 1)
def pktViewt (p : BitVec 2048) : Nat := recBits p 0xC0 0 64
def pktFmtt (p : BitVec 2048) : Nat := recBits p 0xC8 0 64
def pktAdaptt (p : BitVec 2048) : Nat := recBits p 0xD0 0 64
def pktDone (p : BitVec 2048) : Nat := recBits p 0xD8 0 64
def pktDcv (p : BitVec 2048) : Bool := recBits p 0xE0 15 1 == 1
def pktDcidx (p : BitVec 2048) : Nat := recBits p 0xE0 0 12

/-- The bytes of the leashes of a pack (R25). -/
def pktLeashBytes (p : BitVec 2048) : Nat := ((upTo (pktLeashes p)).map (fun i => 8 * pktDepth p i)).sum

/-- The bytes of a pack's window that are not leash storage (R25, R271). -/
def pktFree (p : BitVec 2048) : Nat := pktWindow p - pktLeashBytes p

/-- The number of packs of a grid (R23). -/
def pktPacks (p : BitVec 2048) : Nat := pktGx p * pktGy p * pktGz p

/-! ## The context descriptor (R406) -/

def descPtroot (d : BitVec 2048) : Nat := recBits d 0x00 0 64
def descTraps (d : BitVec 2048) : Nat := recBits d 0x08 0 64
def descPark (d : BitVec 2048) : Nat := recBits d 0x10 0 64
def descSlots (d : BitVec 2048) : Nat := recBits d 0x18 0 32
def descStop (d : BitVec 2048) : Nat := recBits d 0x20 0 64
def descStopSize (d : BitVec 2048) : Nat := recBits d 0x28 0 32
def descEfq (d : BitVec 2048) : Nat := recBits d 0x30 0 64
def descStripes (d : BitVec 2048) : Nat := recBits d 0x38 0 64
def descPool (d : BitVec 2048) : Nat := recBits d 0x40 0 64
/-- The partition: bit `c` is cluster `c`, die 1's clusters from bit 21 (R16, R406). -/
def descPart (d : BitVec 2048) : Nat := recBits d 0x48 0 42
/-- The programmed slice length, and the length in force (R380). -/
def descSliceRaw (d : BitVec 2048) : Nat := recBits d 0x50 0 32
def descSlice (d : BitVec 2048) : Nat := max (descSliceRaw d) Config.sliceMin
def descShare (d : BitVec 2048) : Nat := max 1 (recBits d 0x50 32 16)
def descParkt (d : BitVec 2048) : Nat := max 1024 (recBits d 0x58 0 24)
def descKennelt (d : BitVec 2048) : Nat := max 32 (recBits d 0x58 32 16)
def descTaskmax (d : BitVec 2048) : Nat := min 16777216 (max 1024 (recBits d 0x60 0 25))
def descTimeout (d : BitVec 2048) : Nat := recBits d 0x68 0 32
def descFctx (d : BitVec 2048) : Nat := recBits d 0x70 0 12
def descPeers (d : BitVec 2048) : Nat := recBits d 0x78 0 64

/-- Cluster `c` (0 to 41) belongs to the partition. -/
def descHas (d : BitVec 2048) (c : Nat) : Bool := decide (c < 42) && decide (descPart d / 2 ^ c % 2 = 1)

/-! ## Places: 2 dies of 21 clusters of 8 cores (R4, R220) -/

/-- The cluster, 0 to 41, and the die of a core, 0 to 335. -/
def clusterOf (core : Nat) : Nat := core / 8
def dieOf (core : Nat) : Nat := core / 168
/-- A core's place in the bit positions of HWLOC, HINTLOC and the stop records: DIE [16], CLUSTER [12:8], CORE [6:4]. -/
def placeBits (core : Nat) : Nat := dieOf core * 2 ^ 16 + clusterOf core % 21 * 2 ^ 8 + core % 8 * 2 ^ 4

/-! ## The view record (R140) -/

def viewBase (v : BitVec 320) : Nat := recBits v 0x00 0 64
def viewScl (v : BitVec 320) : Nat := recBits v 0x08 0 64
def viewZpp (v : BitVec 320) : Nat := recBits v 0x10 0 64
def viewExtent (v : BitVec 320) : Nat := recBits v 0x18 0 40
def viewValid (v : BitVec 320) : Bool := recBits v 0x20 63 1 == 1
def viewSpace (v : BitVec 320) : Nat := recBits v 0x20 61 2
def viewScope (v : BitVec 320) : Nat := recBits v 0x20 58 3
def viewCpol (v : BitVec 320) : Nat := recBits v 0x20 56 2
def viewRawhint (v : BitVec 320) : Nat := recBits v 0x20 54 1
def viewClamp (v : BitVec 320) : Nat := recBits v 0x20 52 2
def viewConv (v : BitVec 320) : Bool := recBits v 0x20 51 1 == 1
def viewEnc (v : BitVec 320) : Nat := recBits v 0x20 47 4
def viewRenc (v : BitVec 320) : Nat := recBits v 0x20 43 4
def viewGlen (v : BitVec 320) : Nat := recBits v 0x20 40 3
def viewSfmt (v : BitVec 320) : Nat := recBits v 0x20 38 2
def viewZp (v : BitVec 320) : Bool := recBits v 0x20 37 1 == 1
def viewIlv (v : BitVec 320) : Nat := recBits v 0x20 32 5
def viewStride (v : BitVec 320) : Nat := recBits v 0x20 0 32

/-! ## Codes -/

/-- The code of a cause (R358). -/
def causeCode : Cause → Nat
  | .illegal => 1 | .priv => 2 | .role => 3 | .regrange => 4 | .badpack => 5 | .badpair => 6
  | .rstack => 7 | .repbad => 8 | .misalign => 9 | .view => 10 | .xlate => 11 | .prot => 12
  | .poison => 13 | .lockhit => 14 | .barover => 15 | .leashbad => 16 | .futlate => 17 | .fmt => 18
  | .adapt => 19 | .tileown => 20 | .fabric => 21 | .nmcerr => 22 | .watch => 23 | .usertrap => 24
  | .timeout => 25 | .slice => 26 | .ue => 27

/-- The code of a role in WHO (R219). -/
def roleCode : Role → Nat
  | .copy => 0 | .maths => 1 | .epilogue => 2

/-- The number of lanes of a warp (R62). -/
def roleLanes : Role → Nat
  | .epilogue => 32 | _ => 1

/-- The scope of a code (R163); codes 5 to 7 are refused before (R141, R263). -/
def scopeOf (c : Nat) : Scope :=
  match c with
  | 0 => .warp | 1 => .pack | 2 => .cluster | 3 => .device | _ => .system

/-- A scope of at least cluster width empties the L1 when acquired (R124). -/
def Scope.wide : Scope → Bool
  | .warp | .pack => false
  | _ => true

/-- The path of a code (R207). -/
def pathOf (c : Nat) : Path :=
  match c with
  | 0 => .laneLd | 1 => .laneSt | 2 => .copy | 3 => .math | _ => .fab

/-- A participant's number in its leaf barrier (R264). -/
def participant (w : Warp) : Nat :=
  match w.role with
  | .copy => 0 | .maths => 1 + w.num | .epilogue => 9 + w.num

/-- The uniform registers of a budget code (R18). -/
def kBudget (code : BitVec 2) : Nat := 16 * (code.toNat + 1)

/-- The vector registers of a warp (R62): none outside the epilogue role. -/
def vBudget (w : Warp) : Nat := if w.role = .epilogue then 32 * (w.vbud.toNat + 1) else 0

end Sys2Proof.Machine
end

