-- ==== Sys2Proof/Machine/Access.lean ====
section
/-! DEFINITION. Homes of bytes (R165), poison (R390), the page-table walk and the translation caches (R131 to
R136), stripe sets (R137, R138), the peer table as a context sees it (R400), and the part's own reads and writes
through a context's translation. -/

namespace Sys2Proof.Machine

/-- Why an instruction does not take effect: it raises a cause (with XADDR, XINFO and whether the cause was held
pending, R359), it raises POISON on finding an error that has struck memory (R392), its warp blocks (R41), its packet is held by an
interlock, it is held while the bytes from `va` at places of peers are read for it (R280), or the part would touch a local
physical address that does not exist (R126). -/
inductive Stop where
  | raise (c : Cause) (xaddr xinfo : BitVec 64) (pend : Bool)
  | struck (ps : List Place) (xaddr xinfo : BitVec 64)
  | block (why : BlockWhy)
  | hold
  | await (va : Nat) (ps : List Place)
  | absent (pa : Nat)
  deriving DecidableEq, Repr

/-- The result of an operation that may stop. -/
abbrev Res (α : Type) := Except Stop α

/-- Raise a cause with an XADDR and no further information. -/
def raiseAt {α : Type} (c : Cause) (xaddr : Nat) : Res α := .error (.raise c (BitVec.ofNat 64 xaddr) 0 false)

/-- Raise a cause whose XADDR is zero. -/
def raise0 {α : Type} (c : Cause) : Res α := .error (.raise c 0 0 false)

/-! ## Parts of the state -/

def State.core (s : State) (n : Nat) : Core := Map.get {} s.cores n
def State.setCore (s : State) (n : Nat) (c : Core) : State := { s with cores := Map.set {} s.cores n c }
def State.modCore (s : State) (n : Nat) (f : Core → Core) : State := s.setCore n (f (s.core n))

def State.ctx? (s : State) (c : Nat) : Option Context := s.contexts.getD c none
def State.setCtx (s : State) (c : Nat) (x : Option Context) : State := { s with contexts := s.contexts.set c x }
def State.modCtx (s : State) (c : Nat) (f : Context → Context) : State :=
  match s.ctx? c with
  | some x => s.setCtx c (some (f x))
  | none => s

def State.pack? (s : State) (id : Nat) : Option Pack := s.packs.find? (fun p => p.id == id)
def State.modPack (s : State) (id : Nat) (f : Pack → Pack) : State :=
  { s with packs := s.packs.map (fun p => if p.id = id then f p else p) }

def Pack.modWarp (p : Pack) (i : Nat) (f : Warp → Warp) : Pack := { p with warps := p.warps.modify i f }
def State.modWarp (s : State) (id i : Nat) (f : Warp → Warp) : State := s.modPack id (fun p => p.modWarp i f)

def State.peer (s : State) (p : Nat) : Peer := Map.get {} s.peers p
def State.setPeer (s : State) (p : Nat) (e : Peer) : State := { s with peers := Map.set {} s.peers p e }

/-! ## Bytes at their homes (R165) -/

/-- The place `i` bytes after a place. -/
def Place.plus : Place → Nat → Place
  | .dram pa, i => .dram (pa + i)
  | .host pa, i => .host (pa + i)
  | .scratch c off, i => .scratch c (off + i)
  | .peer p va, i => .peer p (va + i)

/-- The byte at a place. A peer's memory lies outside the part (R136): its bytes come with the replies. -/
def State.readPlace (s : State) : Place → BitVec 8
  | .dram pa => s.dram.read pa
  | .host pa => s.hostMem.read pa
  | .scratch c off => (s.core c).scratch.read off
  | .peer _ _ => 0

/-- The home L2 slice of a physical address (R125). -/
def homeSlice (pa : Nat) : Nat :=
  let b := pa / 256
  (b ^^^ (b / 2 ^ 7) ^^^ (b / 2 ^ 14) ^^^ (b / 2 ^ 21) ^^^ (b / 2 ^ 28) ^^^ (b / 2 ^ 35)) % 128

/-- The key of a place's granule in the list of errors that no read has found. -/
def strikeKey : Place → Option Nat
  | .dram pa => some (pa / 32)
  | .scratch c off => some (2 ^ 50 + c * 2 ^ 20 + off / 32)
  | _ => none

/-- The error that has struck a place's granule and that no read has found. -/
def State.strike (s : State) (p : Place) : Option Strike := (strikeKey p).bind (fun k => Map.get none s.strikes k)

/-- An uncorrectable error has struck the granule, so a read finds poison (R392). -/
def State.struck (s : State) (p : Place) : Bool :=
  match s.strike p with
  | some .hbm | some .sram => true
  | _ => false

/-- The next data of the granule that the die link carries, for an agent of die `die`, has an uncorrectable error (R395): only what
crosses from or to a home on the other die can have one (log entry 117). -/
def State.linkBad (s : State) (die : Nat) (p : Place) : Bool :=
  match s.strike p, p with
  | some .link, .dram pa => homeSlice pa / 64 != die
  | _, _ => false

/-- The poison of a place's 32-byte granule (R390), as a read finds it. -/
def State.badPlace (s : State) (p : Place) : Bool :=
  s.struck p || (match p with
  | .dram pa => Map.get false s.dramBad (pa / 32)
  | .scratch c off => Map.get false (s.core c).scrBad (off / 32)
  | _ => false)

/-- The poison of a place as an agent of a die reads it (R390, R395). -/
def State.badFrom (s : State) (die : Nat) (p : Place) : Bool := s.badPlace p || s.linkBad die p

/-- The state with one byte written at its home. -/
def State.writePlace (s : State) (p : Place) (b : BitVec 8) : State :=
  match p with
  | .dram pa => { s with dram := s.dram.write pa b }
  | .host pa => { s with hostMem := s.hostMem.write pa b }
  | .scratch c off => s.modCore c (fun k => { k with scratch := k.scratch.write off b })
  | .peer _ _ => s

/-- The state without an error of the memory at a place's granule. -/
def State.mend (s : State) (p : Place) : State :=
  match s.strike p, strikeKey p with
  | some .link, _ => s
  | some _, some k => { s with strikes := Map.set none s.strikes k none }
  | _, _ => s

/-- The state with the poison of a place's granule set or cleared (R390); a write that clears it leaves no error behind. -/
def State.setBad (s0 : State) (p : Place) (v : Bool) : State :=
  let s := if v then s0 else s0.mend p
  match p with
  | .dram pa => { s with dramBad := Map.set false s.dramBad (pa / 32) v }
  | .scratch c off => s.modCore c (fun k => { k with scrBad := Map.set false k.scrBad (off / 32) v })
  | _ => s

/-- Write the bits of `mask` of a byte (R146). -/
def State.writeMasked (s : State) (p : Place) (mask val : BitVec 8) : State :=
  s.writePlace p ((s.readPlace p &&& ~~~mask) ||| (val &&& mask))

/-- The granule of a place: poison is cleared only by a write that covers all of it (R390). -/
def granule : Place → Option (Nat × Nat × Nat)
  | .dram pa => some (0, 0, pa / 32)
  | .scratch c off => some (1, c, off / 32)
  | _ => none

/-- Byte `i` of a place's granule. -/
def granuleByte (p : Place) (i : Nat) : Place :=
  match p with
  | .dram pa => .dram (pa / 32 * 32 + i)
  | .scratch c off => .scratch c (off / 32 * 32 + i)
  | p => p

/-- Bytes written cover the whole granule of a place: each of its 32 bytes, every bit of it (R390). -/
def wholeGranule (bs : List StoreByte) (p : Place) : Bool :=
  let mine := bs.filter (fun y => granule y.place == granule p)
  decide (32 ≤ mine.length) && (upTo 32).all (fun i =>
    mine.foldl (fun m y => if y.place = granuleByte p i then m ||| y.mask else m) (0 : BitVec 8) == 0xFF)

/-- A byte is written in a line of local memory: whether the line was last stored raw (R147, R153, R300, R409). -/
def State.noteRaw (s : State) (b : StoreByte) : State :=
  match b.place with
  | .dram pa => if Map.get false s.rawLines (pa / 128) = b.raw then s else { s with rawLines := Map.set false s.rawLines (pa / 128) b.raw }
  | _ => s

/-- Bytes that are stored raw. -/
def rawBytes (raw : Bool) (bs : List StoreByte) : List StoreByte := if raw then bs.map (fun b => { b with raw := true }) else bs

/-- Write bytes at their homes, and clear the poison of each granule all of whose bytes are written whole. -/
def State.writeAll (s : State) (bs : List StoreByte) : State :=
  let s1 := bs.foldl (fun acc b => (acc.writeMasked b.place b.mask b.val).noteRaw b) s
  bs.foldl (fun acc b => if acc.badPlace b.place && wholeGranule bs b.place then acc.setBad b.place false else acc) s1

/-! ## The peer table as a context sees it (R400) -/

def peerValid (p : Peer) : Bool := p.entry.getLsbD 63
/-- STATE: 0 DOWN, 1 NEGOTIATING, 2 UP, 3 LOST. -/
def peerState (p : Peer) : Nat := p.entry.toNat / 2 ^ 61 % 4

/-! ## Page tables (R132 to R135) -/

/-- What an access asks of its page. -/
inductive Use where
  | load | store | atomic | fetch
  deriving DecidableEq, Repr

/-- The levels of the walk (R132): the lowest index bit, the number of index bits, and the table's size. -/
def walkLevels : List (Nat × Nat × Nat) :=
  [(39, 18, 2097152), (30, 9, 4096), (21, 9, 4096), (16, 5, 256)]

def leafKind (e : BitVec 64) : Nat := e.toNat / 2 ^ 59 % 4
def leafW (e : BitVec 64) : Bool := e.getLsbD 62
def leafX (e : BitVec 64) : Bool := e.getLsbD 61
def leafMig (e : BitVec 64) : Bool := e.getLsbD 57
def leafComp (e : BitVec 64) : Bool := e.getLsbD 58
def leafStripe (e : BitVec 64) : Nat := e.toNat / 2 ^ 48 % 256
def leafFrame (e : BitVec 64) : Nat := e.toNat / 2 ^ 16 % 2 ^ 32 * 65536
def leafPeer (e : BitVec 64) : Nat := e.toNat % 1024

/-- The checks of R134 and R135 on a leaf that maps `size` bytes. -/
def leafOk (e : BitVec 64) (size : Nat) : Bool :=
  e.getLsbD 63 && e.toNat / 2 ^ 10 % 64 == 0 &&
  (leafKind e == 2 || leafStripe e == 0) &&
  (leafKind e == 1 || leafPeer e == 0) &&
  (leafKind e == 0 || !(leafComp e || leafMig e)) &&
  (if leafKind e = 0 ∨ leafKind e = 3 then leafFrame e % size == 0 else leafFrame e == 0) &&
  (leafKind e != 0 || decide (leafFrame e + size ≤ Config.spillBase))

/-- Whether the bits of an entry that points to the next table are as R133 gives, for a next table of `size` bytes. -/
def nextOk (e : BitVec 64) (size : Nat) : Bool :=
  e.getLsbD 63 && e.toNat / 2 ^ 57 % 64 == 0 && e.toNat / 2 ^ 48 % 256 == 0 && e.toNat % 256 == 0 &&
  e.toNat / 256 % 2 ^ 40 * 256 % size == 0

/-- The 64-bit number at a local physical address. -/
def State.dram64 (s : State) (pa : Nat) : Nat := leNat (bytesAt s.dram.read pa 8)

/-- The walk from `table` down the given levels (R132). -/
def State.walk (s : State) (va : Nat) : List (Nat × Nat × Nat) → Nat → Res TlbEntry
  | [], _ => raiseAt .xlate va
  | (shift, n, _) :: rest, table =>
    let pa := table + 8 * (va / 2 ^ shift % 2 ^ n)
    if Config.dramEnd < pa + 8 then .error (.absent pa) else
    let e := BitVec.ofNat 64 (s.dram64 pa)
    if e.getLsbD 56 then
      if shift ≠ 39 ∧ leafOk e (2 ^ shift) = true then
        .ok { base := va / 2 ^ shift * 2 ^ shift, size := 2 ^ shift, leaf := e }
      else raiseAt .xlate va
    else match rest with
      | [] => raiseAt .xlate va
      | (_, _, size) :: _ =>
        if nextOk e size then s.walk va rest (e.toNat / 256 % 2 ^ 40 * 256) else raiseAt .xlate va

/-- Bits [63:57] all equal bit 56 (R131). -/
def canonical (va : Nat) : Bool := decide (va < 2 ^ 56) || decide (2 ^ 64 - 2 ^ 56 ≤ va)

/-- The page of an address: from the context's translation caches, or by a walk (R132, R369). -/
def State.page (s : State) (x : Context) (va : Nat) : Res TlbEntry :=
  if canonical va then
    match x.tlb.find? (fun t => decide (t.base ≤ va) && decide (va < t.base + t.size)) with
    | some t => .ok t
    | none =>
      -- the walk indexes the 57 implemented bits; the page's base keeps the address's upper bits
      (s.walk (va % 2 ^ 57) walkLevels (descPtroot x.desc)).map (fun t => { t with base := va / t.size * t.size })
        |>.mapError (fun e => match e with | .raise c _ i p => .raise c (BitVec.ofNat 64 va) i p | e => e)
  else raiseAt .xlate va

/-! ## Reads and writes of the part itself, in local and host pages -/

/-- The place of an address in a page that is local or host; `none` for a peer page. -/
def pagePlace (t : TlbEntry) (va : Nat) : Option Place :=
  match leafKind t.leaf with
  | 0 => some (.dram (leafFrame t.leaf + va % t.size))
  | 3 => some (.host (leafFrame t.leaf + va % t.size))
  | _ => none

/-- The places of `n` bytes from `va`, for a read or a write by the part itself (R357, R139, R385): the causes are
those of R135; a peer page gives FABRIC (the manual names no effect, log entry 6). -/
def State.partPlaces (s : State) (x : Context) (use : Use) : Nat → Nat → Res (List Place)
  | _, 0 => .ok []
  | va, n + 1 => do
    let t ← s.page x va
    if use = .store ∧ leafW t.leaf = false then raiseAt .prot va else
    match pagePlace t va with
    | none => raiseAt .fabric va
    | some p =>
      let rest ← s.partPlaces x use (va + 1) n
      .ok (p :: rest)

/-- The places of `n` bytes from `va` in one page: as `partPlaces`, with one translation when the bytes lie in one
64 KiB page frame. -/
def State.spanPlaces (s : State) (x : Context) (use : Use) (va n : Nat) : Res (List Place) :=
  if va / 65536 = (va + n - 1) / 65536 then do
    let t ← s.page x va
    if use = .store ∧ leafW t.leaf = false then raiseAt .prot va else
    match leafKind t.leaf with
    | 0 => .ok ((upTo n).map (fun i => .dram (leafFrame t.leaf + (va + i) % t.size)))
    | 3 => .ok ((upTo n).map (fun i => .host (leafFrame t.leaf + (va + i) % t.size)))
    | _ => raiseAt .fabric va
  else s.partPlaces x use va n

/-- The first poisoned address among places that start at `va`. -/
def State.firstBad (s : State) : Nat → List Place → Option Nat
  | _, [] => none
  | va, p :: ps => if s.badPlace p then some va else s.firstBad (va + 1) ps

/-- POISON in data read at places: an error that the read finds is counted (R392). -/
def State.raisePoison {α : Type} (s : State) (ps : List Place) (xaddr : Nat) (xinfo : BitVec 64) : Res α :=
  if ps.any s.struck then .error (.struck ps (BitVec.ofNat 64 xaddr) xinfo)
  else .error (.raise .poison (BitVec.ofNat 64 xaddr) xinfo false)

/-- `n` bytes from `va` of a context, read by the part itself: causes of R135, POISON where a byte is poisoned. -/
def State.partRead (s : State) (x : Context) (va n : Nat) : Res (List (BitVec 8)) := do
  let ps ← s.spanPlaces x .load va n
  match s.firstBad va ps with
  | some a => s.raisePoison ps a 0
  | none => .ok (ps.map s.readPlace)

/-- Whole bytes at places. -/
def wholeBytes (va : Nat) : List Place → List (BitVec 8) → List StoreByte
  | p :: ps, b :: bs => { va := va, via := 0, place := p, mask := 0xFF, val := b } :: wholeBytes (va + 1) ps bs
  | _, _ => []

/-! ## Stripe sets and peers (R137, R138, R400) -/

def isPrime (n : Nat) : Bool := decide (2 ≤ n) && (List.range (n - 2)).all (fun i => n % (i + 2) != 0)

/-- A stripe-set record is valid (R137): N and VALID, and every reserved bit zero. -/
def stripeOk (bs : List (BitVec 8)) : Bool :=
  let h := leNat (bs.take 2)
  let n := h % 1024
  h / 2 ^ 15 == 1 && h / 2 ^ 10 % 32 == 0 &&
  ((List.range 10).any (fun m => n == 2 ^ m) || (decide (3 ≤ n) && decide (n ≤ 509) && isPrime n)) &&
  ((bs.drop 2).take 62).all (· == 0) && ((bs.drop (64 + 2 * n)).all (· == 0)) &&
  (List.range n).all (fun j => decide ((bs.getD (65 + 2 * j) 0).toNat < 4))

/-- The member of a stripe set that holds an address (R138). -/
def stripeMember (n va : Nat) : Nat :=
  let b := va / 256
  if (List.range 10).any (fun m => n == 2 ^ m) then (b ^^^ (b / 2 ^ 11) ^^^ (b / 2 ^ 23)) % n else b % n

/-- The members of a page's stripe set: as the translation miss read them, or read now (R137); XLATE where the set is invalid
(R135). -/
def State.stripeSet (s : State) (x : Context) (t : TlbEntry) (va : Nat) : Res (List Nat) :=
  if t.stripe ≠ [] then .ok t.stripe else
  match s.partRead x (descStripes x.desc + 2048 * leafStripe t.leaf) 2048 with
  | .error (.absent pa) => .error (.absent pa)
  | .error _ => raiseAt .xlate va
  | .ok bs =>
    if stripeOk bs then .ok ((upTo (leNat (bs.take 2) % 1024)).map (fun j => leNat ((bs.drop (64 + 2 * j)).take 2)))
    else raiseAt .xlate va

/-- The peer among a stripe set's members that holds an address (R138). -/
def stripePeer (set : List Nat) (va : Nat) : Nat := set.getD (stripeMember set.length va) 0

/-- Bit `p` of the context's peer mask (R404, R406); a mask that cannot be read admits no peer. -/
def State.peerAdmitted (s : State) (x : Context) (p : Nat) : Bool :=
  match s.partRead x (descPeers x.desc + p / 8) 1 with
  | .ok [b] => b.getLsbD (p % 8)
  | _ => false

/-- A peer entry the context may use: valid, admitted, and not LOST (R397, R400). -/
def State.peerUsable (s : State) (x : Context) (p : Nat) : Bool :=
  peerValid (s.peer p) && s.peerAdmitted x p && peerState (s.peer p) != 3

/-- An access's page and home (R135, R136), with the causes in the order of R135's table. The stripe set of a KIND 2
page is found first, so one that is invalid raises XLATE also where the permission would raise PROT; and a refused permission goes
before a peer that cannot be used: the model's reading of an order that R135 does not state (log entry 23). -/
def State.translate (s : State) (x : Context) (use : Use) (va : Nat) : Res (TlbEntry × Place) := do
  let t0 ← s.page x va
  let kind := leafKind t0.leaf
  let set ← if kind = 2 then s.stripeSet x t0 va else .ok []
  let t : TlbEntry := { t0 with stripe := set }
  let peer := if kind = 2 then stripePeer set va else leafPeer t.leaf
  if (use = .store ∨ use = .atomic) ∧ leafW t.leaf = false then raiseAt .prot va else
  if use = .fetch ∧ (leafX t.leaf = false ∨ kind ≠ 0) then raiseAt .prot va else
  if use = .atomic ∧ kind = 3 then raiseAt .prot va else
  match kind with
  | 0 => .ok (t, .dram (leafFrame t.leaf + va % t.size))
  | 3 => .ok (t, .host (leafFrame t.leaf + va % t.size))
  | _ => if s.peerUsable x peer then .ok (t, .peer peer va) else raiseAt .fabric va

/-- A context whose translation caches hold a page (R369): a page already held stays as it is, but for the stripe set that the
access has read. -/
def Context.cachePage (x : Context) (t : TlbEntry) : Context :=
  if x.tlb.any (fun u => u.base == t.base && u.size == t.size) then
    { x with tlb := x.tlb.map (fun u => if u.base = t.base ∧ u.size = t.size ∧ u.stripe = [] then { u with stripe := t.stripe } else u) }
  else { x with tlb := t :: x.tlb }

/-! ## Events and RAS counters -/

/-- The event ring is set up and has room (R405). -/
def Mgmt.ringOpen (m : Mgmt) : Bool :=
  decide (6 ≤ m.evrlog2.toNat) && decide (m.evrlog2.toNat ≤ 20) && decide ((m.evrwr - m.evrrd).toNat < 2 ^ m.evrlog2.toNat)

/-- The 32 bytes of an event record (R409). -/
def eventBytes (seq : Nat) (e : EventRec) : List (BitVec 8) :=
  leBytes 8 (e.kind + (match e.ctx with | some c => c % 16 * 256 + 4096 | none => 0)) ++ leBytes 8 seq ++
  leBytes 8 e.a.toNat ++ leBytes 8 e.b.toNat

/-- Write a record to the ring and advance EVRWR. -/
def State.putEvent (s : State) (e : EventRec) : State :=
  let m := s.mgmt
  { s with
    hostMem := s.hostMem.writeBytes (m.evrbase.toNat + 32 * (m.evrwr.toNat % 2 ^ m.evrlog2.toNat))
      (eventBytes (m.evseq.toNat + 1) e)
    mgmt := { m with evrwr := m.evrwr + 1, evseq := m.evseq + 1 } }

/-- Set a RAS counter. -/
def State.setRas (s : State) (off : Nat) (x : BitVec 64) : State :=
  { s with mgmt := { s.mgmt with ras := Map.set 0 s.mgmt.ras off x } }

def State.bumpRas (s : State) (off : Nat) : State := s.setRas off (Map.get 0 s.mgmt.ras off + 1)

/-- Send an event: a full ring holds it, counted in EVHOLD (R409). -/
def State.sendEvent (s : State) (e : EventRec) : State :=
  if s.mgmt.evheld.isEmpty && s.mgmt.ringOpen then s.putEvent e
  else ({ s with mgmt := { s.mgmt with evheld := s.mgmt.evheld ++ [e] } }).bumpRas 0x3050

/-- Write held events while the ring has room. -/
def State.drainEvents : Nat → State → State
  | 0, s => s
  | n + 1, s =>
    match s.mgmt.evheld with
    | e :: es => if s.mgmt.ringOpen then State.drainEvents n ({ s with mgmt := { s.mgmt with evheld := es } }.putEvent e) else s
    | [] => s

/-- Count an uncorrectable error; a RAS event is sent (R412). -/
def State.countUe (s : State) (off : Nat) : State :=
  (s.bumpRas off).sendEvent { kind := 6, ctx := none, a := BitVec.ofNat 64 off, b := 0 }

/-! ## Errors that strike memory (R390, R392, R412) -/

/-- The first read of a struck granule finds the error and counts it once: an uncorrectable one poisons the granule (R392), and a
correctable one is corrected (R390). -/
def State.detect1 (s : State) (p : Place) : State :=
  match s.strike p, strikeKey p with
  | some e, some k =>
    let s1 : State := { s with strikes := Map.set none s.strikes k none }
    match e with
    | .hbm => (s1.setBad p true).countUe 0x3008
    | .sram => (s1.setBad p true).countUe 0x3018
    | .link => s
    | .hbmFixed => s1.bumpRas 0x3000
    | .sramFixed => s1.bumpRas 0x3010
  | _, _ => s

def State.detect (s : State) (ps : List Place) : State := ps.foldl State.detect1 s

/-- An error of what the die link carries has been met, and is counted (R395, R412). -/
def State.crossed (s : State) (die : Nat) (p : Place) : State :=
  match s.linkBad die p, strikeKey p with
  | true, some k => ({ s with strikes := Map.set none s.strikes k none } : State).countUe 0x3030
  | _, _ => s

/-- What an agent of a die reads: errors of the memory, and of the data that the die link carries, which is poison in that read
alone (R395). -/
def State.detectFrom (s : State) (die : Nat) (ps : List Place) : State := ps.foldl (fun t p => t.crossed die p) (s.detect ps)

/-- Errors of SRAM that a read has found are counted, each once (R412). -/
def State.countSram (s : State) (es : List (Option Strike)) : State :=
  es.foldl (fun t e => match e with
    | some .sramFixed | some .hbmFixed => t.bumpRas 0x3010
    | some _ => t.countUe 0x3018
    | none => t) s

/-- The part reads spans of a context's bytes: errors that have struck them are found. -/
def State.detectSpans (s : State) (x : Context) (spans : List (Nat × Nat)) : State :=
  if s.strikes.isEmpty then s else
  spans.foldl (fun t r => match t.spanPlaces x .load r.1 r.2 with
    | .ok ps => t.detect ps
    | .error _ => t) s

/-- A read of ranges of a pack's window, given by offset and length, finds the errors of their granules. -/
def State.detectWindow (s : State) (p : Pack) (ranges : List (Nat × Nat)) : State :=
  if s.strikes.isEmpty then s else
  ranges.foldl (fun t r => (upTo ((r.1 % 32 + r.2 + 31) / 32)).foldl (fun u g =>
    u.detect1 (.scratch p.core (p.scrBase + r.1 / 32 * 32 + 32 * g))) t) s

/-- The entries that the walk of an address reads (R132). -/
def State.walkPlaces (s : State) (va : Nat) : List (Nat × Nat × Nat) → Nat → List Place
  | [], _ => []
  | (shift, n, _) :: rest, table =>
    let pa := table + 8 * (va / 2 ^ shift % 2 ^ n)
    let e := BitVec.ofNat 64 (s.dram64 pa)
    .dram pa :: (if e.getLsbD 56 then [] else s.walkPlaces va rest (e.toNat / 256 % 2 ^ 40 * 256))

/-- A miss of a context's translation caches has walked its tables (R132, R392). -/
def State.walked (s : State) (x : Context) (va : Nat) : State :=
  if s.strikes.isEmpty || x.tlb.any (fun t => decide (t.base ≤ va) && decide (va < t.base + t.size)) then s
  else s.detect (s.walkPlaces (va % 2 ^ 57) walkLevels (descPtroot x.desc))

end Sys2Proof.Machine
end

