-- ==== Sys2Proof/Machine/Operands.lean ====
section
/-! DEFINITION. The operand forms (R62 to R66): which registers each instruction reads and writes, its pipe
class (R59), rights (R82), format (R77) and literal (R72), and the value each source code supplies. -/

namespace Sys2Proof.Machine

/-- A register named by an instruction: v or o by its 7-bit code, k, c, p, or a latch (R62, R63). -/
inductive Reg where
  | v (code : Nat) | k (n : Nat) | c (n : Nat) | p (n : Nat) | y (n : Nat)
  deriving DecidableEq, Repr

/-- The pipe classes of R59; both FMA classes are `fma`, in order of the words. -/
inductive PipeClass where
  | br | un | inn | fma | sf | ls | en | sy | px | empty
  deriving DecidableEq, Repr

/-- The groups whose rights differ by role (R82): words of every role; lane words; `spawn`; copy and fabric
words other than `alw` and `bralw`; matrix words. -/
inductive Group where
  | control | lanes | spawning | engines | matrix
  deriving DecidableEq, Repr

/-- The word formats of R77. -/
inductive Format where
  | v | m | u | b | e | none
  deriving DecidableEq, Repr

/-- The register a source code names, if any (R63). -/
def src (c : BitVec 8) : List Reg :=
  let n := c.toNat
  if n < 0x70 then [.v n] else if n < 0x73 then [.y (n - 0x70)]
  else if 0x80 ≤ n ∧ n < 0xC0 then [.k (n - 0x80)] else []

/-- The registers of a source code in a 64-bit position (R65). -/
def srcPair (c : BitVec 8) : List Reg :=
  if c.toNat < 0x70 then [.v c.toNat, .v (c.toNat + 1)] else src c

/-- Operand B, which a literal replaces (R72). -/
def srcB (lit : Option (BitVec 24)) (c : BitVec 8) : List Reg := if lit.isSome then [] else src c
def srcPairB (lit : Option (BitVec 24)) (c : BitVec 8) : List Reg := if lit.isSome then [] else srcPair c
def kB (lit : Option (BitVec 24)) (n : BitVec 6) : List Reg := if lit.isSome then [] else [.k n.toNat]

/-- A written destination (R64). -/
def dst (w : BitVec 1) (d : BitVec 7) : List Reg := if w = 1 then [.v d.toNat] else []

/-- A group of `n` registers of one file from code `d` (R246). -/
def vGroup (d : BitVec 7) (n : Nat) : List Reg := (upTo n).map (fun i => .v (d.toNat + i))


/-- The registers an instruction reads through its fields (R57, R66), `lit` being the literal before it (R72). -/
def reads (lit : Option (BitVec 24)) : Instr → List Reg
  | .nop => []
  | .bra _ => []
  | .brc n _ => [.c n.toNat]
  | .brcF n _ => [.c n.toNat]
  | .brp n _ => [.p n.toNat]
  | .call _ => []
  | .callC n _ => [.c n.toNat]
  | .callF n _ => [.c n.toNat]
  | .brx ka => [.k ka.toNat]
  | .ret ka => [.k ka.toNat]
  | .mark _ => []
  | .join => []
  | .exit => []
  | .yield => []
  | .waitc ka _ => [.k ka.toNat]
  | .lit _ => []
  | .rep _ _ _ _ _ _ => []
  | .trap _ => []
  | .uadd _ ka kb => [.k ka.toNat] ++ kB lit kb
  | .usub _ ka kb => [.k ka.toNat] ++ kB lit kb
  | .umul _ ka kb => [.k ka.toNat] ++ kB lit kb
  | .umulh _ ka kb => [.k ka.toNat] ++ kB lit kb
  | .uand _ ka kb => [.k ka.toNat] ++ kB lit kb
  | .uor _ ka kb => [.k ka.toNat] ++ kB lit kb
  | .uxor _ ka kb => [.k ka.toNat] ++ kB lit kb
  | .ushl _ ka kb => [.k ka.toNat] ++ kB lit kb
  | .ushr _ ka kb => [.k ka.toNat] ++ kB lit kb
  | .usar _ ka kb => [.k ka.toNat] ++ kB lit kb
  | .umin _ ka kb => [.k ka.toNat] ++ kB lit kb
  | .umax _ ka kb => [.k ka.toNat] ++ kB lit kb
  | .umov _ ka => [.k ka.toNat]
  | .ubfe _ ka kb => [.k ka.toNat] ++ kB lit kb
  | .uclz _ ka => [.k ka.toNat]
  | .ucnt _ ka => [.k ka.toNat]
  | .umad kd ka kb => [.k ka.toNat] ++ kB lit kb ++ [.k kd.toNat]
  | .ucmp _ ka kb _ => [.k ka.toNat] ++ kB lit kb
  | .usel _ ka kb n => [.k ka.toNat] ++ kB lit kb ++ [.c n.toNat]
  | .uli _ _ => []
  | .uld _ ka _ => [.k ka.toNat]
  | .ust kd ka _ => [.k ka.toNat] ++ [.k kd.toNat]
  | .usr _ _ => []
  | .uws ka _ => [.k ka.toNat]
  | .vadd _ _ a b => src a ++ srcB lit b
  | .vsub _ _ a b => src a ++ srcB lit b
  | .vmul _ _ a b => src a ++ srcB lit b
  | .vmulh _ _ a b => src a ++ srcB lit b
  | .vmad _ d a b => src a ++ srcB lit b ++ vGroup d 1
  | .vadds _ _ a b => src a ++ srcB lit b
  | .vsubs _ _ a b => src a ++ srcB lit b
  | .vand _ _ a b => src a ++ srcB lit b
  | .vor _ _ a b => src a ++ srcB lit b
  | .vxor _ _ a b => src a ++ srcB lit b
  | .vshl _ _ a b => src a ++ srcB lit b
  | .vshr _ _ a b => src a ++ srcB lit b
  | .vsar _ _ a b => src a ++ srcB lit b
  | .vfsh _ d a b => src a ++ srcB lit b ++ vGroup d 1
  | .vmin _ _ a b => src a ++ srcB lit b
  | .vmax _ _ a b => src a ++ srcB lit b
  | .vminu _ _ a b => src a ++ srcB lit b
  | .vmaxu _ _ a b => src a ++ srcB lit b
  | .vbfe _ _ a b => src a ++ srcB lit b
  | .vbfi _ d a b => src a ++ srcB lit b ++ vGroup d 1
  | .vcmp _ _ a b => src a ++ srcB lit b
  | .vsel _ d a b => src a ++ srcB lit b ++ vGroup d 1
  | .vabs _ _ a => src a
  | .vclz _ _ a => src a
  | .vcnt _ _ a => src a
  | .vbrev _ _ a => src a
  | .vmov _ _ a => src a
  | .vpm _ _ n => [.p n.toNat]
  | .vmp _ a => src a
  | .vfadd _ _ a b => src a ++ srcB lit b
  | .vfsub _ _ a b => src a ++ srcB lit b
  | .vfmul _ _ a b => src a ++ srcB lit b
  | .vfma _ d a b => src a ++ srcB lit b ++ vGroup d 1
  | .vfma2 _ d a b => srcPair a ++ srcPairB lit b ++ vGroup d 2
  | .vhfma2 _ d a b => src a ++ srcB lit b ++ vGroup d 1
  | .vfmin _ _ a b => src a ++ srcB lit b
  | .vfmax _ _ a b => src a ++ srcB lit b
  | .vfcmp _ _ a b => src a ++ srcB lit b
  | .vfcvt _ _ a _ _ => src a
  | .vfrcp _ _ a => src a
  | .vfrsq _ _ a => src a
  | .vfsqrt _ _ a => src a
  | .vfexp2 _ _ a => src a
  | .vflog2 _ _ a => src a
  | .vfsin _ _ a => src a
  | .vfcos _ _ a => src a
  | .vcbld a => src a
  | .vcbx _ _ a b => src a ++ srcB lit b
  | .vcbq _ d a b => src a ++ srcB lit b ++ vGroup d 1
  | .vshflIdx _ _ a b => src a ++ srcB lit b
  | .vshflUp _ _ a b => src a ++ srcB lit b
  | .vshflDown _ _ a b => src a ++ srcB lit b
  | .vshflXor _ _ a b => src a ++ srcB lit b
  | .vvoteAny _ _ n => [.p n.toNat]
  | .vvoteAll _ _ n => [.p n.toNat]
  | .vvoteBallot _ _ n => [.p n.toNat]
  | .vred _ _ a _ => src a
  | .vscan _ _ a _ => src a
  | .vbcast _ _ a b => src a ++ srcB lit b
  | .vmatch _ _ a => src a
  | .vld _ _ off _ _ => src off
  | .vst _ data off _ size => src off ++ vGroup data (sizeRegs size)
  | .vstm _ data off _ size => src off ++ vGroup data (sizeRegs size + 1)
  | .vatom _ data off _ _ => src off ++ vGroup data 1
  | .vcas _ data off _ wide => src off ++ vGroup data (if wide = 1 then 4 else 2)
  | .sld _ _ off _ _ => src off
  | .sst _ data off _ size => src off ++ vGroup data (sizeRegs size)
  | .satom _ data off _ _ => src off ++ vGroup data 1
  | .trd _ off _ _ => src off
  | .twr data off _ size => src off ++ vGroup data (sizeRegs size)
  | .vprf off _ _ => src off
  | .fence _ _ => []
  | .bari ka _ => [.k ka.toNat]
  | .barv _ _ => []
  | .bard _ => []
  | .barw ka _ => [.k ka.toNat]
  | .bart ka _ => [.k ka.toNat]
  | .qpush ka _ => [.k ka.toNat]
  | .qpop _ _ => []
  | .qpeek _ _ _ => []
  | .qrel _ => []
  | .spawn ka m => [.k ka.toNat] ++ vGroup (BitVec.ofNat 7 (16 * m.toNat)) 16
  | .spawnDc ka m kc => [.k ka.toNat] ++ [.k kc.toNat] ++ vGroup (BitVec.ofNat 7 (16 * m.toNat)) 16
  | .fget _ off _ => src off
  | .fput data off _ => src off ++ vGroup data 2
  | .dcnew ka kb => [.k ka.toNat] ++ [.k kb.toNat]
  | .dcdec ka => [.k ka.toNat]
  | .launch ka => [.k ka.toNat]
  | .evset ka _ => kB lit ka
  | .evclr ka _ => kB lit ka
  | .evwait ka _ => kB lit ka
  | .seqadd ka kb => [.k ka.toNat] ++ [.k kb.toNat]
  | .seqwait ka kb => [.k ka.toNat] ++ [.k kb.toNat]
  | .tcopy ka kb kc => [.k ka.toNat] ++ [.k kb.toNat] ++ [.k kc.toNat]
  | .tgath ka kb kc => [.k ka.toNat] ++ [.k kb.toNat] ++ [.k kc.toNat]
  | .tscat ka kb kc => [.k ka.toNat] ++ [.k kb.toNat] ++ [.k kc.toNat]
  | .tred ka kb kc => [.k ka.toNat] ++ [.k kb.toNat] ++ [.k kc.toNat]
  | .tfill ka kb kc => [.k ka.toNat] ++ [.k kb.toNat] ++ [.k kc.toNat]
  | .nmc ka kb kc => [.k ka.toNat] ++ [.k kb.toNat] ++ [.k kc.toNat]
  | .rld _ kb _ => [.k kb.toNat]
  | .rst ka kb _ => [.k ka.toNat] ++ [.k kb.toNat]
  | .ratom _ kb kc op => [.k kb.toNat] ++ [.k kc.toNat] ++ (if op = 7 then [.k (kc.toNat + 1)] else [])
  | .cstep ka kb kc => [.k ka.toNat] ++ [.k kb.toNat] ++ [.k kc.toNat]
  | .cfence _ => []
  | .alw _ kb => [.k kb.toNat]
  | .bralw ka _ => [.k ka.toNat]
  | .cwait ka _ => [.k ka.toNat]
  | .mloop ka kb kc _ => [.k ka.toNat] ++ [.k (ka.toNat + 1)] ++ [.k kb.toNat] ++ [.k (kb.toNat + 1)] ++ [.k kc.toNat]
  | .mstep ka kb kc _ => [.k ka.toNat] ++ [.k kb.toNat] ++ [.k kc.toNat]
  | .mfmt ka kb => [.k ka.toNat] ++ [.k kb.toNat]
  | .madr ka => [.k ka.toNat]
  | .mcfg ka kb => [.k ka.toNat] ++ [.k kb.toNat]
  | .mbatch _ => []
  | .mwait ka => [.k ka.toNat]
  | .mest _ => []
  | .mzero _ => []
  | .mtld ka kb _ => [.k ka.toNat] ++ [.k kb.toNat]
  | .mtst ka kb _ => [.k ka.toNat] ++ [.k kb.toNat]
  | .mfft ka _ => [.k ka.toNat] ++ [.k (ka.toNat + 1)]
  | .mtwid ka _ => [.k ka.toNat]
  | .retx => []
  | .park => []
  | .idle => []
  | .sev => []
  | .chalt => []
  | .sysr _ _ => []
  | .sysw ka _ => [.k ka.toNat]
  | .tlbinv ka kb => [.k ka.toNat] ++ [.k kb.toNat]
  | .wpset ka kb => [.k ka.toNat] ++ [.k kb.toNat]
  | .tsave ka => [.k ka.toNat]
  | .trest ka => [.k ka.toNat]
  | .channelSlotRead _ => []
  | .packDispatch _ _ _ => []
  | .priorityAging => []
  | .kennelTimerExpiry _ _ => []
  | .packRetire _ => []
  | .packPark _ => []
  | .packResume _ _ _ => []
  | .allowanceReturn _ _ => []
  | .sliceEnd _ => []
  | .timeout _ => []
  | .laneLoadReply _ _ _ _ => []
  | .laneStorePerformed _ _ _ _ => []
  | .wcbDrain _ _ _ => []
  | .remoteReply _ _ _ _ => []
  | .copySegment _ _ _ => []
  | .engineFaultRetry _ _ => []
  | .engineFaultAbort _ _ => []
  | .engineLeashPush _ _ => []
  | .engineBarrierDelivery _ _ => []
  | .matrixStep _ => []
  | .adapterFillArrival _ _ _ _ => []
  | .creditRefill => []
  | .nmx _ _ _ _ => []
  | .ncas _ _ _ => []
  | .nenq _ _ _ => []
  | .nchase _ _ _ => []
  | .nfill _ _ _ _ => []
  | .cstepPeerOffer _ _ _ _ _ _ _ => []
  | .cstepDataArrival _ _ _ _ => []
  | .cstepAbandonNotice _ _ _ => []
  | .peerRequest _ _ _ _ _ _ _ => []
  | .retryReissue _ => []
  | .requestReissue _ _ => []
  | .portUp _ => []
  | .portDown _ _ => []
  | .peerCapabilities _ _ _ _ _ _ => []
  | .dieLinkLost => []
  | .registerUe _ _ => []
  | .tlbinvAck _ => []
  | .haltMessageArrival _ _ => []
  | .unitStop _ _ => []
  | .haltSettle _ => []
  | .ctxcreate _ _ => []
  | .ctxdestroy _ => []
  | .ctxclear _ => []
  | .hostevSet _ _ _ => []
  | .hostevClear _ _ _ => []
  | .dma _ => []
  | .dmaComplete _ => []
  | .freeze => []
  | .attest _ _ => []
  | .chwrWrite _ _ => []
  | .chstatWrite _ _ => []
  | .chctlWrite _ _ => []
  | .chbaseWrite _ _ => []
  | .evrrdWrite _ => []
  | .certdataRead => []
  | .scandataRead => []
  | .rasCounterWrite _ _ => []
  | .peerEntryWrite _ _ => []
  | .mgmtRegisterWrite _ _ => []
  | .powerLoop _ _ _ _ _ _ => []
  | .powerOverdraw => []
  | .reset _ => []
  | .unassignedEncoding _ => []
  | .dlReplay _ => []

/-- The registers an instruction writes, counting each register of a pair (R83); `call` counts k15 whether or not it is taken (R202). -/
def writes : Instr → List Reg
  | .nop => []
  | .bra _ => []
  | .brc _ _ => []
  | .brcF _ _ => []
  | .brp _ _ => []
  | .call _ => [.k 15]
  | .callC _ _ => [.k 15]
  | .callF _ _ => [.k 15]
  | .brx _ => []
  | .ret _ => []
  | .mark _ => []
  | .join => []
  | .exit => []
  | .yield => []
  | .waitc _ _ => []
  | .lit _ => []
  | .rep _ _ _ _ _ _ => []
  | .trap _ => []
  | .uadd kd _ _ => [.k kd.toNat]
  | .usub kd _ _ => [.k kd.toNat]
  | .umul kd _ _ => [.k kd.toNat]
  | .umulh kd _ _ => [.k kd.toNat]
  | .uand kd _ _ => [.k kd.toNat]
  | .uor kd _ _ => [.k kd.toNat]
  | .uxor kd _ _ => [.k kd.toNat]
  | .ushl kd _ _ => [.k kd.toNat]
  | .ushr kd _ _ => [.k kd.toNat]
  | .usar kd _ _ => [.k kd.toNat]
  | .umin kd _ _ => [.k kd.toNat]
  | .umax kd _ _ => [.k kd.toNat]
  | .umov kd _ => [.k kd.toNat]
  | .ubfe kd _ _ => [.k kd.toNat]
  | .uclz kd _ => [.k kd.toNat]
  | .ucnt kd _ => [.k kd.toNat]
  | .umad kd _ _ => [.k kd.toNat]
  | .ucmp n _ _ _ => [.c n.toNat]
  | .usel kd _ _ _ => [.k kd.toNat]
  | .uli kd _ => [.k kd.toNat]
  | .uld kd _ _ => [.k kd.toNat]
  | .ust _ _ _ => []
  | .usr kd _ => [.k kd.toNat]
  | .uws _ _ => []
  | .vadd w d _ _ => dst w d
  | .vsub w d _ _ => dst w d
  | .vmul w d _ _ => dst w d
  | .vmulh w d _ _ => dst w d
  | .vmad w d _ _ => dst w d
  | .vadds w d _ _ => dst w d
  | .vsubs w d _ _ => dst w d
  | .vand w d _ _ => dst w d
  | .vor w d _ _ => dst w d
  | .vxor w d _ _ => dst w d
  | .vshl w d _ _ => dst w d
  | .vshr w d _ _ => dst w d
  | .vsar w d _ _ => dst w d
  | .vfsh w d _ _ => dst w d
  | .vmin w d _ _ => dst w d
  | .vmax w d _ _ => dst w d
  | .vminu w d _ _ => dst w d
  | .vmaxu w d _ _ => dst w d
  | .vbfe w d _ _ => dst w d
  | .vbfi w d _ _ => dst w d
  | .vcmp _ n _ _ => [.p n.toNat]
  | .vsel w d _ _ => dst w d
  | .vabs w d _ => dst w d
  | .vclz w d _ => dst w d
  | .vcnt w d _ => dst w d
  | .vbrev w d _ => dst w d
  | .vmov w d _ => dst w d
  | .vpm w d _ => dst w d
  | .vmp n _ => [.p n.toNat]
  | .vfadd w d _ _ => dst w d
  | .vfsub w d _ _ => dst w d
  | .vfmul w d _ _ => dst w d
  | .vfma w d _ _ => dst w d
  | .vfma2 w d _ _ => (if w = 1 then vGroup d 2 else [])
  | .vhfma2 w d _ _ => dst w d
  | .vfmin w d _ _ => dst w d
  | .vfmax w d _ _ => dst w d
  | .vfcmp _ n _ _ => [.p n.toNat]
  | .vfcvt w d _ _ _ => dst w d
  | .vfrcp w d _ => dst w d
  | .vfrsq w d _ => dst w d
  | .vfsqrt w d _ => dst w d
  | .vfexp2 w d _ => dst w d
  | .vflog2 w d _ => dst w d
  | .vfsin w d _ => dst w d
  | .vfcos w d _ => dst w d
  | .vcbld _ => []
  | .vcbx w d _ _ => dst w d
  | .vcbq w d _ _ => dst w d
  | .vshflIdx w d _ _ => dst w d
  | .vshflUp w d _ _ => dst w d
  | .vshflDown w d _ _ => dst w d
  | .vshflXor w d _ _ => dst w d
  | .vvoteAny w d _ => dst w d
  | .vvoteAll w d _ => dst w d
  | .vvoteBallot w d _ => dst w d
  | .vred w d _ _ => dst w d
  | .vscan w d _ _ => dst w d
  | .vbcast w d _ _ => dst w d
  | .vmatch w d _ => dst w d
  | .vld _ data _ _ size => vGroup data (sizeRegs size)
  | .vst _ _ _ _ _ => []
  | .vstm _ _ _ _ _ => []
  | .vatom _ data _ _ _ => vGroup data 1
  | .vcas _ data _ _ wide => vGroup data (if wide = 1 then 2 else 1)
  | .sld _ data _ _ size => vGroup data (sizeRegs size)
  | .sst _ _ _ _ _ => []
  | .satom _ data _ _ _ => vGroup data 1
  | .trd data _ _ size => vGroup data (sizeRegs size)
  | .twr _ _ _ _ => []
  | .vprf _ _ _ => []
  | .fence _ _ => []
  | .bari _ _ => []
  | .barv ka _ => [.k ka.toNat]
  | .bard _ => []
  | .barw _ _ => []
  | .bart _ _ => []
  | .qpush _ _ => []
  | .qpop ka _ => [.k ka.toNat]
  | .qpeek ka m _ => [.k ka.toNat] ++ [.c m.toNat]
  | .qrel _ => []
  | .spawn _ _ => []
  | .spawnDc _ _ _ => []
  | .fget data _ _ => vGroup data 2
  | .fput _ _ _ => []
  | .dcnew _ _ => []
  | .dcdec _ => []
  | .launch _ => []
  | .evset _ _ => []
  | .evclr _ _ => []
  | .evwait _ _ => []
  | .seqadd _ _ => []
  | .seqwait _ _ => []
  | .tcopy _ _ _ => []
  | .tgath _ _ _ => []
  | .tscat _ _ _ => []
  | .tred _ _ _ => []
  | .tfill _ _ _ => []
  | .nmc _ _ _ => []
  | .rld ka _ _ => [.k ka.toNat]
  | .rst _ _ _ => []
  | .ratom ka _ _ _ => [.k ka.toNat]
  | .cstep _ _ _ => []
  | .cfence _ => []
  | .alw ka _ => [.k ka.toNat]
  | .bralw _ _ => []
  | .cwait _ kb => [.k kb.toNat]
  | .mloop _ _ _ _ => []
  | .mstep _ _ _ _ => []
  | .mfmt _ _ => []
  | .madr _ => []
  | .mcfg _ _ => []
  | .mbatch ka => [.k ka.toNat]
  | .mwait _ => []
  | .mest ka => [.k ka.toNat]
  | .mzero _ => []
  | .mtld _ _ _ => []
  | .mtst _ _ _ => []
  | .mfft _ _ => []
  | .mtwid _ _ => []
  | .retx => []
  | .park => []
  | .idle => []
  | .sev => []
  | .chalt => []
  | .sysr ka _ => [.k ka.toNat]
  | .sysw _ _ => []
  | .tlbinv _ _ => []
  | .wpset _ _ => []
  | .tsave _ => []
  | .trest _ => []
  | .channelSlotRead _ => []
  | .packDispatch _ _ _ => []
  | .priorityAging => []
  | .kennelTimerExpiry _ _ => []
  | .packRetire _ => []
  | .packPark _ => []
  | .packResume _ _ _ => []
  | .allowanceReturn _ _ => []
  | .sliceEnd _ => []
  | .timeout _ => []
  | .laneLoadReply _ _ _ _ => []
  | .laneStorePerformed _ _ _ _ => []
  | .wcbDrain _ _ _ => []
  | .remoteReply _ _ _ _ => []
  | .copySegment _ _ _ => []
  | .engineFaultRetry _ _ => []
  | .engineFaultAbort _ _ => []
  | .engineLeashPush _ _ => []
  | .engineBarrierDelivery _ _ => []
  | .matrixStep _ => []
  | .adapterFillArrival _ _ _ _ => []
  | .creditRefill => []
  | .nmx _ _ _ _ => []
  | .ncas _ _ _ => []
  | .nenq _ _ _ => []
  | .nchase _ _ _ => []
  | .nfill _ _ _ _ => []
  | .cstepPeerOffer _ _ _ _ _ _ _ => []
  | .cstepDataArrival _ _ _ _ => []
  | .cstepAbandonNotice _ _ _ => []
  | .peerRequest _ _ _ _ _ _ _ => []
  | .retryReissue _ => []
  | .requestReissue _ _ => []
  | .portUp _ => []
  | .portDown _ _ => []
  | .peerCapabilities _ _ _ _ _ _ => []
  | .dieLinkLost => []
  | .registerUe _ _ => []
  | .tlbinvAck _ => []
  | .haltMessageArrival _ _ => []
  | .unitStop _ _ => []
  | .haltSettle _ => []
  | .ctxcreate _ _ => []
  | .ctxdestroy _ => []
  | .ctxclear _ => []
  | .hostevSet _ _ _ => []
  | .hostevClear _ _ _ => []
  | .dma _ => []
  | .dmaComplete _ => []
  | .freeze => []
  | .attest _ _ => []
  | .chwrWrite _ _ => []
  | .chstatWrite _ _ => []
  | .chctlWrite _ _ => []
  | .chbaseWrite _ _ => []
  | .evrrdWrite _ => []
  | .certdataRead => []
  | .scandataRead => []
  | .rasCounterWrite _ _ => []
  | .peerEntryWrite _ _ => []
  | .mgmtRegisterWrite _ _ => []
  | .powerLoop _ _ _ _ _ _ => []
  | .powerOverdraw => []
  | .reset _ => []
  | .unassignedEncoding _ => []
  | .dlReplay _ => []

/-- The pipe class of an instruction (R59); an event has none. -/
def pipeClass : Instr → PipeClass
  | .nop => .empty
  | .bra _ => .br
  | .brc _ _ => .br
  | .brcF _ _ => .br
  | .brp _ _ => .br
  | .call _ => .br
  | .callC _ _ => .br
  | .callF _ _ => .br
  | .brx _ => .br
  | .ret _ => .br
  | .mark _ => .br
  | .join => .br
  | .exit => .br
  | .yield => .br
  | .waitc _ _ => .br
  | .lit _ => .px
  | .rep _ _ _ _ _ _ => .px
  | .trap _ => .br
  | .uadd _ _ _ => .un
  | .usub _ _ _ => .un
  | .umul _ _ _ => .un
  | .umulh _ _ _ => .un
  | .uand _ _ _ => .un
  | .uor _ _ _ => .un
  | .uxor _ _ _ => .un
  | .ushl _ _ _ => .un
  | .ushr _ _ _ => .un
  | .usar _ _ _ => .un
  | .umin _ _ _ => .un
  | .umax _ _ _ => .un
  | .umov _ _ => .un
  | .ubfe _ _ _ => .un
  | .uclz _ _ => .un
  | .ucnt _ _ => .un
  | .umad _ _ _ => .un
  | .ucmp _ _ _ _ => .un
  | .usel _ _ _ _ => .un
  | .uli _ _ => .un
  | .uld _ _ _ => .un
  | .ust _ _ _ => .un
  | .usr _ _ => .un
  | .uws _ _ => .un
  | .vadd _ _ _ _ => .inn
  | .vsub _ _ _ _ => .inn
  | .vmul _ _ _ _ => .inn
  | .vmulh _ _ _ _ => .inn
  | .vmad _ _ _ _ => .inn
  | .vadds _ _ _ _ => .inn
  | .vsubs _ _ _ _ => .inn
  | .vand _ _ _ _ => .inn
  | .vor _ _ _ _ => .inn
  | .vxor _ _ _ _ => .inn
  | .vshl _ _ _ _ => .inn
  | .vshr _ _ _ _ => .inn
  | .vsar _ _ _ _ => .inn
  | .vfsh _ _ _ _ => .inn
  | .vmin _ _ _ _ => .inn
  | .vmax _ _ _ _ => .inn
  | .vminu _ _ _ _ => .inn
  | .vmaxu _ _ _ _ => .inn
  | .vbfe _ _ _ _ => .inn
  | .vbfi _ _ _ _ => .inn
  | .vcmp _ _ _ _ => .inn
  | .vsel _ _ _ _ => .inn
  | .vabs _ _ _ => .inn
  | .vclz _ _ _ => .inn
  | .vcnt _ _ _ => .inn
  | .vbrev _ _ _ => .inn
  | .vmov _ _ _ => .inn
  | .vpm _ _ _ => .inn
  | .vmp _ _ => .inn
  | .vfadd _ _ _ _ => .fma
  | .vfsub _ _ _ _ => .fma
  | .vfmul _ _ _ _ => .fma
  | .vfma _ _ _ _ => .fma
  | .vfma2 _ _ _ _ => .fma
  | .vhfma2 _ _ _ _ => .fma
  | .vfmin _ _ _ _ => .fma
  | .vfmax _ _ _ _ => .fma
  | .vfcmp _ _ _ _ => .fma
  | .vfcvt _ _ _ _ _ => .inn
  | .vfrcp _ _ _ => .sf
  | .vfrsq _ _ _ => .sf
  | .vfsqrt _ _ _ => .sf
  | .vfexp2 _ _ _ => .sf
  | .vflog2 _ _ _ => .sf
  | .vfsin _ _ _ => .sf
  | .vfcos _ _ _ => .sf
  | .vcbld _ => .inn
  | .vcbx _ _ _ _ => .inn
  | .vcbq _ _ _ _ => .inn
  | .vshflIdx _ _ _ _ => .ls
  | .vshflUp _ _ _ _ => .ls
  | .vshflDown _ _ _ _ => .ls
  | .vshflXor _ _ _ _ => .ls
  | .vvoteAny _ _ _ => .ls
  | .vvoteAll _ _ _ => .ls
  | .vvoteBallot _ _ _ => .ls
  | .vred _ _ _ _ => .ls
  | .vscan _ _ _ _ => .ls
  | .vbcast _ _ _ _ => .ls
  | .vmatch _ _ _ => .ls
  | .vld _ _ _ _ _ => .ls
  | .vst _ _ _ _ _ => .ls
  | .vstm _ _ _ _ _ => .ls
  | .vatom _ _ _ _ _ => .ls
  | .vcas _ _ _ _ _ => .ls
  | .sld _ _ _ _ _ => .ls
  | .sst _ _ _ _ _ => .ls
  | .satom _ _ _ _ _ => .ls
  | .trd _ _ _ _ => .ls
  | .twr _ _ _ _ => .ls
  | .vprf _ _ _ => .ls
  | .fence _ _ => .br
  | .bari _ _ => .br
  | .barv _ _ => .br
  | .bard _ => .br
  | .barw _ _ => .br
  | .bart _ _ => .br
  | .qpush _ _ => .br
  | .qpop _ _ => .br
  | .qpeek _ _ _ => .br
  | .qrel _ => .br
  | .spawn _ _ => .br
  | .spawnDc _ _ _ => .br
  | .fget _ _ _ => .ls
  | .fput _ _ _ => .ls
  | .dcnew _ _ => .br
  | .dcdec _ => .br
  | .launch _ => .br
  | .evset _ _ => .br
  | .evclr _ _ => .br
  | .evwait _ _ => .br
  | .seqadd _ _ => .br
  | .seqwait _ _ => .br
  | .tcopy _ _ _ => .en
  | .tgath _ _ _ => .en
  | .tscat _ _ _ => .en
  | .tred _ _ _ => .en
  | .tfill _ _ _ => .en
  | .nmc _ _ _ => .en
  | .rld _ _ _ => .en
  | .rst _ _ _ => .en
  | .ratom _ _ _ _ => .en
  | .cstep _ _ _ => .en
  | .cfence _ => .en
  | .alw _ _ => .br
  | .bralw _ _ => .br
  | .cwait _ _ => .en
  | .mloop _ _ _ _ => .en
  | .mstep _ _ _ _ => .en
  | .mfmt _ _ => .en
  | .madr _ => .en
  | .mcfg _ _ => .en
  | .mbatch _ => .en
  | .mwait _ => .en
  | .mest _ => .en
  | .mzero _ => .en
  | .mtld _ _ _ => .en
  | .mtst _ _ _ => .en
  | .mfft _ _ => .en
  | .mtwid _ _ => .en
  | .retx => .sy
  | .park => .sy
  | .idle => .sy
  | .sev => .sy
  | .chalt => .sy
  | .sysr _ _ => .sy
  | .sysw _ _ => .sy
  | .tlbinv _ _ => .sy
  | .wpset _ _ => .sy
  | .tsave _ => .sy
  | .trest _ => .sy
  | .channelSlotRead _ => .empty
  | .packDispatch _ _ _ => .empty
  | .priorityAging => .empty
  | .kennelTimerExpiry _ _ => .empty
  | .packRetire _ => .empty
  | .packPark _ => .empty
  | .packResume _ _ _ => .empty
  | .allowanceReturn _ _ => .empty
  | .sliceEnd _ => .empty
  | .timeout _ => .empty
  | .laneLoadReply _ _ _ _ => .empty
  | .laneStorePerformed _ _ _ _ => .empty
  | .wcbDrain _ _ _ => .empty
  | .remoteReply _ _ _ _ => .empty
  | .copySegment _ _ _ => .empty
  | .engineFaultRetry _ _ => .empty
  | .engineFaultAbort _ _ => .empty
  | .engineLeashPush _ _ => .empty
  | .engineBarrierDelivery _ _ => .empty
  | .matrixStep _ => .empty
  | .adapterFillArrival _ _ _ _ => .empty
  | .creditRefill => .empty
  | .nmx _ _ _ _ => .empty
  | .ncas _ _ _ => .empty
  | .nenq _ _ _ => .empty
  | .nchase _ _ _ => .empty
  | .nfill _ _ _ _ => .empty
  | .cstepPeerOffer _ _ _ _ _ _ _ => .empty
  | .cstepDataArrival _ _ _ _ => .empty
  | .cstepAbandonNotice _ _ _ => .empty
  | .peerRequest _ _ _ _ _ _ _ => .empty
  | .retryReissue _ => .empty
  | .requestReissue _ _ => .empty
  | .portUp _ => .empty
  | .portDown _ _ => .empty
  | .peerCapabilities _ _ _ _ _ _ => .empty
  | .dieLinkLost => .empty
  | .registerUe _ _ => .empty
  | .tlbinvAck _ => .empty
  | .haltMessageArrival _ _ => .empty
  | .unitStop _ _ => .empty
  | .haltSettle _ => .empty
  | .ctxcreate _ _ => .empty
  | .ctxdestroy _ => .empty
  | .ctxclear _ => .empty
  | .hostevSet _ _ _ => .empty
  | .hostevClear _ _ _ => .empty
  | .dma _ => .empty
  | .dmaComplete _ => .empty
  | .freeze => .empty
  | .attest _ _ => .empty
  | .chwrWrite _ _ => .empty
  | .chstatWrite _ _ => .empty
  | .chctlWrite _ _ => .empty
  | .chbaseWrite _ _ => .empty
  | .evrrdWrite _ => .empty
  | .certdataRead => .empty
  | .scandataRead => .empty
  | .rasCounterWrite _ _ => .empty
  | .peerEntryWrite _ _ => .empty
  | .mgmtRegisterWrite _ _ => .empty
  | .powerLoop _ _ _ _ _ _ => .empty
  | .powerOverdraw => .empty
  | .reset _ => .empty
  | .unassignedEncoding _ => .empty
  | .dlReplay _ => .empty

/-- The rights of an instruction (R82). -/
def group : Instr → Group
  | .nop => .control
  | .bra _ => .control
  | .brc _ _ => .control
  | .brcF _ _ => .control
  | .brp _ _ => .control
  | .call _ => .control
  | .callC _ _ => .control
  | .callF _ _ => .control
  | .brx _ => .control
  | .ret _ => .control
  | .mark _ => .control
  | .join => .control
  | .exit => .control
  | .yield => .control
  | .waitc _ _ => .control
  | .lit _ => .control
  | .rep _ _ _ _ _ _ => .control
  | .trap _ => .control
  | .uadd _ _ _ => .control
  | .usub _ _ _ => .control
  | .umul _ _ _ => .control
  | .umulh _ _ _ => .control
  | .uand _ _ _ => .control
  | .uor _ _ _ => .control
  | .uxor _ _ _ => .control
  | .ushl _ _ _ => .control
  | .ushr _ _ _ => .control
  | .usar _ _ _ => .control
  | .umin _ _ _ => .control
  | .umax _ _ _ => .control
  | .umov _ _ => .control
  | .ubfe _ _ _ => .control
  | .uclz _ _ => .control
  | .ucnt _ _ => .control
  | .umad _ _ _ => .control
  | .ucmp _ _ _ _ => .control
  | .usel _ _ _ _ => .control
  | .uli _ _ => .control
  | .uld _ _ _ => .control
  | .ust _ _ _ => .control
  | .usr _ _ => .control
  | .uws _ _ => .control
  | .vadd _ _ _ _ => .lanes
  | .vsub _ _ _ _ => .lanes
  | .vmul _ _ _ _ => .lanes
  | .vmulh _ _ _ _ => .lanes
  | .vmad _ _ _ _ => .lanes
  | .vadds _ _ _ _ => .lanes
  | .vsubs _ _ _ _ => .lanes
  | .vand _ _ _ _ => .lanes
  | .vor _ _ _ _ => .lanes
  | .vxor _ _ _ _ => .lanes
  | .vshl _ _ _ _ => .lanes
  | .vshr _ _ _ _ => .lanes
  | .vsar _ _ _ _ => .lanes
  | .vfsh _ _ _ _ => .lanes
  | .vmin _ _ _ _ => .lanes
  | .vmax _ _ _ _ => .lanes
  | .vminu _ _ _ _ => .lanes
  | .vmaxu _ _ _ _ => .lanes
  | .vbfe _ _ _ _ => .lanes
  | .vbfi _ _ _ _ => .lanes
  | .vcmp _ _ _ _ => .lanes
  | .vsel _ _ _ _ => .lanes
  | .vabs _ _ _ => .lanes
  | .vclz _ _ _ => .lanes
  | .vcnt _ _ _ => .lanes
  | .vbrev _ _ _ => .lanes
  | .vmov _ _ _ => .lanes
  | .vpm _ _ _ => .lanes
  | .vmp _ _ => .lanes
  | .vfadd _ _ _ _ => .lanes
  | .vfsub _ _ _ _ => .lanes
  | .vfmul _ _ _ _ => .lanes
  | .vfma _ _ _ _ => .lanes
  | .vfma2 _ _ _ _ => .lanes
  | .vhfma2 _ _ _ _ => .lanes
  | .vfmin _ _ _ _ => .lanes
  | .vfmax _ _ _ _ => .lanes
  | .vfcmp _ _ _ _ => .lanes
  | .vfcvt _ _ _ _ _ => .lanes
  | .vfrcp _ _ _ => .lanes
  | .vfrsq _ _ _ => .lanes
  | .vfsqrt _ _ _ => .lanes
  | .vfexp2 _ _ _ => .lanes
  | .vflog2 _ _ _ => .lanes
  | .vfsin _ _ _ => .lanes
  | .vfcos _ _ _ => .lanes
  | .vcbld _ => .lanes
  | .vcbx _ _ _ _ => .lanes
  | .vcbq _ _ _ _ => .lanes
  | .vshflIdx _ _ _ _ => .lanes
  | .vshflUp _ _ _ _ => .lanes
  | .vshflDown _ _ _ _ => .lanes
  | .vshflXor _ _ _ _ => .lanes
  | .vvoteAny _ _ _ => .lanes
  | .vvoteAll _ _ _ => .lanes
  | .vvoteBallot _ _ _ => .lanes
  | .vred _ _ _ _ => .lanes
  | .vscan _ _ _ _ => .lanes
  | .vbcast _ _ _ _ => .lanes
  | .vmatch _ _ _ => .lanes
  | .vld _ _ _ _ _ => .lanes
  | .vst _ _ _ _ _ => .lanes
  | .vstm _ _ _ _ _ => .lanes
  | .vatom _ _ _ _ _ => .lanes
  | .vcas _ _ _ _ _ => .lanes
  | .sld _ _ _ _ _ => .lanes
  | .sst _ _ _ _ _ => .lanes
  | .satom _ _ _ _ _ => .lanes
  | .trd _ _ _ _ => .lanes
  | .twr _ _ _ _ => .lanes
  | .vprf _ _ _ => .lanes
  | .fence _ _ => .control
  | .bari _ _ => .control
  | .barv _ _ => .control
  | .bard _ => .control
  | .barw _ _ => .control
  | .bart _ _ => .control
  | .qpush _ _ => .control
  | .qpop _ _ => .control
  | .qpeek _ _ _ => .control
  | .qrel _ => .control
  | .spawn _ _ => .spawning
  | .spawnDc _ _ _ => .spawning
  | .fget _ _ _ => .control
  | .fput _ _ _ => .control
  | .dcnew _ _ => .control
  | .dcdec _ => .control
  | .launch _ => .control
  | .evset _ _ => .control
  | .evclr _ _ => .control
  | .evwait _ _ => .control
  | .seqadd _ _ => .control
  | .seqwait _ _ => .control
  | .tcopy _ _ _ => .engines
  | .tgath _ _ _ => .engines
  | .tscat _ _ _ => .engines
  | .tred _ _ _ => .engines
  | .tfill _ _ _ => .engines
  | .nmc _ _ _ => .engines
  | .rld _ _ _ => .engines
  | .rst _ _ _ => .engines
  | .ratom _ _ _ _ => .engines
  | .cstep _ _ _ => .engines
  | .cfence _ => .engines
  | .alw _ _ => .control
  | .bralw _ _ => .control
  | .cwait _ _ => .engines
  | .mloop _ _ _ _ => .matrix
  | .mstep _ _ _ _ => .matrix
  | .mfmt _ _ => .matrix
  | .madr _ => .matrix
  | .mcfg _ _ => .matrix
  | .mbatch _ => .matrix
  | .mwait _ => .matrix
  | .mest _ => .matrix
  | .mzero _ => .matrix
  | .mtld _ _ _ => .matrix
  | .mtst _ _ _ => .matrix
  | .mfft _ _ => .matrix
  | .mtwid _ _ => .matrix
  | .retx => .control
  | .park => .control
  | .idle => .control
  | .sev => .control
  | .chalt => .control
  | .sysr _ _ => .control
  | .sysw _ _ => .control
  | .tlbinv _ _ => .control
  | .wpset _ _ => .control
  | .tsave _ => .control
  | .trest _ => .control
  | .channelSlotRead _ => .control
  | .packDispatch _ _ _ => .control
  | .priorityAging => .control
  | .kennelTimerExpiry _ _ => .control
  | .packRetire _ => .control
  | .packPark _ => .control
  | .packResume _ _ _ => .control
  | .allowanceReturn _ _ => .control
  | .sliceEnd _ => .control
  | .timeout _ => .control
  | .laneLoadReply _ _ _ _ => .control
  | .laneStorePerformed _ _ _ _ => .control
  | .wcbDrain _ _ _ => .control
  | .remoteReply _ _ _ _ => .control
  | .copySegment _ _ _ => .control
  | .engineFaultRetry _ _ => .control
  | .engineFaultAbort _ _ => .control
  | .engineLeashPush _ _ => .control
  | .engineBarrierDelivery _ _ => .control
  | .matrixStep _ => .control
  | .adapterFillArrival _ _ _ _ => .control
  | .creditRefill => .control
  | .nmx _ _ _ _ => .control
  | .ncas _ _ _ => .control
  | .nenq _ _ _ => .control
  | .nchase _ _ _ => .control
  | .nfill _ _ _ _ => .control
  | .cstepPeerOffer _ _ _ _ _ _ _ => .control
  | .cstepDataArrival _ _ _ _ => .control
  | .cstepAbandonNotice _ _ _ => .control
  | .peerRequest _ _ _ _ _ _ _ => .control
  | .retryReissue _ => .control
  | .requestReissue _ _ => .control
  | .portUp _ => .control
  | .portDown _ _ => .control
  | .peerCapabilities _ _ _ _ _ _ => .control
  | .dieLinkLost => .control
  | .registerUe _ _ => .control
  | .tlbinvAck _ => .control
  | .haltMessageArrival _ _ => .control
  | .unitStop _ _ => .control
  | .haltSettle _ => .control
  | .ctxcreate _ _ => .control
  | .ctxdestroy _ => .control
  | .ctxclear _ => .control
  | .hostevSet _ _ _ => .control
  | .hostevClear _ _ _ => .control
  | .dma _ => .control
  | .dmaComplete _ => .control
  | .freeze => .control
  | .attest _ _ => .control
  | .chwrWrite _ _ => .control
  | .chstatWrite _ _ => .control
  | .chctlWrite _ _ => .control
  | .chbaseWrite _ _ => .control
  | .evrrdWrite _ => .control
  | .certdataRead => .control
  | .scandataRead => .control
  | .rasCounterWrite _ _ => .control
  | .peerEntryWrite _ _ => .control
  | .mgmtRegisterWrite _ _ => .control
  | .powerLoop _ _ _ _ _ _ => .control
  | .powerOverdraw => .control
  | .reset _ => .control
  | .unassignedEncoding _ => .control
  | .dlReplay _ => .control

/-- The format of an instruction (R77). -/
def format : Instr → Format
  | .nop => .none
  | .bra _ => .b
  | .brc _ _ => .b
  | .brcF _ _ => .b
  | .brp _ _ => .b
  | .call _ => .b
  | .callC _ _ => .b
  | .callF _ _ => .b
  | .brx _ => .e
  | .ret _ => .e
  | .mark _ => .b
  | .join => .e
  | .exit => .e
  | .yield => .e
  | .waitc _ _ => .e
  | .lit _ => .none
  | .rep _ _ _ _ _ _ => .none
  | .trap _ => .e
  | .uadd _ _ _ => .u
  | .usub _ _ _ => .u
  | .umul _ _ _ => .u
  | .umulh _ _ _ => .u
  | .uand _ _ _ => .u
  | .uor _ _ _ => .u
  | .uxor _ _ _ => .u
  | .ushl _ _ _ => .u
  | .ushr _ _ _ => .u
  | .usar _ _ _ => .u
  | .umin _ _ _ => .u
  | .umax _ _ _ => .u
  | .umov _ _ => .u
  | .ubfe _ _ _ => .u
  | .uclz _ _ => .u
  | .ucnt _ _ => .u
  | .umad _ _ _ => .u
  | .ucmp _ _ _ _ => .u
  | .usel _ _ _ _ => .u
  | .uli _ _ => .u
  | .uld _ _ _ => .u
  | .ust _ _ _ => .u
  | .usr _ _ => .u
  | .uws _ _ => .u
  | .vadd _ _ _ _ => .v
  | .vsub _ _ _ _ => .v
  | .vmul _ _ _ _ => .v
  | .vmulh _ _ _ _ => .v
  | .vmad _ _ _ _ => .v
  | .vadds _ _ _ _ => .v
  | .vsubs _ _ _ _ => .v
  | .vand _ _ _ _ => .v
  | .vor _ _ _ _ => .v
  | .vxor _ _ _ _ => .v
  | .vshl _ _ _ _ => .v
  | .vshr _ _ _ _ => .v
  | .vsar _ _ _ _ => .v
  | .vfsh _ _ _ _ => .v
  | .vmin _ _ _ _ => .v
  | .vmax _ _ _ _ => .v
  | .vminu _ _ _ _ => .v
  | .vmaxu _ _ _ _ => .v
  | .vbfe _ _ _ _ => .v
  | .vbfi _ _ _ _ => .v
  | .vcmp _ _ _ _ => .v
  | .vsel _ _ _ _ => .v
  | .vabs _ _ _ => .v
  | .vclz _ _ _ => .v
  | .vcnt _ _ _ => .v
  | .vbrev _ _ _ => .v
  | .vmov _ _ _ => .v
  | .vpm _ _ _ => .v
  | .vmp _ _ => .v
  | .vfadd _ _ _ _ => .v
  | .vfsub _ _ _ _ => .v
  | .vfmul _ _ _ _ => .v
  | .vfma _ _ _ _ => .v
  | .vfma2 _ _ _ _ => .v
  | .vhfma2 _ _ _ _ => .v
  | .vfmin _ _ _ _ => .v
  | .vfmax _ _ _ _ => .v
  | .vfcmp _ _ _ _ => .v
  | .vfcvt _ _ _ _ _ => .v
  | .vfrcp _ _ _ => .v
  | .vfrsq _ _ _ => .v
  | .vfsqrt _ _ _ => .v
  | .vfexp2 _ _ _ => .v
  | .vflog2 _ _ _ => .v
  | .vfsin _ _ _ => .v
  | .vfcos _ _ _ => .v
  | .vcbld _ => .v
  | .vcbx _ _ _ _ => .v
  | .vcbq _ _ _ _ => .v
  | .vshflIdx _ _ _ _ => .v
  | .vshflUp _ _ _ _ => .v
  | .vshflDown _ _ _ _ => .v
  | .vshflXor _ _ _ _ => .v
  | .vvoteAny _ _ _ => .v
  | .vvoteAll _ _ _ => .v
  | .vvoteBallot _ _ _ => .v
  | .vred _ _ _ _ => .v
  | .vscan _ _ _ _ => .v
  | .vbcast _ _ _ _ => .v
  | .vmatch _ _ _ => .v
  | .vld _ _ _ _ _ => .m
  | .vst _ _ _ _ _ => .m
  | .vstm _ _ _ _ _ => .m
  | .vatom _ _ _ _ _ => .m
  | .vcas _ _ _ _ _ => .m
  | .sld _ _ _ _ _ => .m
  | .sst _ _ _ _ _ => .m
  | .satom _ _ _ _ _ => .m
  | .trd _ _ _ _ => .m
  | .twr _ _ _ _ => .m
  | .vprf _ _ _ => .m
  | .fence _ _ => .e
  | .bari _ _ => .e
  | .barv _ _ => .e
  | .bard _ => .e
  | .barw _ _ => .e
  | .bart _ _ => .e
  | .qpush _ _ => .e
  | .qpop _ _ => .e
  | .qpeek _ _ _ => .e
  | .qrel _ => .e
  | .spawn _ _ => .e
  | .spawnDc _ _ _ => .e
  | .fget _ _ _ => .m
  | .fput _ _ _ => .m
  | .dcnew _ _ => .e
  | .dcdec _ => .e
  | .launch _ => .e
  | .evset _ _ => .e
  | .evclr _ _ => .e
  | .evwait _ _ => .e
  | .seqadd _ _ => .e
  | .seqwait _ _ => .e
  | .tcopy _ _ _ => .e
  | .tgath _ _ _ => .e
  | .tscat _ _ _ => .e
  | .tred _ _ _ => .e
  | .tfill _ _ _ => .e
  | .nmc _ _ _ => .e
  | .rld _ _ _ => .e
  | .rst _ _ _ => .e
  | .ratom _ _ _ _ => .e
  | .cstep _ _ _ => .e
  | .cfence _ => .e
  | .alw _ _ => .e
  | .bralw _ _ => .e
  | .cwait _ _ => .e
  | .mloop _ _ _ _ => .e
  | .mstep _ _ _ _ => .e
  | .mfmt _ _ => .e
  | .madr _ => .e
  | .mcfg _ _ => .e
  | .mbatch _ => .e
  | .mwait _ => .e
  | .mest _ => .e
  | .mzero _ => .e
  | .mtld _ _ _ => .e
  | .mtst _ _ _ => .e
  | .mfft _ _ => .e
  | .mtwid _ _ => .e
  | .retx => .e
  | .park => .e
  | .idle => .e
  | .sev => .e
  | .chalt => .e
  | .sysr _ _ => .e
  | .sysw _ _ => .e
  | .tlbinv _ _ => .e
  | .wpset _ _ => .e
  | .tsave _ => .e
  | .trest _ => .e
  | .channelSlotRead _ => .none
  | .packDispatch _ _ _ => .none
  | .priorityAging => .none
  | .kennelTimerExpiry _ _ => .none
  | .packRetire _ => .none
  | .packPark _ => .none
  | .packResume _ _ _ => .none
  | .allowanceReturn _ _ => .none
  | .sliceEnd _ => .none
  | .timeout _ => .none
  | .laneLoadReply _ _ _ _ => .none
  | .laneStorePerformed _ _ _ _ => .none
  | .wcbDrain _ _ _ => .none
  | .remoteReply _ _ _ _ => .none
  | .copySegment _ _ _ => .none
  | .engineFaultRetry _ _ => .none
  | .engineFaultAbort _ _ => .none
  | .engineLeashPush _ _ => .none
  | .engineBarrierDelivery _ _ => .none
  | .matrixStep _ => .none
  | .adapterFillArrival _ _ _ _ => .none
  | .creditRefill => .none
  | .nmx _ _ _ _ => .none
  | .ncas _ _ _ => .none
  | .nenq _ _ _ => .none
  | .nchase _ _ _ => .none
  | .nfill _ _ _ _ => .none
  | .cstepPeerOffer _ _ _ _ _ _ _ => .none
  | .cstepDataArrival _ _ _ _ => .none
  | .cstepAbandonNotice _ _ _ => .none
  | .peerRequest _ _ _ _ _ _ _ => .none
  | .retryReissue _ => .none
  | .requestReissue _ _ => .none
  | .portUp _ => .none
  | .portDown _ _ => .none
  | .peerCapabilities _ _ _ _ _ _ => .none
  | .dieLinkLost => .none
  | .registerUe _ _ => .none
  | .tlbinvAck _ => .none
  | .haltMessageArrival _ _ => .none
  | .unitStop _ _ => .none
  | .haltSettle _ => .none
  | .ctxcreate _ _ => .none
  | .ctxdestroy _ => .none
  | .ctxclear _ => .none
  | .hostevSet _ _ _ => .none
  | .hostevClear _ _ _ => .none
  | .dma _ => .none
  | .dmaComplete _ => .none
  | .freeze => .none
  | .attest _ _ => .none
  | .chwrWrite _ _ => .none
  | .chstatWrite _ _ => .none
  | .chctlWrite _ _ => .none
  | .chbaseWrite _ _ => .none
  | .evrrdWrite _ => .none
  | .certdataRead => .none
  | .scandataRead => .none
  | .rasCounterWrite _ _ => .none
  | .peerEntryWrite _ _ => .none
  | .mgmtRegisterWrite _ _ => .none
  | .powerLoop _ _ _ _ _ _ => .none
  | .powerOverdraw => .none
  | .reset _ => .none
  | .unassignedEncoding _ => .none
  | .dlReplay _ => .none

/-- Whether a `lit` may stand before the word (R72, R210, R227, R281, R307). -/
def takesLit : Instr → Bool
  | .nop => false
  | .bra _ => false
  | .brc _ _ => false
  | .brcF _ _ => false
  | .brp _ _ => false
  | .call _ => false
  | .callC _ _ => false
  | .callF _ _ => false
  | .brx _ => false
  | .ret _ => false
  | .mark _ => false
  | .join => false
  | .exit => false
  | .yield => false
  | .waitc _ _ => false
  | .lit _ => false
  | .rep _ _ _ _ _ _ => false
  | .trap _ => false
  | .uadd _ _ _ => true
  | .usub _ _ _ => true
  | .umul _ _ _ => true
  | .umulh _ _ _ => true
  | .uand _ _ _ => true
  | .uor _ _ _ => true
  | .uxor _ _ _ => true
  | .ushl _ _ _ => true
  | .ushr _ _ _ => true
  | .usar _ _ _ => true
  | .umin _ _ _ => true
  | .umax _ _ _ => true
  | .umov _ _ => false
  | .ubfe _ _ _ => true
  | .uclz _ _ => false
  | .ucnt _ _ => false
  | .umad _ _ _ => true
  | .ucmp _ _ _ _ => true
  | .usel _ _ _ _ => true
  | .uli _ _ => true
  | .uld _ _ _ => true
  | .ust _ _ _ => true
  | .usr _ _ => false
  | .uws _ _ => false
  | .vadd _ _ _ _ => true
  | .vsub _ _ _ _ => true
  | .vmul _ _ _ _ => true
  | .vmulh _ _ _ _ => true
  | .vmad _ _ _ _ => true
  | .vadds _ _ _ _ => true
  | .vsubs _ _ _ _ => true
  | .vand _ _ _ _ => true
  | .vor _ _ _ _ => true
  | .vxor _ _ _ _ => true
  | .vshl _ _ _ _ => true
  | .vshr _ _ _ _ => true
  | .vsar _ _ _ _ => true
  | .vfsh _ _ _ _ => true
  | .vmin _ _ _ _ => true
  | .vmax _ _ _ _ => true
  | .vminu _ _ _ _ => true
  | .vmaxu _ _ _ _ => true
  | .vbfe _ _ _ _ => true
  | .vbfi _ _ _ _ => true
  | .vcmp _ _ _ _ => true
  | .vsel _ _ _ _ => true
  | .vabs _ _ _ => false
  | .vclz _ _ _ => false
  | .vcnt _ _ _ => false
  | .vbrev _ _ _ => false
  | .vmov _ _ _ => false
  | .vpm _ _ _ => false
  | .vmp _ _ => false
  | .vfadd _ _ _ _ => true
  | .vfsub _ _ _ _ => true
  | .vfmul _ _ _ _ => true
  | .vfma _ _ _ _ => true
  | .vfma2 _ _ _ _ => true
  | .vhfma2 _ _ _ _ => false
  | .vfmin _ _ _ _ => true
  | .vfmax _ _ _ _ => true
  | .vfcmp _ _ _ _ => true
  | .vfcvt _ _ _ _ _ => false
  | .vfrcp _ _ _ => false
  | .vfrsq _ _ _ => false
  | .vfsqrt _ _ _ => false
  | .vfexp2 _ _ _ => false
  | .vflog2 _ _ _ => false
  | .vfsin _ _ _ => false
  | .vfcos _ _ _ => false
  | .vcbld _ => false
  | .vcbx _ _ _ _ => true
  | .vcbq _ _ _ _ => true
  | .vshflIdx _ _ _ _ => true
  | .vshflUp _ _ _ _ => true
  | .vshflDown _ _ _ _ => true
  | .vshflXor _ _ _ _ => true
  | .vvoteAny _ _ _ => false
  | .vvoteAll _ _ _ => false
  | .vvoteBallot _ _ _ => false
  | .vred _ _ _ _ => false
  | .vscan _ _ _ _ => false
  | .vbcast _ _ _ _ => true
  | .vmatch _ _ _ => false
  | .vld _ _ _ _ _ => true
  | .vst _ _ _ _ _ => true
  | .vstm _ _ _ _ _ => true
  | .vatom _ _ _ _ _ => true
  | .vcas _ _ _ _ _ => true
  | .sld _ _ _ _ _ => true
  | .sst _ _ _ _ _ => true
  | .satom _ _ _ _ _ => true
  | .trd _ _ _ _ => true
  | .twr _ _ _ _ => true
  | .vprf _ _ _ => true
  | .fence _ _ => false
  | .bari _ _ => false
  | .barv _ _ => false
  | .bard _ => false
  | .barw _ _ => false
  | .bart _ _ => false
  | .qpush _ _ => false
  | .qpop _ _ => false
  | .qpeek _ _ _ => false
  | .qrel _ => false
  | .spawn _ _ => false
  | .spawnDc _ _ _ => false
  | .fget _ _ _ => true
  | .fput _ _ _ => true
  | .dcnew _ _ => false
  | .dcdec _ => false
  | .launch _ => false
  | .evset _ _ => true
  | .evclr _ _ => true
  | .evwait _ _ => true
  | .seqadd _ _ => false
  | .seqwait _ _ => false
  | .tcopy _ _ _ => false
  | .tgath _ _ _ => false
  | .tscat _ _ _ => false
  | .tred _ _ _ => false
  | .tfill _ _ _ => false
  | .nmc _ _ _ => false
  | .rld _ _ _ => true
  | .rst _ _ _ => true
  | .ratom _ _ _ _ => true
  | .cstep _ _ _ => false
  | .cfence _ => false
  | .alw _ _ => false
  | .bralw _ _ => true
  | .cwait _ _ => false
  | .mloop _ _ _ _ => false
  | .mstep _ _ _ _ => false
  | .mfmt _ _ => false
  | .madr _ => false
  | .mcfg _ _ => false
  | .mbatch _ => false
  | .mwait _ => false
  | .mest _ => false
  | .mzero _ => false
  | .mtld _ _ _ => false
  | .mtst _ _ _ => false
  | .mfft _ _ => false
  | .mtwid _ _ => false
  | .retx => false
  | .park => false
  | .idle => false
  | .sev => false
  | .chalt => false
  | .sysr _ _ => false
  | .sysw _ _ => false
  | .tlbinv _ _ => false
  | .wpset _ _ => false
  | .tsave _ => false
  | .trest _ => false
  | .channelSlotRead _ => false
  | .packDispatch _ _ _ => false
  | .priorityAging => false
  | .kennelTimerExpiry _ _ => false
  | .packRetire _ => false
  | .packPark _ => false
  | .packResume _ _ _ => false
  | .allowanceReturn _ _ => false
  | .sliceEnd _ => false
  | .timeout _ => false
  | .laneLoadReply _ _ _ _ => false
  | .laneStorePerformed _ _ _ _ => false
  | .wcbDrain _ _ _ => false
  | .remoteReply _ _ _ _ => false
  | .copySegment _ _ _ => false
  | .engineFaultRetry _ _ => false
  | .engineFaultAbort _ _ => false
  | .engineLeashPush _ _ => false
  | .engineBarrierDelivery _ _ => false
  | .matrixStep _ => false
  | .adapterFillArrival _ _ _ _ => false
  | .creditRefill => false
  | .nmx _ _ _ _ => false
  | .ncas _ _ _ => false
  | .nenq _ _ _ => false
  | .nchase _ _ _ => false
  | .nfill _ _ _ _ => false
  | .cstepPeerOffer _ _ _ _ _ _ _ => false
  | .cstepDataArrival _ _ _ _ => false
  | .cstepAbandonNotice _ _ _ => false
  | .peerRequest _ _ _ _ _ _ _ => false
  | .retryReissue _ => false
  | .requestReissue _ _ => false
  | .portUp _ => false
  | .portDown _ _ => false
  | .peerCapabilities _ _ _ _ _ _ => false
  | .dieLinkLost => false
  | .registerUe _ _ => false
  | .tlbinvAck _ => false
  | .haltMessageArrival _ _ => false
  | .unitStop _ _ => false
  | .haltSettle _ => false
  | .ctxcreate _ _ => false
  | .ctxdestroy _ => false
  | .ctxclear _ => false
  | .hostevSet _ _ _ => false
  | .hostevClear _ _ _ => false
  | .dma _ => false
  | .dmaComplete _ => false
  | .freeze => false
  | .attest _ _ => false
  | .chwrWrite _ _ => false
  | .chstatWrite _ _ => false
  | .chctlWrite _ _ => false
  | .chbaseWrite _ _ => false
  | .evrrdWrite _ => false
  | .certdataRead => false
  | .scandataRead => false
  | .rasCounterWrite _ _ => false
  | .peerEntryWrite _ _ => false
  | .mgmtRegisterWrite _ _ => false
  | .powerLoop _ _ _ _ _ _ => false
  | .powerOverdraw => false
  | .reset _ => false
  | .unassignedEncoding _ => false
  | .dlReplay _ => false

/-- Whether the fields that a literal replaces are zero (R72, R281). -/
def litFieldZero : Instr → Bool
  | .nop => true
  | .bra _ => true
  | .brc _ _ => true
  | .brcF _ _ => true
  | .brp _ _ => true
  | .call _ => true
  | .callC _ _ => true
  | .callF _ _ => true
  | .brx _ => true
  | .ret _ => true
  | .mark _ => true
  | .join => true
  | .exit => true
  | .yield => true
  | .waitc _ _ => true
  | .lit _ => true
  | .rep _ _ _ _ _ _ => true
  | .trap _ => true
  | .uadd _ _ kb => kb == 0
  | .usub _ _ kb => kb == 0
  | .umul _ _ kb => kb == 0
  | .umulh _ _ kb => kb == 0
  | .uand _ _ kb => kb == 0
  | .uor _ _ kb => kb == 0
  | .uxor _ _ kb => kb == 0
  | .ushl _ _ kb => kb == 0
  | .ushr _ _ kb => kb == 0
  | .usar _ _ kb => kb == 0
  | .umin _ _ kb => kb == 0
  | .umax _ _ kb => kb == 0
  | .umov _ _ => true
  | .ubfe _ _ kb => kb == 0
  | .uclz _ _ => true
  | .ucnt _ _ => true
  | .umad _ _ kb => kb == 0
  | .ucmp _ _ kb _ => kb == 0
  | .usel _ _ kb _ => kb == 0
  | .uli _ _ => true
  | .uld _ _ _ => true
  | .ust _ _ _ => true
  | .usr _ _ => true
  | .uws _ _ => true
  | .vadd _ _ _ b => b == 0
  | .vsub _ _ _ b => b == 0
  | .vmul _ _ _ b => b == 0
  | .vmulh _ _ _ b => b == 0
  | .vmad _ _ _ b => b == 0
  | .vadds _ _ _ b => b == 0
  | .vsubs _ _ _ b => b == 0
  | .vand _ _ _ b => b == 0
  | .vor _ _ _ b => b == 0
  | .vxor _ _ _ b => b == 0
  | .vshl _ _ _ b => b == 0
  | .vshr _ _ _ b => b == 0
  | .vsar _ _ _ b => b == 0
  | .vfsh _ _ _ b => b == 0
  | .vmin _ _ _ b => b == 0
  | .vmax _ _ _ b => b == 0
  | .vminu _ _ _ b => b == 0
  | .vmaxu _ _ _ b => b == 0
  | .vbfe _ _ _ b => b == 0
  | .vbfi _ _ _ b => b == 0
  | .vcmp _ _ _ b => b == 0
  | .vsel _ _ _ b => b == 0
  | .vabs _ _ _ => true
  | .vclz _ _ _ => true
  | .vcnt _ _ _ => true
  | .vbrev _ _ _ => true
  | .vmov _ _ _ => true
  | .vpm _ _ _ => true
  | .vmp _ _ => true
  | .vfadd _ _ _ b => b == 0
  | .vfsub _ _ _ b => b == 0
  | .vfmul _ _ _ b => b == 0
  | .vfma _ _ _ b => b == 0
  | .vfma2 _ _ _ b => b == 0
  | .vhfma2 _ _ _ _ => true
  | .vfmin _ _ _ b => b == 0
  | .vfmax _ _ _ b => b == 0
  | .vfcmp _ _ _ b => b == 0
  | .vfcvt _ _ _ _ _ => true
  | .vfrcp _ _ _ => true
  | .vfrsq _ _ _ => true
  | .vfsqrt _ _ _ => true
  | .vfexp2 _ _ _ => true
  | .vflog2 _ _ _ => true
  | .vfsin _ _ _ => true
  | .vfcos _ _ _ => true
  | .vcbld _ => true
  | .vcbx _ _ _ b => b == 0
  | .vcbq _ _ _ b => b == 0
  | .vshflIdx _ _ _ b => b == 0
  | .vshflUp _ _ _ b => b == 0
  | .vshflDown _ _ _ b => b == 0
  | .vshflXor _ _ _ b => b == 0
  | .vvoteAny _ _ _ => true
  | .vvoteAll _ _ _ => true
  | .vvoteBallot _ _ _ => true
  | .vred _ _ _ _ => true
  | .vscan _ _ _ _ => true
  | .vbcast _ _ _ b => b == 0
  | .vmatch _ _ _ => true
  | .vld _ _ _ _ _ => true
  | .vst _ _ _ _ _ => true
  | .vstm _ _ _ _ _ => true
  | .vatom _ _ _ _ _ => true
  | .vcas _ _ _ _ _ => true
  | .sld _ _ _ _ _ => true
  | .sst _ _ _ _ _ => true
  | .satom _ _ _ _ _ => true
  | .trd _ _ _ _ => true
  | .twr _ _ _ _ => true
  | .vprf _ _ _ => true
  | .fence _ _ => true
  | .bari _ _ => true
  | .barv _ _ => true
  | .bard _ => true
  | .barw _ _ => true
  | .bart _ _ => true
  | .qpush _ _ => true
  | .qpop _ _ => true
  | .qpeek _ _ _ => true
  | .qrel _ => true
  | .spawn _ _ => true
  | .spawnDc _ _ _ => true
  | .fget _ _ _ => true
  | .fput _ _ _ => true
  | .dcnew _ _ => true
  | .dcdec _ => true
  | .launch _ => true
  | .evset ka g => ka == 0 && g == 0
  | .evclr ka g => ka == 0 && g == 0
  | .evwait ka g => ka == 0 && g == 0
  | .seqadd _ _ => true
  | .seqwait _ _ => true
  | .tcopy _ _ _ => true
  | .tgath _ _ _ => true
  | .tscat _ _ _ => true
  | .tred _ _ _ => true
  | .tfill _ _ _ => true
  | .nmc _ _ _ => true
  | .rld _ _ _ => true
  | .rst _ _ _ => true
  | .ratom _ _ _ _ => true
  | .cstep _ _ _ => true
  | .cfence _ => true
  | .alw _ _ => true
  | .bralw _ _ => true
  | .cwait _ _ => true
  | .mloop _ _ _ _ => true
  | .mstep _ _ _ _ => true
  | .mfmt _ _ => true
  | .madr _ => true
  | .mcfg _ _ => true
  | .mbatch _ => true
  | .mwait _ => true
  | .mest _ => true
  | .mzero _ => true
  | .mtld _ _ _ => true
  | .mtst _ _ _ => true
  | .mfft _ _ => true
  | .mtwid _ _ => true
  | .retx => true
  | .park => true
  | .idle => true
  | .sev => true
  | .chalt => true
  | .sysr _ _ => true
  | .sysw _ _ => true
  | .tlbinv _ _ => true
  | .wpset _ _ => true
  | .tsave _ => true
  | .trest _ => true
  | .channelSlotRead _ => true
  | .packDispatch _ _ _ => true
  | .priorityAging => true
  | .kennelTimerExpiry _ _ => true
  | .packRetire _ => true
  | .packPark _ => true
  | .packResume _ _ _ => true
  | .allowanceReturn _ _ => true
  | .sliceEnd _ => true
  | .timeout _ => true
  | .laneLoadReply _ _ _ _ => true
  | .laneStorePerformed _ _ _ _ => true
  | .wcbDrain _ _ _ => true
  | .remoteReply _ _ _ _ => true
  | .copySegment _ _ _ => true
  | .engineFaultRetry _ _ => true
  | .engineFaultAbort _ _ => true
  | .engineLeashPush _ _ => true
  | .engineBarrierDelivery _ _ => true
  | .matrixStep _ => true
  | .adapterFillArrival _ _ _ _ => true
  | .creditRefill => true
  | .nmx _ _ _ _ => true
  | .ncas _ _ _ => true
  | .nenq _ _ _ => true
  | .nchase _ _ _ => true
  | .nfill _ _ _ _ => true
  | .cstepPeerOffer _ _ _ _ _ _ _ => true
  | .cstepDataArrival _ _ _ _ => true
  | .cstepAbandonNotice _ _ _ => true
  | .peerRequest _ _ _ _ _ _ _ => true
  | .retryReissue _ => true
  | .requestReissue _ _ => true
  | .portUp _ => true
  | .portDown _ _ => true
  | .peerCapabilities _ _ _ _ _ _ => true
  | .dieLinkLost => true
  | .registerUe _ _ => true
  | .tlbinvAck _ => true
  | .haltMessageArrival _ _ => true
  | .unitStop _ _ => true
  | .haltSettle _ => true
  | .ctxcreate _ _ => true
  | .ctxdestroy _ => true
  | .ctxclear _ => true
  | .hostevSet _ _ _ => true
  | .hostevClear _ _ _ => true
  | .dma _ => true
  | .dmaComplete _ => true
  | .freeze => true
  | .attest _ _ => true
  | .chwrWrite _ _ => true
  | .chstatWrite _ _ => true
  | .chctlWrite _ _ => true
  | .chbaseWrite _ _ => true
  | .evrrdWrite _ => true
  | .certdataRead => true
  | .scandataRead => true
  | .rasCounterWrite _ _ => true
  | .peerEntryWrite _ _ => true
  | .mgmtRegisterWrite _ _ => true
  | .powerLoop _ _ _ _ _ _ => true
  | .powerOverdraw => true
  | .reset _ => true
  | .unassignedEncoding _ => true
  | .dlReplay _ => true

/-- Whether the word raises PRIV at user level by itself (R82); `usr` and `uws` depend on their index (R217). -/
def privileged : Instr → Bool
  | .nop => false
  | .bra _ => false
  | .brc _ _ => false
  | .brcF _ _ => false
  | .brp _ _ => false
  | .call _ => false
  | .callC _ _ => false
  | .callF _ _ => false
  | .brx _ => false
  | .ret _ => false
  | .mark _ => false
  | .join => false
  | .exit => false
  | .yield => false
  | .waitc _ _ => false
  | .lit _ => false
  | .rep _ _ _ _ _ _ => false
  | .trap _ => false
  | .uadd _ _ _ => false
  | .usub _ _ _ => false
  | .umul _ _ _ => false
  | .umulh _ _ _ => false
  | .uand _ _ _ => false
  | .uor _ _ _ => false
  | .uxor _ _ _ => false
  | .ushl _ _ _ => false
  | .ushr _ _ _ => false
  | .usar _ _ _ => false
  | .umin _ _ _ => false
  | .umax _ _ _ => false
  | .umov _ _ => false
  | .ubfe _ _ _ => false
  | .uclz _ _ => false
  | .ucnt _ _ => false
  | .umad _ _ _ => false
  | .ucmp _ _ _ _ => false
  | .usel _ _ _ _ => false
  | .uli _ _ => false
  | .uld _ _ _ => false
  | .ust _ _ _ => false
  | .usr _ _ => false
  | .uws _ _ => false
  | .vadd _ _ _ _ => false
  | .vsub _ _ _ _ => false
  | .vmul _ _ _ _ => false
  | .vmulh _ _ _ _ => false
  | .vmad _ _ _ _ => false
  | .vadds _ _ _ _ => false
  | .vsubs _ _ _ _ => false
  | .vand _ _ _ _ => false
  | .vor _ _ _ _ => false
  | .vxor _ _ _ _ => false
  | .vshl _ _ _ _ => false
  | .vshr _ _ _ _ => false
  | .vsar _ _ _ _ => false
  | .vfsh _ _ _ _ => false
  | .vmin _ _ _ _ => false
  | .vmax _ _ _ _ => false
  | .vminu _ _ _ _ => false
  | .vmaxu _ _ _ _ => false
  | .vbfe _ _ _ _ => false
  | .vbfi _ _ _ _ => false
  | .vcmp _ _ _ _ => false
  | .vsel _ _ _ _ => false
  | .vabs _ _ _ => false
  | .vclz _ _ _ => false
  | .vcnt _ _ _ => false
  | .vbrev _ _ _ => false
  | .vmov _ _ _ => false
  | .vpm _ _ _ => false
  | .vmp _ _ => false
  | .vfadd _ _ _ _ => false
  | .vfsub _ _ _ _ => false
  | .vfmul _ _ _ _ => false
  | .vfma _ _ _ _ => false
  | .vfma2 _ _ _ _ => false
  | .vhfma2 _ _ _ _ => false
  | .vfmin _ _ _ _ => false
  | .vfmax _ _ _ _ => false
  | .vfcmp _ _ _ _ => false
  | .vfcvt _ _ _ _ _ => false
  | .vfrcp _ _ _ => false
  | .vfrsq _ _ _ => false
  | .vfsqrt _ _ _ => false
  | .vfexp2 _ _ _ => false
  | .vflog2 _ _ _ => false
  | .vfsin _ _ _ => false
  | .vfcos _ _ _ => false
  | .vcbld _ => false
  | .vcbx _ _ _ _ => false
  | .vcbq _ _ _ _ => false
  | .vshflIdx _ _ _ _ => false
  | .vshflUp _ _ _ _ => false
  | .vshflDown _ _ _ _ => false
  | .vshflXor _ _ _ _ => false
  | .vvoteAny _ _ _ => false
  | .vvoteAll _ _ _ => false
  | .vvoteBallot _ _ _ => false
  | .vred _ _ _ _ => false
  | .vscan _ _ _ _ => false
  | .vbcast _ _ _ _ => false
  | .vmatch _ _ _ => false
  | .vld _ _ _ _ _ => false
  | .vst _ _ _ _ _ => false
  | .vstm _ _ _ _ _ => false
  | .vatom _ _ _ _ _ => false
  | .vcas _ _ _ _ _ => false
  | .sld _ _ _ _ _ => false
  | .sst _ _ _ _ _ => false
  | .satom _ _ _ _ _ => false
  | .trd _ _ _ _ => false
  | .twr _ _ _ _ => false
  | .vprf _ _ _ => false
  | .fence _ _ => false
  | .bari _ _ => false
  | .barv _ _ => false
  | .bard _ => false
  | .barw _ _ => false
  | .bart _ _ => false
  | .qpush _ _ => false
  | .qpop _ _ => false
  | .qpeek _ _ _ => false
  | .qrel _ => false
  | .spawn _ _ => false
  | .spawnDc _ _ _ => false
  | .fget _ _ _ => false
  | .fput _ _ _ => false
  | .dcnew _ _ => false
  | .dcdec _ => false
  | .launch _ => false
  | .evset _ _ => false
  | .evclr _ _ => false
  | .evwait _ _ => false
  | .seqadd _ _ => false
  | .seqwait _ _ => false
  | .tcopy _ _ _ => false
  | .tgath _ _ _ => false
  | .tscat _ _ _ => false
  | .tred _ _ _ => false
  | .tfill _ _ _ => false
  | .nmc _ _ _ => false
  | .rld _ _ _ => false
  | .rst _ _ _ => false
  | .ratom _ _ _ _ => false
  | .cstep _ _ _ => false
  | .cfence _ => false
  | .alw _ _ => false
  | .bralw _ _ => false
  | .cwait _ _ => false
  | .mloop _ _ _ _ => false
  | .mstep _ _ _ _ => false
  | .mfmt _ _ => false
  | .madr _ => false
  | .mcfg _ _ => false
  | .mbatch _ => false
  | .mwait _ => false
  | .mest _ => false
  | .mzero _ => false
  | .mtld _ _ _ => false
  | .mtst _ _ _ => false
  | .mfft _ _ => false
  | .mtwid _ _ => false
  | .retx => true
  | .park => false
  | .idle => false
  | .sev => false
  | .chalt => true
  | .sysr _ _ => true
  | .sysw _ _ => true
  | .tlbinv _ _ => true
  | .wpset _ _ => true
  | .tsave _ => true
  | .trest _ => true
  | .channelSlotRead _ => false
  | .packDispatch _ _ _ => false
  | .priorityAging => false
  | .kennelTimerExpiry _ _ => false
  | .packRetire _ => false
  | .packPark _ => false
  | .packResume _ _ _ => false
  | .allowanceReturn _ _ => false
  | .sliceEnd _ => false
  | .timeout _ => false
  | .laneLoadReply _ _ _ _ => false
  | .laneStorePerformed _ _ _ _ => false
  | .wcbDrain _ _ _ => false
  | .remoteReply _ _ _ _ => false
  | .copySegment _ _ _ => false
  | .engineFaultRetry _ _ => false
  | .engineFaultAbort _ _ => false
  | .engineLeashPush _ _ => false
  | .engineBarrierDelivery _ _ => false
  | .matrixStep _ => false
  | .adapterFillArrival _ _ _ _ => false
  | .creditRefill => false
  | .nmx _ _ _ _ => false
  | .ncas _ _ _ => false
  | .nenq _ _ _ => false
  | .nchase _ _ _ => false
  | .nfill _ _ _ _ => false
  | .cstepPeerOffer _ _ _ _ _ _ _ => false
  | .cstepDataArrival _ _ _ _ => false
  | .cstepAbandonNotice _ _ _ => false
  | .peerRequest _ _ _ _ _ _ _ => false
  | .retryReissue _ => false
  | .requestReissue _ _ => false
  | .portUp _ => false
  | .portDown _ _ => false
  | .peerCapabilities _ _ _ _ _ _ => false
  | .dieLinkLost => false
  | .registerUe _ _ => false
  | .tlbinvAck _ => false
  | .haltMessageArrival _ _ => false
  | .unitStop _ _ => false
  | .haltSettle _ => false
  | .ctxcreate _ _ => false
  | .ctxdestroy _ => false
  | .ctxclear _ => false
  | .hostevSet _ _ _ => false
  | .hostevClear _ _ _ => false
  | .dma _ => false
  | .dmaComplete _ => false
  | .freeze => false
  | .attest _ _ => false
  | .chwrWrite _ _ => false
  | .chstatWrite _ _ => false
  | .chctlWrite _ _ => false
  | .chbaseWrite _ _ => false
  | .evrrdWrite _ => false
  | .certdataRead => false
  | .scandataRead => false
  | .rasCounterWrite _ _ => false
  | .peerEntryWrite _ _ => false
  | .mgmtRegisterWrite _ _ => false
  | .powerLoop _ _ _ _ _ _ => false
  | .powerOverdraw => false
  | .reset _ => false
  | .unassignedEncoding _ => false
  | .dlReplay _ => false

/-! ## Reading registers -/

/-- A v or o register's value in a lane, by its code (R63). -/
def Warp.vreg (w : Warp) (code lane : Nat) : BitVec 32 := Map.get 0 w.v (code * 32 + lane)

/-- A uniform register. -/
def Warp.kreg (w : Warp) (n : Nat) : BitVec 64 := Map.get 0 w.k n

/-- A predicate, one bit a lane. -/
def Warp.preg (w : Warp) (n : Nat) : BitVec 32 := Map.get 0 w.p n

/-- A latch's value in a lane; an empty latch is refused before it is read (R69). -/
def Warp.yreg (w : Warp) (n lane : Nat) : BitVec 32 :=
  match w.latch.getD n none with
  | some m => Map.get 0 m lane
  | none => 0

/-- The signed 6-bit value of an immediate code (R63). -/
def imm6 (c : BitVec 8) : BitVec 32 := (c.extractLsb' 0 6).signExtend 32

/-- The value a source code supplies to a lane of an integer word (R63, R227). -/
def Warp.srcInt (w : Warp) (c : BitVec 8) (lane : Nat) : BitVec 32 :=
  let n := c.toNat
  if n < 0x70 then w.vreg n lane
  else if n < 0x73 then w.yreg (n - 0x70) lane
  else if n = 0x78 then BitVec.ofNat 32 lane
  else if n = 0x7A then w.exec
  else if n = 0x7B then BitVec.ofNat 32 (32 * w.num + lane)
  else if 0x80 ≤ n ∧ n < 0xC0 then (w.kreg (n - 0x80)).extractLsb' 0 32
  else if 0xC0 ≤ n then imm6 c
  else 0

/-- Operand B of an integer or cross-lane word: the sign-extended literal where there is one (R72). -/
def Warp.srcIntB (w : Warp) (lit : Option (BitVec 24)) (c : BitVec 8) (lane : Nat) : BitVec 32 :=
  match lit with
  | some p => p.signExtend 32
  | none => w.srcInt c lane

/-- Operand KB of a uniform word: the sign-extended literal where there is one (R72). -/
def Warp.kregB (w : Warp) (lit : Option (BitVec 24)) (n : BitVec 6) : BitVec 64 :=
  match lit with
  | some p => p.signExtend 64
  | none => w.kreg n.toNat

/-- The lanes of a warp in which a mask has a bit, in ascending order. -/
def lanesOf (m : BitVec 32) : List Nat := (upTo 32).filter (fun i => m.getLsbD i)

/-! ## Writing registers; each write clears the poison tag of the register's lane (R257) -/

def Warp.setV (w : Warp) (code lane : Nat) (x : BitVec 32) : Warp :=
  { w with v := Map.set 0 w.v (code * 32 + lane) x, tags := Map.set false w.tags (code * 32 + lane) false }

def Warp.setK (w : Warp) (n : Nat) (x : BitVec 64) : Warp := { w with k := Map.set 0 w.k n x }

def Warp.setP (w : Warp) (n : Nat) (x : BitVec 32) : Warp := { w with p := Map.set 0 w.p n x }

def Warp.setC (w : Warp) (n : Nat) (x : Bool) : Warp :=
  { w with c := if x then w.c ||| (1#8 <<< n) else w.c &&& ~~~(1#8 <<< n) }

/-- A register of one value a lane, written in the given lanes. -/
def Warp.setLanes (w : Warp) (code : Nat) (vals : List (Nat × BitVec 32)) : Warp :=
  vals.foldl (fun acc p => acc.setV code p.1 p.2) w

/-! ## The budgets (R66) -/

/-- A name at or above the warp's budget, or of a file its role lacks. -/
def Warp.lacks (w : Warp) : Reg → Bool
  | .v code => w.role != .epilogue || (decide (code < 0x60) && decide (vBudget w ≤ code))
  | .k n => decide (kBudget w.kbud ≤ n)
  | .c _ => false
  | .p _ => w.role != .epilogue
  | .y _ => w.role != .epilogue

/-- The role may use the group (R82). -/
def mayUse : Role → Group → Bool
  | _, .control => true
  | .epilogue, .lanes => true
  | .epilogue, .spawning => true
  | .copy, .engines => true
  | .maths, .matrix => true
  | _, _ => false

end Sys2Proof.Machine
end

