-- ==== Sys2Proof/Machine/Ops.lean ====
section
/-! DEFINITION. The operations that every meaning shares: the warp and pack a word acts for, the checks made
before a word takes effect (R67, R82, R83, R192, R257, R308, R416, R417), operations in flight (R129, R130),
blocking (R41), raising the halt line (R375), taking a trap (R359) and returning from one (R364). -/

namespace Sys2Proof.Machine

/-- What a word acts for (R57): its pack and context as they stand, and its warp as it stood before its packet. -/
structure Here where
  pack : Pack
  warp : Warp
  ctx  : Context
  pid  : Nat
  wi   : Nat
  lit  : Option (BitVec 24)
  deriving DecidableEq, Repr

/-- The warp that issues, if there is one: its pack runs and its context exists. -/
def State.here (s : State) : Option Here :=
  match s.pack? s.cur.1 with
  | none => none
  | some p =>
    match p.warps[s.cur.2]?, s.ctx? p.ctx with
    | some _, some x => some { pack := p, warp := s.iss.pre, ctx := x, pid := s.cur.1, wi := s.cur.2, lit := s.iss.lit }
    | _, _ => none

/-- The address of the word that runs, and of the first word after its packet (R200). -/
def State.wordPc (s : State) : BitVec 64 := s.iss.base + BitVec.ofNat 64 (4 * s.iss.ix)
def State.nextPc (s : State) : BitVec 64 := s.iss.base + BitVec.ofNat 64 (4 * s.iss.words)

/-- Change the issuing warp. -/
def State.setCur (s : State) (f : Warp → Warp) : State := s.modWarp s.cur.1 s.cur.2 f

/-- The issuing warp as it stands now. -/
def State.curWarp (s : State) : Option Warp := (s.pack? s.cur.1).bind (fun p => p.warps[s.cur.2]?)

def State.setResult (s : State) (r : WordResult) : State := { s with iss := { s.iss with result := r } }

/-! ## Operations in flight (R129, R130) -/

/-- The counter of a path: its operations not yet known to have completed in order. -/
def Warp.counter (w : Warp) (p : Path) : Nat := (w.flight.filter (fun f => f.path == p)).length

/-- The operations that remain when the run of completed ones at the head of each path has fallen. -/
def dropDone (p : Path) : List Flight → List Flight
  | [] => []
  | f :: fs => if f.path = p then (if f.done then dropDone p fs else f :: fs) else f :: dropDone p fs

/-- Every counter falls as far as its path's oldest operations have completed (R129). -/
def Warp.settleCounters (w : Warp) : Warp :=
  { w with flight := dropDone .fab (dropDone .math (dropDone .copy (dropDone .laneSt (dropDone .laneLd w.flight)))) }

/-- Mark an operation completed. -/
def Warp.finishFlight (w : Warp) (id : Nat) : Warp :=
  Warp.settleCounters { w with flight := w.flight.map (fun f => if f.id = id then { f with done := true } else f) }

/-- The v and o registers, by code and lane, that an operation in flight will write. -/
def flightRegs : FlightKind → List Reg
  | .load d z _ _ _ => vGroup d ((z + 3) / 4)
  | .atomic d _ _ => vGroup d 1
  | .cas d wide _ => vGroup d (if wide then 2 else 1)
  | .uload kd _ => [.k kd.toNat]
  | .tileLoad regs _ => regs.map (fun r => .v (r.1 / 32))
  | .rload kd _ _ _ => [.k kd.toNat]
  | .ratomic kd _ _ _ _ _ => [.k kd.toNat]
  | _ => []

/-- A register a packet names is still to be written (R67); `rst` covers none. -/
def Warp.awaits (w : Warp) (rs : List Reg) : Bool :=
  w.flight.any (fun f => !f.done && (flightRegs f.kind).any (fun r => rs.contains r))

/-- Some memory access of the warp has not been performed (R170): what a release waits for. -/
def Warp.outstanding (w : Warp) : Bool :=
  w.flight.any (fun f => !f.done && match f.kind with | .engine _ => false | _ => true)

/-- An acquire is in flight: what follows it is not performed before it (R170). -/
def Warp.acquiring (w : Warp) : Bool := w.flight.any (fun f => !f.done && f.acquire.isSome)

def Place.peer? : Place → Option Nat
  | .peer p _ => some p
  | _ => none

/-- The bytes of a span. -/
def LaneAcc.places (a : LaneAcc) : List Place := (upTo a.len).map a.place.plus

/-- The bytes of a scale: two for FP16, one for E8M0 (R145). -/
def scaleBytes (v : BitVec 320) : Nat := if viewSfmt v = 2 then 2 else 1

/-- The bytes of the scales and zero points that a span's units use, which its access reads (R145). -/
def LaneAcc.groupPlaces (sw : Nat) (a : LaneAcc) : List Place :=
  a.scales.flatMap (fun x => (upTo sw).map x.2.plus) ++ a.zeros.map (fun x => x.2)

/-- The bytes that an operation touches. -/
def flightPlaces : FlightKind → List Place
  | .load _ _ v accs _ => accs.flatMap (fun a => a.places ++ a.groupPlaces (scaleBytes v))
  | .atomic _ _ ls => ls.flatMap (fun l => l.acc.places)
  | .cas _ _ ls => ls.flatMap (fun l => l.acc.places)
  | .store bs v _ late => bs.map (fun b => b.place) ++ late.flatMap (fun a => a.1.places ++ a.1.groupPlaces (scaleBytes v))
  | .uload _ a => a.places
  | .rload _ p va _ => (upTo 8).map (fun i => .peer p (va + i))
  | .rstore p va _ _ => (upTo 8).map (fun i => .peer p (va + i))
  | .ratomic _ p va _ _ _ => (upTo 8).map (fun i => .peer p (va + i))
  | _ => []

/-! ## Requests to peers (R397, R398) -/

/-- The delivery class of an operation's requests (R184 to R186): atomics, release stores and `rst.rel` take effect
exactly once. -/
def requestClass (k : FlightKind) (rel : Option Scope) : ReqClass :=
  match k with
  | .atomic _ _ _ | .cas _ _ _ | .ratomic _ _ _ _ _ _ => .once
  | .rstore _ _ _ once => if once then .once else .plain
  | _ => if rel.isSome then .once else .plain

/-- The ports that are up and enabled, and whose link reaches a peer. -/
def Mgmt.ports (m : Mgmt) (e : Peer) : List Nat := (upTo 16).filter (fun i => (m.portUp &&& m.portEn &&& e.reach).getLsbD i)

/-- The port that a block's requests take to a peer (R397): the one that they have taken, while it is up, and else one that a hash
picks, which is not architected. -/
def Mgmt.portFor (m : Mgmt) (e : Peer) (va : Nat) : Nat :=
  let ps := m.ports e
  let kept := Map.get 16 e.ports (va / 256)
  if ps.contains kept then kept else ps.getD (Config.freeChoice (va / 256) % max 1 ps.length) 0

/-- A line request joins those of an operation, in ascending order of lines (R127): peer, line and sectors. -/
def addLine (p line sector : Nat) : List (Nat × Nat × Nat) → List (Nat × Nat × Nat)
  | [] => [(p, line, sector)]
  | (q, l, m) :: rest =>
    if q = p ∧ l = line then (q, l, m ||| sector) :: rest
    else if line < l then (p, line, sector) :: (q, l, m) :: rest
    else (q, l, m) :: addLine p line sector rest

/-- The line requests that an operation makes of peers (R127): one for each 128-byte line that its bytes touch. -/
def lineRequests (ps : List Place) : List (Nat × Nat × Nat) :=
  ps.foldl (fun acc p => match p with
    | .peer q va => addLine q (va / 128) (2 ^ (va / 64 % 2)) acc
    | _ => acc) []

/-- The lowest tag that no live entry of a peer's reply cache may hold (R399); a plain request has none. -/
def Peer.freeTag (e : Peer) (cls : ReqClass) (start : Nat) : Nat :=
  if cls = .plain then 0
  else match (upTo (e.tags.length + 1)).find? (fun i => !e.tags.contains ((start + i) % 65536)) with
    | some i => (start + i) % 65536
    | none => 0

/-- Every tag that requests to a peer may carry belongs to an entry that may be live: a request that needs one waits (R399). -/
def Peer.noTag (e : Peer) (cls : ReqClass) : Bool := cls != .plain && decide (65536 ≤ e.tags.length)

/-- This part's index in a peer's table: what the peer has chosen for it. -/
def srcIndex (p : Nat) : Nat := Config.freeChoice (2 ^ 60 + p) % 1024

/-- Send a request (R398, R399): its header carries the context's FCTX, a tag for the classes that take one, and the stored mode of each block that it carries, raw
where none is given; it
retires the tags whose replies this part holds. -/
def State.sendRequest (s : State) (owner : Requester) (flight : Nat) (fctx : BitVec 12) (cls : ReqClass) (p va len mask : Nat)
    (modes : List (BitVec 4) := []) : State :=
  let e := s.peer p
  let tag := e.freeTag cls s.reqSeq
  let port := s.mgmt.portFor e va
  let r : Request := { id := s.reqSeq, peer := p, src := srcIndex p, fctx := fctx, tag := tag, cls := cls,
                       cmode := if modes = [] then List.replicate ((va + len + 255) / 256 - va / 256) 0 else modes, port := port, va := va, len := len, mask := mask,
                       tries := 0, owner := owner, flight := flight, retire := e.retire }
  let e1 : Peer := { e with
    ports := Map.set 16 e.ports (va / 256) port
    tags := if cls = .plain then e.tags else e.tags ++ [tag]
    retire := [] }
  { s with reqSeq := s.reqSeq + 1, requests := s.requests ++ [r] }.setPeer p e1

/-- An operation's line requests, in ascending order (R127). -/
def State.sendRequests (s : State) (owner : Requester) (flight : Nat) (fctx : BitVec 12) (cls : ReqClass) (ps : List Place) : State :=
  (lineRequests ps).foldl (fun t r => t.sendRequest owner flight fctx cls r.1 (r.2.1 * 128) 128 r.2.2) s

/-- The request at place `i` of those that a reply ends has been answered: the loss of its peer is no answer (R397). -/
def answeredBy (reply : RemoteReply) (i : Nat) : Bool :=
  match reply with
  | .lost => false
  | .lines _ st => st.getD i .ok != .lost
  | _ => true

/-- Requests that are selected end (R399): an answered one frees its retired tags, and its own tag can be retired, its reply being
held. The tags of others may still be live. -/
def State.closeRequests (s : State) (answered : Nat → Bool) (sel : Request → Bool) : State :=
  (s.requests.filter sel).zipIdx.foldl (fun t ri =>
    let r := ri.1
    let e := t.peer r.peer
    if answered ri.2 then t.setPeer r.peer { e with
      tags := e.tags.filter (fun g => !r.retire.contains g)
      retire := if r.cls = .plain then e.retire else e.retire ++ [r.tag] } else t)
    { s with requests := s.requests.filter (fun r => !sel r) }

/-- Every tag for a request of an operation may be live (R399). -/
def State.tagsOut (s : State) (kind : FlightKind) (rel : Option Scope) : Bool :=
  (flightPlaces kind).any (fun p => match p with
    | .peer q _ => (s.peer q).noTag (requestClass kind rel)
    | _ => false)

/-- An operation whose value a later load of the warp can take from the operation itself. -/
def forwards : FlightKind → Bool
  | .store _ _ _ [] => true
  | _ => false

def isLoad : FlightKind → Bool
  | .load _ _ _ _ _ => true
  | .uload _ _ => true
  | _ => false

/-- The operation may be performed now: a release waits for every earlier access of its warp, every access for an earlier
acquire, and an access for earlier ones of its warp that touch its bytes, but for a plain load that takes the bytes of an earlier
store. An acquire takes no bytes that are not at their home yet (R174). -/
def Warp.mayPerform (w : Warp) (f : Flight) : Bool :=
  w.flight.all (fun g =>
    g.done || decide (f.id ≤ g.id) || (match g.kind with | .engine _ => true | _ => false) ||
    (f.release.isNone && g.acquire.isNone &&
      ((isLoad f.kind && f.acquire.isNone && forwards g.kind) ||
        !(flightPlaces f.kind).any (fun p => (flightPlaces g.kind).contains p))))

/-- The operation's requests to peers may be sent: its order lets it be performed (R166, R170, R186), and no earlier access of its warp
to one of those bytes waits for an answer, so a target performs them in program order, repeats among them (R184, R185). -/
def Warp.maySend (w : Warp) (f : Flight) : Bool :=
  w.mayPerform f && w.flight.all (fun g => g.done || decide (f.id ≤ g.id) || !(flightPlaces f.kind).any (fun p => match p with
    | .peer _ _ => (flightPlaces g.kind).contains p
    | _ => false))

/-- A request of a warp's operation. -/
def Request.isOf (r : Request) (pid wi id : Nat) : Bool := r.owner == .warp pid wi && r.flight == id

/-- An operation asks peers, and its requests have not been sent. -/
def State.unsent (s : State) (pid wi : Nat) (f : Flight) : Bool :=
  !(lineRequests (flightPlaces f.kind)).isEmpty && !s.requests.any (fun r => r.isOf pid wi f.id)

/-- What a `waits` list names is still to complete. -/
def State.uncompleted (s : State) (core pid wi id : Nat) : Bool :=
  if id % 2 = 0 then
    let k := s.core core
    k.copies.any (fun c => c.tag == id / 2) || k.nmcs.any (fun c => c.tag == id / 2) ||
      s.colls.any (fun c => c.core == core && c.tag == id / 2)
  else
    match s.pack? pid with
    | some p => p.warps[wi]?.any (fun w => w.flight.any (fun f => f.id == id / 2 && !f.done))
    | none => false

/-- A peer whose outstanding requests have no answer to come: it is LOST, or its entry is not valid any more (R397). -/
def Peer.gone (e : Peer) : Bool := peerState e == 3 || !peerValid e

/-- Every peer that an operation has bytes at has no answer to come; an operation with others beside is answered line by line. -/
def State.peersGone (s : State) (k : FlightKind) : Bool :=
  let ps := (flightPlaces k).filterMap Place.peer?
  !ps.isEmpty && ps.all (fun q => (s.peer q).gone)

/-- Send an operation's requests once they may be and what it waits for has completed: until then it waits. -/
def State.sendFlight (s : State) (pid wi : Nat) (x : Context) (w : Warp) (f : Flight) : State :=
  let waits := (s.pack? pid).any (fun p => f.waits.any (s.uncompleted p.core pid wi))
  if w.maySend f = false ∨ s.tagsOut f.kind f.release = true ∨ waits = true then s else
  s.sendRequests (.warp pid wi) f.id (BitVec.ofNat 12 (descFctx x.desc)) (requestClass f.kind f.release) (flightPlaces f.kind)

/-- Issue a counted operation; a counter that stands at 255 holds the packet, the words before this one among its words (R129). What a
write-combining buffer holds is not sent yet. -/
def State.issueFlight (s : State) (h : Here) (path : Path) (kind : FlightKind) (acq rel : Option Scope)
    (wcb : Bool) (waits : List Nat := []) : Res State :=
  let w := s.curWarp.getD h.warp
  if 255 ≤ w.counter path then .error .hold
  else
    let f : Flight := { id := s.flightSeq, path := path, kind := kind, pc := s.wordPc, epoch := h.ctx.epoch,
                        acquire := acq, release := rel, inWcb := wcb, waits := waits, done := false,
                        gen := (s.core h.pack.core).l1Gen }
    let s1 := if wcb then s else s.sendFlight h.pid h.wi h.ctx w f
    .ok ({ s1 with flightSeq := s.flightSeq + 1 }.setCur (fun w => { w with flight := w.flight ++ [f] }))

/-- An operation completes, and its requests with it. -/
def State.finish (s : State) (pid wi id : Nat) (reply : RemoteReply := .none) : State :=
  (s.closeRequests (answeredBy reply) (fun r => r.isOf pid wi id)).modWarp pid wi (fun w => w.finishFlight id)

/-- A reply comes to an operation: one whose requests have not been sent sends them (no data), or ends with its lost peers; no other
reply can come to it. -/
def State.whenSent (s : State) (pid wi : Nat) (x : Context) (w : Warp) (f : Flight) (reply : RemoteReply) (body : State) : State :=
  if s.unsent pid wi f = false ∨ (reply = .lost ∧ s.peersGone f.kind = true) then body
  else if reply = .none then s.sendFlight pid wi x w f
  else s

/-! ## The order of a warp's commands (R316) -/

/-- A command of tag `t` is waited for as `2 t`, an operation in flight of identity `f` as `2 f + 1`. -/
def tagId (t : Nat) : Nat := 2 * t
def flightId (f : Nat) : Nat := 2 * f + 1

/-- The commands of kind `bit` that a warp issues now wait for these (R316). -/
def Warp.fenced (w : Warp) (bit : Nat) : List Nat :=
  (w.cfences.filter (fun c => c.1.getLsbD bit)).flatMap (fun c => c.2)

/-! ## The halt line (R375) -/

/-- The units that a halt of a context stops (R376, R378): KIND and place of each. -/
def State.haltUnits (s : State) (c : Nat) (die : Nat) : List HaltUnit :=
  let mk (kind place : Nat) : HaltUnit := { kind := kind, place := place }
  let homes := (s.packs.filter (fun p => p.ctx == c && p.status == .running)).map (fun p => p.core)
  let ports := homes.eraseDups.map (mk 0)
  let copies := (s.cores.filter (fun k => k.2.copies.any (fun x => x.ctx == c))).map (fun k => mk 1 k.1)
  let mats := (s.cores.filter (fun k => k.2.mats.any (fun x => x.ctx == c))).map (fun k => mk 2 k.1)
  let colls := ([0, 1].filter (fun d => s.colls.any (fun x => x.ctx == c && x.die == d))).map (mk 3)
  ports ++ copies ++ mats ++ colls ++ [mk 4 0, mk 4 1, mk 5 die]

/-- Raise the halt line of a context; a raise while a halt is under way is only recorded (R375). -/
def State.raiseHalt (s : State) (c : Nat) (r : RaiseRec) : State :=
  s.modCtx c (fun x => match x.halt with
    | .clear => { x with halt := .raised (s.haltUnits c (dieOf r.core)) [r] }
    | .raised us rs => { x with halt := .raised us (rs ++ [r]) }
    | .halted => x)

/-- The record of a raise by a warp whose restart address is `xpc` (R379). -/
def raiseRec (p : Pack) (w : Warp) (src : HaltSource) (code : Nat) (xpc : BitVec 64) : RaiseRec :=
  { source := src, core := p.core, pack := p.slot, role := w.role, warp := w.num, cause := BitVec.ofNat 6 code,
    xpc := xpc, kind := 0 }

/-! ## Taking a trap (R359) -/

/-- XINFO in packet form carries the packet's word count and the index of the word (R361); in origin form it
stands as given. -/
def State.fullInfo (s : State) (xinfo : BitVec 64) : BitVec 64 :=
  if xinfo.getLsbD 63 then xinfo else xinfo ||| BitVec.ofNat 64 (4 * (s.iss.words % 4) + s.iss.ix % 4)

/-- XINFO in origin form, naming the instruction at `pc` (R361). -/
def originInfo (pc : BitVec 64) : BitVec 64 := BitVec.ofNat 64 (2 ^ 63 + pc.toNat / 4 % 2 ^ 55 * 4)

/-- The registers a trap writes (R359, R361). -/
def Warp.recordTrap (w : Warp) (c : Cause) (xpc xaddr xinfo : BitVec 64) (pend : Bool) : Warp :=
  { w with xpc := xpc, xaddr := xaddr, xinfo := xinfo, skipWatch := false,
           xcause := BitVec.ofNat 64 (causeCode c + (if pend then 2 ^ 16 else 0)) }

/-- What the trap table holds for a cause (R357): no handler to enter, an entry that halts the context because it
cannot be read or names a misaligned address, or a handler's address. -/
inductive Handler where
  | none | bad | at (pc : BitVec 64)
  deriving DecidableEq, Repr

/-- The entry of a cause in the context's trap table (R357). -/
def State.handler (s : State) (x : Context) (c : Cause) : Except Nat Handler :=
  match s.partRead x (descTraps x.desc + 16 * causeCode c) 16 with
  | .error (.absent pa) => .error pa
  | .error _ => .ok .bad
  | .ok bs =>
    let hpc := leNat (bs.take 8)
    if hpc = 0 ∨ leNat (bs.drop 8) % 2 = 1 then .ok .none
    else if hpc % 4 ≠ 0 then .ok .bad else .ok (.at (BitVec.ofNat 64 hpc))

/-- Take a cause in warp `wi` of pack `pid` (R359). `w` is the warp as it restarts; `xpc` the restart address. -/
def State.takeTrap (s : State) (pid wi : Nat) (w : Warp) (c : Cause) (xpc xaddr xinfo : BitVec 64) (pend : Bool) :
    Except Nat State :=
  match s.pack? pid with
  | none => .ok s
  | some p =>
    match s.ctx? p.ctx with
    | none => .ok s
    | some x => do
      let hd ← s.handler x c
      if c = .slice ∧ hd = .none then .ok s else
      let w0 := { w with latch := [], block := none, launchRead := none, midPair := none }
      if w.level = .supervisor then
        .ok ((s.modWarp pid wi (fun _ => { w0 with preHeld := true })).raiseHalt p.ctx
          (raiseRec p w .superCause (causeCode c) xpc))
      else
        let w1 := w0.recordTrap c xpc xaddr xinfo pend
        match hd with
        | .none | .bad =>
          .ok ((s.modWarp pid wi (fun _ => { w1 with preHeld := true })).raiseHalt p.ctx
            (raiseRec p w1 .cause (causeCode c) xpc))
        | .at hpc => .ok (s.modWarp pid wi (fun _ => { w1 with level := .supervisor, pc := hpc }))

/-- Return from a trap (R364): the level and the pc are restored and every latch is empty. A bad XPC halts the
context. -/
def State.returnTrap (s : State) (h : Here) : State :=
  let w := h.warp
  let bad := if w.xpc.toNat % 4 ≠ 0 then some Cause.misalign
             else if canonical w.xpc.toNat then none else some Cause.xlate
  match bad with
  | some c => (s.setCur (fun v => { v with preHeld := true })).raiseHalt h.pack.ctx
      (raiseRec h.pack w .superCause (causeCode c) s.iss.restart)
  | none => s.setCur (fun v => { v with
      level := .user, pc := w.xpc, latch := [],
      skipWatch := w.xcause.getLsbD 17, xcause := v.xcause &&& ~~~(1#64 <<< 17) })

/-! ## Blocking (R41) -/

/-- A requester joins the end of a peer's queue once (R42). -/
def State.joinQueue (s : State) (p : Nat) (r : Requester) (units : Nat) : State :=
  let e := s.peer p
  if e.queue.any (fun q => q.1 == r) ∨ e.reserved.any (fun q => q.1 == r) = true then s
  else s.setPeer p { e with queue := e.queue ++ [(r, units)] }

/-- The issuing warp blocks; a warp that is blocked already for the same reason keeps its time (R43). -/
def State.blockCur (s : State) (w : Warp) (why : BlockWhy) : State :=
  let b : Block := match w.block with
    | some b => if b.why = why then b else { why := why, since := s.cycle, sat := false }
    | none => { why := why, since := s.cycle, sat := false }
  let s1 := s.setCur (fun _ => { w with block := some b })
  match why with
  | .heel p units => s1.joinQueue p (.warp s.cur.1 s.cur.2) units
  | _ => s1

/-! ## What raises a fault held pending -/

/-- The word is a release of some kind (R170, R177, R187, R188, R263, R269, R274, R276, R307, R365, R369). -/
def isRelease : Instr → Bool
  | .fence kind _ => kind != 1
  | .vst sem _ _ _ _ | .vstm sem _ _ _ _ | .sst sem _ _ _ _ => sem == 1
  | .vatom sem _ _ _ _ | .satom sem _ _ _ _ | .vcas sem _ _ _ _ => sem == 1
  | .barv _ _ | .bard _ | .qpush _ _ | .qrel _ | .dcdec _ | .evset _ _ | .seqadd _ _ | .fput _ _ _ => true
  | .launch _ | .spawn _ _ | .spawnDc _ _ _ | .sev | .tlbinv _ _ => true
  | .tcopy _ _ _ | .tgath _ _ _ | .tscat _ _ _ | .tred _ _ _ | .tfill _ _ _ | .cstep _ _ _ => true
  | .mloop _ _ _ _ | .mstep _ _ _ _ | .mtld _ _ _ | .mtst _ _ _ | .mzero _ | .mfft _ _ | .mtwid _ _ => true
  | .rst _ _ rel => rel == 1
  | .ratom _ _ _ _ => true
  | _ => false

/-- A word raises a fault held pending (R192, R308, R339, R371, R417); `mwait` raises its own once it is satisfied (R341). -/
def trips (i : Instr) (lit : Option (BitVec 24)) (w : Warp) (f : PendFault) : Bool :=
  f.onAny ||
  (f.onRelease && isRelease i) ||
  (reads lit i ++ writes i).any (fun r => match r with
    | .v c => f.regs.any (fun x => x / 32 == c)
    | .k n => f.kreg.any (fun x => x.toNat == n)
    | _ => false) ||
  (match i with
   | .waitc ka fn => f.waitPath == some (pathOf fn.toNat) &&
      (match f.mathNo with | some n => decide (n + (w.kreg ka.toNat).toNat ≤ w.mathSeq) | none => true)
   | _ => false)

/-- Raise a fault that is held pending: XINFO names the instruction it came from. -/
def raisePending {α : Type} (f : PendFault) : Res α := .error (.raise f.cause f.addr (originInfo f.pc) true)

/-- A store of the warp stands in the write-combining buffer and must be translated again (R192). -/
def Here.staleStore (h : Here) : Bool :=
  h.warp.flight.any (fun f => f.inWcb && !f.done && f.epoch != h.ctx.epoch && (match f.kind with | .store _ _ _ _ => true | _ => false))

/-- A packet that would retire its warp, or that is a release, waits for a store that must be translated again, whose fault it
would raise (R192). -/
def Here.staleHold (h : Here) : Res Unit := if h.staleStore then .error .hold else .ok ()

/-- A packet that would retire its warp raises the oldest fault held pending (R416). -/
def retireCheck (h : Here) : Res Unit := do
  h.staleHold
  match h.warp.pending with
  | f :: _ => raisePending f
  | [] => .ok ()

/-! ## Checks before a word takes effect -/

/-- The source lane of `vshfl` by mode (R243): from a lane and its b. -/
def pickIdx (_ b : Nat) : Int := ((b % 32 : Nat) : Int)
def pickUp (i b : Nat) : Int := (i : Int) - b
def pickDown (i b : Nat) : Int := (i : Int) + b
def pickXor (i b : Nat) : Int := ((i ^^^ (b % 32) : Nat) : Int)

/-- The lane whose a `vshfl` gives lane `l`: its own where the mode's lies outside 0 to 31 (R243). -/
def Warp.shuffleLane (w : Warp) (lit : Option (BitVec 24)) (pick : Nat → Nat → Int) (b : BitVec 8) (l : Nat) : Nat :=
  let t := pick l (w.srcIntB lit b l).toNat
  if 0 ≤ t ∧ t ≤ 31 then t.toNat else l

/-- The lane whose b `vbcast` takes, and the lane whose a it gives (R244). -/
def Warp.firstLane (w : Warp) : Nat := (lanesOf w.exec).headD 0
def Warp.bcastLane (w : Warp) (lit : Option (BitVec 24)) (b : BitVec 8) : Nat := (w.srcIntB lit b w.firstLane).toNat % 32

/-- A word reads vector register `c` in lane `l`: where the lane is active, except in the cross-lane words whose entries name other
lanes (R226, R242 to R244); a lane of `vstm` with no byte enabled counts as inactive, once its mask is read (R250). -/
def laneReads (i : Instr) (lit : Option (BitVec 24)) (w : Warp) (c l : Nat) : Bool :=
  let active := w.exec.getLsbD l
  let shuffled (pick : Nat → Nat → Int) (a b : BitVec 8) : Bool :=
    (a.toNat == c && (lanesOf w.exec).any (fun m => w.shuffleLane lit pick b m == l)) || (b.toNat == c && lit.isNone && active)
  match i with
  | .vshflIdx _ _ a b => shuffled pickIdx a b
  | .vshflUp _ _ a b => shuffled pickUp a b
  | .vshflDown _ _ a b => shuffled pickDown a b
  | .vshflXor _ _ a b => shuffled pickXor a b
  | .vbcast _ _ a b => w.exec != 0 && ((a.toNat == c && w.bcastLane lit b == l) || (b.toNat == c && lit.isNone && w.firstLane == l))
  | .vstm _ data _ _ size =>
    let m := data.toNat + sizeRegs size
    active && (c == m || (w.vreg m l).toNat % 2 ^ (2 ^ size.toNat) != 0)
  | _ => active

/-- The first tagged register that a word reads, with its origin (R257). Which load is reported where a word reads registers that
several loads have tagged is not stated: the first in the order of `reads` (log entry 18). -/
def poisonedRead (i : Instr) (lit : Option (BitVec 24)) (w : Warp) : Option TagOrigin :=
  (reads lit i).findSome? (fun r => match r with
    | .v c => if (upTo 32).any (fun l => Map.get false w.tags (c * 32 + l) && laneReads i lit w c l) then some (Map.get {} w.origins c) else none
    | _ => none)

/-- The checks of R83 on one word: literal, role, level and budget. -/
def decodeCheck (i : Instr) (lit : Option (BitVec 24)) (w : Warp) : Option (Nat × Cause) :=
  let roleSpecial := match i with
    | .usr _ idx | .uws _ idx => (idx == 0x010 || idx == 0x011) && w.role != .epilogue
    | _ => false
  let litBad := match i, lit with
    | .bralw _ _, none => true
    | .evset _ _, some p | .evclr _ _, some p | .evwait _ _, some p => p.toNat / 256 != 0 || !litFieldZero i
    | _, some _ => !takesLit i || !litFieldZero i
    | _, none => false
  let supervisorOnly := privileged i || (match i with
    | .usr _ idx => decide (0x020 ≤ idx.toNat)
    | .uws _ idx => decide (0x020 ≤ idx.toNat) || idx == 0x008 || idx == 0x012 || idx == 0x013
    | _ => false)
  if !wf i || litBad || roleSpecial then some (1, .illegal)
  else if !mayUse w.role (group i) then some (2, .role)
  else if supervisorOnly && w.level == .user then some (3, .priv)
  else if (reads lit i ++ writes i).any w.lacks then some (6, .regrange)
  else none

/-- The fault held pending that a word raises: where it raises any, the oldest of all is reported (R308, R416, R417). -/
def raisedPending (i : Instr) (lit : Option (BitVec 24)) (w : Warp) : Option PendFault :=
  if w.pending.any (trips i lit w) then w.pending.head? else none

/-- Everything that can keep a word from taking effect before its own rule speaks, in order: decode (R83), a
fault held pending, the scoreboard (R67), an acquire in flight (R170), the wait of a `tlbinv` (R369), and a tagged source
(R257). -/
def wordCheck (i : Instr) (h : Here) : Res Unit :=
  let w := h.warp
  match decodeCheck i h.lit w with
  | some (_, c) => raise0 c
  | none =>
    match raisedPending i h.lit w with
    | some f => raisePending f
    | none =>
      if w.awaits (reads h.lit i ++ writes i) || w.acquiring ||
          (match w.ackWait with | some e => decide (h.ctx.ackEpoch < e) | none => false) then .error .hold
      else match poisonedRead i h.lit w with
        | some o => .error (.raise .poison o.addr (originInfo o.pc) false)
        | none => .ok ()

/-! ## Running a word -/

/-- Ask peers for the packet that a `launch` reads from `va` (R280); the warp stands as before its packet, and the word runs again
when they have answered. -/
def State.askPeers (s : State) (va : Nat) (ps : List Place) : State :=
  match s.here with
  | none => s
  | some h =>
    ({ s.sendRequests (.warp h.pid h.wi) s.flightSeq (BitVec.ofNat 12 (descFctx h.ctx.desc)) .plain ps with
        flightSeq := s.flightSeq + 1 }).setCur
      (fun _ => { s.iss.pre with launchRead := some { va := va, id := s.flightSeq, reply := none } })

/-- What becomes of a word that did not take effect (R58, R41, R67): the warp stands as before its packet. -/
def State.stop (s : State) : Stop → Host.Outcome State Fault Refusal
  | .raise c xaddr xinfo pend =>
    let w := if pend then { s.iss.pre with pending := [] } else s.iss.pre
    match s.takeTrap s.cur.1 s.cur.2 w c s.iss.restart xaddr (s.fullInfo xinfo) pend with
    | .ok t => .next (t.setResult .raised)
    | .error pa => .fault (.absentAddress pa)
  | .struck ps xaddr xinfo =>
    let t := s.detect ps
    match t.takeTrap s.cur.1 s.cur.2 s.iss.pre .poison s.iss.restart xaddr (s.fullInfo xinfo) false with
    | .ok u => .next (u.setResult .raised)
    | .error pa => .fault (.absentAddress pa)
  | .block why => .next ((s.blockCur s.iss.pre why).setResult .blocked)
  | .hold => .next ((s.setCur (fun _ => s.iss.pre)).setResult .held)
  | .await va ps => .next ((s.askPeers va ps).setResult .held)
  | .absent pa => .fault (.absentAddress pa)

/-- The outcome of a word. -/
def State.settle (s : State) : Res State → Host.Outcome State Fault Refusal
  | .ok t => .next (t.setResult .done)
  | .error e => s.stop e

/-- Run the meaning `body` of word `i` for the issuing warp, after the checks that every word shares. With no
warp to issue, nothing happens. -/
def runWord (i : Instr) (s : State) (body : Here → Res State) : Host.Outcome State Fault Refusal :=
  match s.here with
  | none => .next s
  | some h => s.settle (do wordCheck i h; body h)

/-- Write the result of a word into the issuing warp. -/
def done (s : State) (f : Warp → Warp) : Res State := .ok (s.setCur f)

/-- A vector result (R68, R226, R229): written to the destination's register in the active lanes when W = 1, and
to the word's latch. -/
def State.vecResult (s : State) (w : BitVec 1) (d : BitVec 7) (vals : List (Nat × BitVec 32)) : State :=
  let s1 := if w = 1 then s.setCur (fun u => u.setLanes d.toNat vals) else s
  { s1 with iss := { s1.iss with latch := s1.iss.latch.set s1.iss.ix (some (Map.setAll 0 [] vals)) } }

/-- A free value (what the manual leaves open): the next of the choices no rule gives, below `n`. -/
def State.choose (s : State) (n : Nat) : Nat × State :=
  (Config.freeChoice s.fresh % n, { s with fresh := s.fresh + 1 })

end Sys2Proof.Machine
end

