-- ==== Sys2Proof/Machine/Packet.lean ====
section
/-! DEFINITION. Packets: fetching one (R55, R135, R200), the decoder's checks over its words in the order of R83
(R56, R59, R60, R72, R73), the rules of `rep` (R74, R76) and of latched pairs (R69, R261). -/

namespace Sys2Proof.Machine

/-! ## Fetch -/

/-- The instruction word at an address of a context (R55, R135). Poison is raised by its consumer (R151). -/
def State.fetchWord (s : State) (x : Context) (va : Nat) : Res (BitVec 32) :=
  if va % 4 ≠ 0 then raiseAt .misalign va else do
  let (_, p) ← s.translate x .fetch va
  match p with
  | .dram pa =>
    if s.badPlace p then s.raisePoison [p] va 0
    else .ok (bytesWord (bytesAt s.dram.read pa 4))
  | _ => raiseAt .prot va

/-- Words of a packet from `va`: as long as words are chained, at most `n`, and not past the quad (R55, R56). -/
def State.fetchChain (s : State) (x : Context) (va : Nat) : Nat → Res (List (BitVec 32))
  | 0 => .ok []
  | n + 1 => do
    let w ← s.fetchWord x va
    if w.getLsbD 31 && va % 16 != 12 then
      let rest ← s.fetchChain x (va + 4) n
      .ok (w :: rest)
    else .ok [w]

/-- The fetch of `n` words finds the errors of the granules that hold them, and of the tables that a walk has read (R392). -/
def State.fetched (s : State) (x : Context) (va n : Nat) : State :=
  if s.strikes.isEmpty then s else
  (upTo n).foldl (fun t i => match t.translate x .fetch (va + 4 * i) with
    | .ok (_, p) => (t.walked x (va + 4 * i)).detect [p]
    | .error _ => t) s

/-! ## The words of a packet -/

/-- A word with what it holds and the literal before it. -/
structure PWord where
  word  : BitVec 32
  instr : Option Instr
  lit   : Option (BitVec 24)
  deriving DecidableEq, Repr

/-- Words that take no literal because a `lit` before them is a fault of placement (R72). -/
def placedAfterLit : Option Instr → Bool
  | some (.lit _) | some (.rep _ _ _ _ _ _) | some .nop => true
  | _ => false

/-- The words of a packet, each with the literal before it. -/
def formWords : Option (BitVec 24) → List (BitVec 32) → List PWord
  | _, [] => []
  | lit, w :: ws =>
    let i := decode w
    let mine := if placedAfterLit i then none else lit
    { word := w, instr := i, lit := mine } :: formWords (match i with | some (.lit p) => some p | _ => none) ws

/-- The instruction a word runs: an undecodable word runs as an unassigned encoding (R9, R83). -/
def PWord.run (p : PWord) : Instr := p.instr.getD (.unassignedEncoding p.word)

/-- The first index whose word meets a test. -/
def firstIx (p : Nat → PWord → Option Nat) : Nat → List PWord → Option Nat
  | _, [] => none
  | i, w :: ws => match p i w with | some j => some j | none => firstIx p (i + 1) ws

/-- Order 1 of R83: the index of a word that is no instruction, or whose literal is not allowed (reported at the
`lit`, R72). -/
def illegalAt (w : Warp) (i : Nat) (p : PWord) : Option Nat :=
  match p.instr with
  | none => some i
  | some ins =>
    if p.lit.isSome && !takesLit ins then some (i - 1)
    else match decodeCheck ins p.lit w with
      | some (1, _) => some i
      | _ => none

/-- Orders 2, 3 and 6 of R83 on one word. -/
def failsAt (order : Nat) (w : Warp) (i : Nat) (p : PWord) : Option Nat :=
  match decodeCheck p.run p.lit w with
  | some (k, _) => if k = order then some i else none
  | none => none

/-- Two words of one class (R59): three for the FMA pipes. -/
def classClash (ws : List PWord) (i : Nat) : Bool :=
  let c := pipeClass (ws.getD i { word := 0, instr := none, lit := none }).run
  let n := ((ws.take i).filter (fun p => pipeClass p.run == c)).length
  match c with
  | .empty | .px => false
  | .fma => decide (2 ≤ n)
  | .sy => decide (1 < ws.length)
  | _ => decide (1 ≤ n)

/-- Order 4 of R83 at word `i`: placement of `lit` and `rep` (R72, R73), classes (R59, R60), and two writes of one
register. -/
def badpackAt (w : Warp) (ws : List PWord) (i : Nat) (p : PWord) : Option Nat :=
  let before := ws.take i
  let litBad := match p.run with
    | .lit _ => match ws[i + 1]? with | none => true | some q => placedAfterLit q.instr
    | .rep _ _ _ _ _ _ => !(i == 0 && ws.length == 2)
    | _ => false
  let both := w.role == .epilogue &&
    ((pipeClass p.run == .br && before.any (fun q => pipeClass q.run == .un)) ||
     (pipeClass p.run == .un && before.any (fun q => pipeClass q.run == .br)))
  let twice := (writes p.run).any (fun r => before.any (fun q => (writes q.run).contains r))
  if litBad || classClash ws i || both || twice then some i else none

/-- R56: the index of the chained word that leaves the quad, or that a fourth word follows. -/
def tooLong (base : Nat) (ws : List PWord) : Option Nat :=
  let last := ws.length - 1
  match ws.getLast? with
  | some p => if p.word.getLsbD 31 && (ws.length == 3 || (base + 4 * last) % 16 == 12) then some last else none
  | none => none

/-! ## Latched pairs (R69) -/

def latchReads (p : PWord) : List Nat :=
  (reads p.lit p.run).filterMap (fun r => match r with | .y n => some n | _ => none)

/-- The packet reads a latch: it is a consumer. -/
def isConsumer (ws : List PWord) : Bool := ws.any (fun p => !(latchReads p).isEmpty)

/-- A word that no producer may hold (R69 item 2, R261). -/
def unproductive (i : Instr) : Bool :=
  match i with
  | .vatom _ _ _ _ _ | .satom _ _ _ _ _ | .vcas _ _ _ _ _ | .fget _ _ _ | .fput _ _ _ | .bralw _ _ => true
  | .alw _ _ => false
  | _ => match pipeClass i with | .en | .px | .br => true | _ => false

/-- What the packet issued just before leaves for its consumer: its words and its latches. -/
structure Producer where
  words : List PWord
  latch : List (Option (Map (BitVec 32)))

/-- Order 5 of R83: the index of the word that breaks R69; with no producer every latch is empty. Where the fault lies in the producer,
or in the consumer's being a `rep` packet (items 2, 3, 5 and 6), the manual does not say which word's index XINFO gives: here it is
the first word that reads a latch (log entry 96). -/
def badpairAt (pr : Option Producer) (ws : List PWord) : Option Nat :=
  if !isConsumer ws then none else
  let firstReader := firstIx (fun i p => if (latchReads p).isEmpty then none else some i) 0 ws
  match pr with
  | none => firstReader
  | some q =>
    let qw := q.words.flatMap (fun p => writes p.run)
    let qr := q.words.flatMap (fun p => reads p.lit p.run)
    if q.words.any (fun p => unproductive p.run) || qw.any (fun r => qr.contains r) || isConsumer q.words ||
        ws.any (fun p => pipeClass p.run == .px && (match p.run with | .rep _ _ _ _ _ _ => true | _ => false)) then
      firstReader
    else
      firstIx (fun i p =>
        let empty := (latchReads p).any (fun n => (q.latch.getD n none).isNone)
        let meets := (reads p.lit p.run ++ writes p.run).any (fun r => qw.contains r)
        let sf := pipeClass p.run == .sf && q.words.any (fun x => pipeClass x.run == .sf)
        let red := pipeClass p.run == .ls &&
          q.words.any (fun x => match x.run with | .vred _ _ _ _ | .vscan _ _ _ _ => true | _ => false)
        if empty || meets || sf || red then some i else none) 0 ws

/-! ## `rep` (R74 to R76) -/

/-- A field that a `rep` steps: the position of its lowest bit, the file (v 0, o 1, k 2), the number it names, and the
size of the group it names. -/
structure Stepped where
  lo    : Nat
  file  : Nat
  base  : Nat
  regs  : Nat
  group : Nat
  deriving DecidableEq, Repr

/-- The register a source code names, as a stepped field. -/
def stepSrc (lo : Nat) (c : Nat) (g : Nat) : Option Stepped :=
  if c < 0x60 then some { lo := lo, file := 0, base := c, regs := g, group := g }
  else if c < 0x70 then some { lo := lo, file := 1, base := c - 0x60, regs := g, group := g }
  else if 0x80 ≤ c ∧ c < 0xC0 then some { lo := lo, file := 2, base := c - 0x80, regs := 1, group := 1 }
  else none

/-- The number of data registers an M-format word names, and the size of the aligned group (R74, R246, R252). -/
def dataRegs : Instr → Nat × Nat
  | .vld _ _ _ _ z | .vst _ _ _ _ z | .sld _ _ _ _ z | .sst _ _ _ _ z => (sizeRegs z, sizeRegs z)
  | .vstm _ _ _ _ z => (sizeRegs z + 1, sizeRegs z)
  | .trd _ _ _ z | .twr _ _ _ z => (sizeRegs z, sizeRegs z)
  | .vcas _ _ _ _ wide => if wide = 1 then (4, 4) else (2, 2)
  | .fget _ _ _ | .fput _ _ _ => (2, 2)
  | _ => (1, 1)

/-- The V-format words whose D names a third source, written or not (R228, R235, R241). -/
def accumulates : Instr → Bool
  | .vmad _ _ _ _ | .vfsh _ _ _ _ | .vbfi _ _ _ _ | .vsel _ _ _ _ | .vfma _ _ _ _ | .vhfma2 _ _ _ _
  | .vcbq _ _ _ _ => true
  | _ => false

/-- The D, KD or data field names a register (R74). -/
def stepD (i : Instr) (w : Nat) : Option Stepped :=
  let code := w / 2 ^ 16 % 128
  match format i, i with
  | .v, .vcmp _ _ _ _ | .v, .vfcmp _ _ _ _ | .v, .vmp _ _ | .v, .vcbld _ => none
  | .v, .vfma2 _ _ _ _ => stepSrc 16 code 2
  | .v, _ => if w / 2 ^ 23 % 2 = 1 ∨ accumulates i = true then stepSrc 16 code 1 else none
  | .m, .vprf _ _ _ => none
  | .m, _ => (stepSrc 16 code (dataRegs i).1).map (fun x => { x with group := (dataRegs i).2 })
  | .u, .ucmp _ _ _ _ | .u, .uws _ _ => none
  | .u, _ => some { lo := 18, file := 2, base := w / 2 ^ 18 % 64, regs := 1, group := 1 }
  | _, _ => none

/-- The A, KA or offset field names a register. -/
def stepA (i : Instr) (w : Nat) : Option Stepped :=
  let code := w / 2 ^ 8 % 256
  match format i, i with
  | .v, .vpm _ _ _ | .v, .vvoteAny _ _ _ | .v, .vvoteAll _ _ _ | .v, .vvoteBallot _ _ _ => none
  | .v, .vfma2 _ _ _ _ => stepSrc 8 code 2
  | .v, _ => stepSrc 8 code 1
  | .m, _ => stepSrc 8 code 1
  | .u, .uli _ _ | .u, .usr _ _ => none
  | .u, _ => some { lo := 12, file := 2, base := w / 2 ^ 12 % 64, regs := 1, group := 1 }
  | _, _ => none

/-- Whether operand B of a V-format word is a source. -/
def hasB (i : Instr) : Bool :=
  match i with
  | .vhfma2 _ _ _ _ => true
  | _ => takesLit i

/-- The B or KB field names a register. -/
def stepB (i : Instr) (w : Nat) : Option Stepped :=
  match format i, i with
  | .v, .vfma2 _ _ _ _ => stepSrc 0 (w % 256) 2
  | .v, _ => if hasB i then stepSrc 0 (w % 256) 1 else none
  | .u, .uli _ _ | .u, .uld _ _ _ | .u, .ust _ _ _ | .u, .usr _ _ | .u, .uws _ _ => none
  | .u, _ => if takesLit i then some { lo := 6, file := 2, base := w / 2 ^ 6 % 64, regs := 1, group := 1 } else none
  | _, _ => none

/-- The k-code sources of a V-format word (R74, SK). -/
def stepK (i : Instr) (w : Nat) : List Stepped :=
  if format i = .v then
    ([stepA i w, stepB i w].filterMap id).filter (fun x => x.file == 2)
  else []

/-- The fields a `rep` steps in its target; `none` where a selected field names no register, or SK does not find
exactly one k code (R74). -/
def stepFields (i : Instr) (w : Nat) (sd sa sb sk : Bool) : Option (List Stepped) :=
  let pick (on : Bool) (f : Option Stepped) : Option (List Stepped) := if on then f.map (fun x => [x]) else some []
  match pick sd (stepD i w), pick sa (stepA i w), pick sb (stepB i w) with
  | some d, some a, some b =>
    if sk then match stepK i w with
      | [k] => some (d ++ a ++ b ++ (if (a ++ b).contains k then [] else [k]))
      | _ => none
    else some (d ++ a ++ b)
  | _, _, _ => none

/-- A target that no `rep` may repeat (R74, R209). -/
def unrepeatable (i : Instr) : Bool :=
  match i with
  | .usr _ _ | .uws _ _ | .fget _ _ _ | .fput _ _ _ => true
  | _ => match format i with | .v | .m | .u => false | _ => true

/-- The word with every selected field moved by `amount` registers. -/
def stepWord (w : Nat) (fs : List Stepped) (amount : Nat) : Nat :=
  fs.foldl (fun acc f => acc + amount * 2 ^ f.lo) w

/-- A stepped name lies at or above the warp's budget before the first iteration (R74, order 6 of R83). -/
def stepsOver (w : Warp) (fs : List Stepped) (top : Nat) : Bool :=
  fs.any (fun f => match f.file with
    | 0 => decide (vBudget w < f.base + top + f.regs)
    | 1 => false
    | _ => decide (kBudget w.kbud < f.base + top + f.regs))

/-- REPBAD of the fields (R74): a stride below the group, or a name that leaves the o file. -/
def stepsBad (fs : List Stepped) (cnt stride : Nat) : Bool :=
  fs.any (fun f => decide (stride < f.group) || (f.file == 1 && decide (16 < f.base + cnt * stride + f.regs)))

/-- The selected fields that do name a register, whatever REPBAD finds in the others (R83 tests the names first). -/
def namedFields (i : Instr) (w : Nat) (sd sa sb sk : Bool) : List Stepped :=
  (if sd then (stepD i w).toList else []) ++ (if sa then (stepA i w).toList else []) ++ (if sb then (stepB i w).toList else []) ++
    (if sk then (match stepK i w with | [k] => [k] | _ => []) else [])

/-- Order 6 of R83 for the target of a `rep`. -/
def repOver (w : Warp) (ws : List PWord) : Option Nat :=
  match ws with
  | [r, t] => match r.run with
    | .rep cnt sd sa sb sk str =>
      if !unrepeatable t.run && stepsOver w (namedFields t.run t.word.toNat (sd == 1) (sa == 1) (sb == 1) (sk == 1)) (cnt.toNat * 2 ^ str.toNat)
        then some 1 else none
    | _ => none
  | _ => none

/-! ## The decoder's checks (R83) -/

/-- The first check of R83, orders 1 to 6, that a packet fails, with the index of the word; REPBAD is raised by `rep`
itself (order 7). -/
def packetCheck (w : Warp) (base : Nat) (pr : Option Producer) (ws : List PWord) : Option (Cause × Nat) :=
  match firstIx (illegalAt w) 0 ws with
  | some i => some (.illegal, i)
  | none =>
  match firstIx (failsAt 2 w) 0 ws with
  | some i => some (.role, i)
  | none =>
  match firstIx (failsAt 3 w) 0 ws with
  | some i => some (.priv, i)
  | none =>
  match minIx (firstIx (badpackAt w ws) 0 ws) (tooLong base ws) with
  | some i => some (.badpack, i)
  | none =>
  match badpairAt pr ws with
  | some i => some (.badpair, i)
  | none =>
  match minIx (firstIx (failsAt 6 w) 0 ws) (repOver w ws) with
  | some i => some (.regrange, i)
  | none => none

end Sys2Proof.Machine
end

