-- ==== Sys2Proof/Machine/Control.lean ====
section
/-! DEFINITION. Control words, prefixes and the empty word (R79, R80, R199 to R209, R416), and the words of the
encodings that are not instructions (R9, R83). -/

namespace Sys2Proof.Machine

/-- The target of a B-format word (R78): its own address plus four times the signed offset. -/
def State.target (s : State) (off : BitVec 19) : BitVec 64 := s.wordPc + (off.signExtend 64 <<< 2)

/-- Continue at the target or at the next packet (R201). -/
def branch (s : State) (taken : Bool) (off : BitVec 19) : Res State :=
  done s (fun w => { w with pc := if taken then s.target off else s.nextPc })

/-- A branch that writes the link register when taken (R202). -/
def callTo (s : State) (taken : Bool) (off : BitVec 19) : Res State :=
  done s (fun w => if taken then { w.setK 15 s.nextPc with pc := s.target off } else { w with pc := s.nextPc })

/-- A jump to an address held in a register (R203). -/
def jump (s : State) (t : BitVec 64) : Res State :=
  if t.toNat % 4 ≠ 0 then .error (.raise .misalign t 0 false) else done s (fun w => { w with pc := t })

/-- Push an entry onto the reconvergence stack; a full stack raises RSTACK (R79). -/
def push (w : Warp) (e : StackEntry) : Res Warp :=
  if w.depth.toNat = 32 then raise0 .rstack
  else .ok { w with stack := Map.set {} w.stack w.depth.toNat e, depth := w.depth + 1 }

/-- The warp retires: no lane is live (R79, R80, R205). -/
def Warp.retire (w : Warp) : Warp := { w with live := 0, exec := 0, depth := 0 }

/-- The warp with the masks of the entries that its stack holds cut to `m`. -/
def Warp.cutMasks (w : Warp) (m : BitVec 32) : Warp :=
  { w with stack := (upTo w.depth.toNat).foldl (fun st i =>
      let e := Map.get {} st i
      Map.set {} st i { e with mask := e.mask &&& m }) w.stack }

/-- Pop entries, from number `n - 1` downwards, until a mask names a live lane; with none left the warp retires
(R79, R223). -/
def popJoin (w : Warp) : Nat → Warp
  | 0 => w.retire
  | n + 1 =>
    let e := Map.get {} w.stack n
    if e.mask &&& w.live = 0 then popJoin w n
    else { w with exec := e.mask &&& w.live, pc := e.addr, depth := BitVec.ofNat 6 n }

/-- `join` (R79): a lane outside LIVE leaves the masks that the stack holds (R223), and entries are popped. -/
def Warp.atJoin (w : Warp) : Warp :=
  let w1 := w.cutMasks w.live
  popJoin w1 w1.depth.toNat

/-- Lanes leave EXEC, LIVE and the mask of every entry the stack holds (R80); with no active lane left, the warp
proceeds as at `join`. -/
def Warp.dropLanes (w : Warp) (gone : BitVec 32) : Warp :=
  let w1 : Warp := { w.cutMasks (~~~gone) with live := w.live &&& ~~~gone, exec := w.exec &&& ~~~gone }
  if w1.exec = 0 then w1.atJoin else w1

/-- A packet that would retire its warp raises the oldest pending fault instead (R416). -/
def retiring (h : Here) (w : Warp) (t : State) : Res State := do
  if w.live = 0 then retireCheck h
  .ok t

/-- The records of a wave's lanes that exit leave the task pool (R32). -/
def State.freeTasks (s : State) (h : Here) (n : Nat) : State :=
  if h.pack.wave then s.modCtx h.pack.ctx (fun x => { x with poolUsed := x.poolUsed - n }) else s

def execNop (s : State) : Host.Outcome State Fault Refusal :=
  runWord .nop s (fun _ => done s id)

def execBra (off : BitVec 19) (s : State) : Host.Outcome State Fault Refusal :=
  runWord (.bra off) s (fun _ => branch s true off)

def execBrc (n : BitVec 3) (off : BitVec 19) (s : State) : Host.Outcome State Fault Refusal :=
  runWord (.brc n off) s (fun h => branch s (h.warp.c.getLsbD n.toNat) off)

def execBrcF (n : BitVec 3) (off : BitVec 19) (s : State) : Host.Outcome State Fault Refusal :=
  runWord (.brcF n off) s (fun h => branch s (!h.warp.c.getLsbD n.toNat) off)

/-- `brp` (R79): uniform, or divergent with the lanes that fall through left pending. -/
def execBrp (n : BitVec 3) (off : BitVec 19) (s : State) : Host.Outcome State Fault Refusal :=
  runWord (.brp n off) s (fun h =>
    let t := h.warp.exec &&& h.warp.preg n.toNat
    let f := h.warp.exec &&& ~~~(h.warp.preg n.toNat)
    if f = 0 then branch s true off
    else if t = 0 then branch s false off
    else do
      let w ← push h.warp { kind := .pending, addr := s.nextPc, mask := f }
      done s (fun u => { u with stack := w.stack, depth := w.depth, exec := t, pc := s.target off }))

def execCall (off : BitVec 19) (s : State) : Host.Outcome State Fault Refusal :=
  runWord (.call off) s (fun _ => callTo s true off)

def execCallC (n : BitVec 3) (off : BitVec 19) (s : State) : Host.Outcome State Fault Refusal :=
  runWord (.callC n off) s (fun h => callTo s (h.warp.c.getLsbD n.toNat) off)

def execCallF (n : BitVec 3) (off : BitVec 19) (s : State) : Host.Outcome State Fault Refusal :=
  runWord (.callF n off) s (fun h => callTo s (!h.warp.c.getLsbD n.toNat) off)

def execBrx (ka : BitVec 6) (s : State) : Host.Outcome State Fault Refusal :=
  runWord (.brx ka) s (fun h => jump s (h.warp.kreg ka.toNat))

def execRet (ka : BitVec 6) (s : State) : Host.Outcome State Fault Refusal :=
  runWord (.ret ka) s (fun h => jump s (h.warp.kreg ka.toNat))

/-- `mark` (R79, R204): push a REJOIN entry with the current EXEC. -/
def execMark (off : BitVec 19) (s : State) : Host.Outcome State Fault Refusal :=
  runWord (.mark off) s (fun h => do
    let w ← push h.warp { kind := .rejoin, addr := s.target off, mask := h.warp.exec }
    done s (fun u => { u with stack := w.stack, depth := w.depth }))

/-- `join` (R79, R204): pop until a mask names a live lane, or retire the warp. -/
def execJoin (s : State) : Host.Outcome State Fault Refusal :=
  runWord .join s (fun h =>
    if h.warp.depth = 0 then raise0 .rstack
    else
      let r := Warp.atJoin { h.warp with pc := s.nextPc }
      retiring h r (s.setCur (fun u => { u with exec := r.exec, live := r.live, stack := r.stack, depth := r.depth, pc := r.pc })))

/-- `exit` (R80, R205): the active lanes retire; their tasks' records are freed (R32). -/
def execExit (s : State) : Host.Outcome State Fault Refusal :=
  runWord .exit s (fun h =>
    let r := Warp.dropLanes { h.warp with pc := s.nextPc } h.warp.exec
    retiring h r ((s.setCur (fun u => { u with
      exec := r.exec, live := r.live, stack := r.stack, depth := r.depth, pc := r.pc })).freeTasks h
        (lanesOf h.warp.exec).length))

/-- `yield` (R206): the warp counts as having issued in this cycle. -/
def execYield (s : State) : Host.Outcome State Fault Refusal :=
  runWord .yield s (fun _ => done s (fun w => { w with lastIssue := s.cycle }))

/-- `waitc` (R207): the packet issues once the path's counter is at or below the threshold. -/
def execWaitc (ka : BitVec 6) (fn : BitVec 6) (s : State) : Host.Outcome State Fault Refusal :=
  runWord (.waitc ka fn) s (fun h =>
    if (h.warp.kreg ka.toNat).toNat < h.warp.counter (pathOf fn.toNat) then
      .error (.block (.waitc (pathOf fn.toNat) (h.warp.kreg ka.toNat)))
    else done s id)

/-- `lit` (R72): its payload goes to the word that follows. -/
def execLit (payload : BitVec 24) (s : State) : Host.Outcome State Fault Refusal :=
  runWord (.lit payload) s (fun _ => .ok { s with iss := { s.iss with lit := some payload } })

/-- The state of REPC (R76): iterations completed x stride, and iterations remaining. -/
def repOffset (r : BitVec 32) : Nat := r.toNat / 2 ^ 16 % 512
def repLeft (r : BitVec 32) : Nat := r.toNat % 128

/-- `rep` (R74 to R76): name the iteration that the target runs next, and record in REPC the point reached when it
has run. The target is the word after it. A cause in iteration 0 leaves REPC zero: no iteration is complete, and R76 starts a `rep` with a
zero REPC at iteration 0: the model's choice (log entry 14). -/
def execRep (cnt : BitVec 6) (sd sa sb sk : BitVec 1) (str : BitVec 2) (s : State) : Host.Outcome State Fault Refusal :=
  runWord (.rep cnt sd sa sb sk str) s (fun h =>
    let stride := 2 ^ str.toNat
    let left := repLeft h.warp.repc
    let j := if left = 0 then 0 else cnt.toNat + 1 - left
    match decode s.iss.next with
    | none => raise0 .repbad
    | some t =>
      match stepFields t s.iss.next.toNat (sd == 1) (sa == 1) (sb == 1) (sk == 1) with
      | none => raise0 .repbad
      | some fs =>
        if unrepeatable t || stepsBad fs cnt.toNat stride ||
            (left != 0 && (decide (cnt.toNat + 1 < left) || repOffset h.warp.repc != j * stride)) then raise0 .repbad
        else
          let last := j == cnt.toNat
          let t := s.setCur (fun w => { w with
            repc := if last then 0 else BitVec.ofNat 32 ((j + 1) * stride * 2 ^ 16 + (cnt.toNat - j))
            pc := if last then s.nextPc else s.iss.base })
          .ok { t with iss := { t.iss with repJ := some (j, stride) } })

/-- `trap` (R208): raise USERTRAP with its code in XINFO[13:8]. -/
def execTrap (fn : BitVec 6) (s : State) : Host.Outcome State Fault Refusal :=
  runWord (.trap fn) s (fun _ => .error (.raise .usertrap 0 (BitVec.ofNat 64 (fn.toNat * 256)) false))

/-- A word that is no instruction raises ILLEGAL (R9, R83). -/
def execUnassignedEncoding (_word : BitVec 32) (s : State) : Host.Outcome State Fault Refusal :=
  match s.here with
  | none => .next s
  | some _ => s.settle (raise0 .illegal)

end Sys2Proof.Machine
end

