-- ==== Sys2Proof/Machine/Compress.lean ====
section
/-! DEFINITION. Compressed blocks (R148 to R152, R161): what a 256-byte block holds whose stored mode and bytes are given, where `none`
is a decode error; and the mode and bytes in which the encoder stores a block. -/

namespace Sys2Proof.Machine

/-- The `n` bits of packed bytes that start at bit `i`, least significant bit first. -/
def packedBits (bs : List (BitVec 8)) (i n : Nat) : Nat := leNat bs / 2 ^ i % 2 ^ n

/-- Every bit from bit `i` upwards is zero. -/
def zeroFrom (bs : List (BitVec 8)) (i : Nat) : Bool := leNat bs / 2 ^ i == 0

/-- The 32-byte units that `bits` bits after `head` bytes fill (R149, R150). -/
def unitsFor (head bits : Nat) : Nat := (head + (bits + 7) / 8 + 31) / 32

/-- A byte of a stored block. -/
def storedByte (bs : List (BitVec 8)) (i : Nat) : Nat := (bs.getD i 0).toNat

/-- Mode 3, base plus delta (R149). -/
def expandDelta (bs : List (BitVec 8)) : Option (List (BitVec 8)) :=
  let l := storedByte bs 0
  let code := storedByte bs 1
  let dw := storedByte bs 2
  let ew := 8 * 2 ^ code
  let k := 2048 / ew
  if code = 0 ∨ 3 < code ∨ ew < dw then none else
  if l ≠ unitsFor 16 (k * dw) ∨ 7 < l ∨ bs.length ≠ 32 * l then none else
  if packedBits bs 24 40 ≠ 0 ∨ packedBits bs (64 + ew) (64 - ew) ≠ 0 ∨ zeroFrom bs (128 + k * dw) = false then none else
  let base := packedBits bs 64 ew
  let delta (i : Nat) : Nat :=
    let d := packedBits bs (128 + i * dw) dw
    if 0 < dw ∧ 2 ^ (dw - 1) ≤ d then d + 2 ^ ew - 2 ^ dw else d
  some ((upTo k).flatMap (fun i => leBytes (ew / 8) ((base + delta i) % 2 ^ ew)))

/-- Mode 4, exponent plane (R150). -/
def expandPlane (bs : List (BitVec 8)) : Option (List (BitVec 8)) :=
  let l := storedByte bs 0
  let e0 := storedByte bs 1
  let dw := storedByte bs 2
  if 8 < dw then none else
  if l ≠ unitsFor 132 (128 * dw) ∨ 7 < l ∨ bs.length ≠ 32 * l then none else
  if storedByte bs 3 ≠ 0 ∨ zeroFrom bs (1056 + 128 * dw) = false then none else
  let exponent (i : Nat) : Nat := e0 + packedBits bs (1056 + i * dw) dw
  if (upTo 128).any (fun i => decide (255 < exponent i)) then none else
  some ((upTo 128).flatMap (fun i =>
    let b := storedByte bs (4 + i)
    leBytes 2 (b / 128 * 2 ^ 15 + exponent i * 2 ^ 7 + b % 128)))

/-- The 256 bytes of a block in a stored mode (R148): 0 raw, 1 zero, 2 repeat, 3 base plus delta, 4 exponent plane; modes 5 to
15 are reserved (R151). -/
def expandBlock (mode : BitVec 4) (bs : List (BitVec 8)) : Option (List (BitVec 8)) :=
  match mode.toNat with
  | 0 => if bs.length = 256 then some bs else none
  | 1 => if bs.length = 32 ∧ leNat bs = 0 then some (List.replicate 256 0) else none
  | 2 => if bs.length = 32 ∧ zeroFrom bs 64 = true then some ((upTo 32).flatMap (fun _ => bs.take 8)) else none
  | 3 => expandDelta bs
  | 4 => expandPlane bs
  | _ => none

/-! ## The encoder (R152, R161) -/

/-- Fields of `n` bits packed from bit 0, least significant bit first. -/
def packFields (n : Nat) (xs : List Nat) : Nat := xs.foldr (fun x acc => x % 2 ^ n + 2 ^ n * acc) 0

/-- The least width up to `most` that suits. -/
def leastWidth (most : Nat) (fits : Nat → Bool) : Nat := ((upTo (most + 1)).find? fits).getD most

/-- A difference modulo 2^`ew` is a two's complement number of `dw` bits. -/
def deltaFits (ew dw d : Nat) : Bool :=
  if dw = 0 then d == 0 else decide (d < 2 ^ (dw - 1)) || decide (2 ^ ew ≤ d + 2 ^ (dw - 1))

/-- A stored block of `l` units, at most 7, that holds a number. -/
def storedUnits (mode : BitVec 4) (l x : Nat) : Option (BitVec 4 × List (BitVec 8)) :=
  if 7 < l then none else some (mode, leBytes (32 * l) x)

/-- Mode 3 with element width code `code`, with element 0 as the base and the least DW (R149, R161). -/
def deltaBlock (code : Nat) (bs : List (BitVec 8)) : Option (BitVec 4 × List (BitVec 8)) :=
  let ew := 8 * 2 ^ code
  let k := 2048 / ew
  let element (i : Nat) : Nat := packedBits bs (i * ew) ew
  let base := element 0
  let ds := (upTo k).map (fun i => (element i + 2 ^ ew - base) % 2 ^ ew)
  let dw := leastWidth ew (fun n => ds.all (deltaFits ew n))
  let l := unitsFor 16 (k * dw)
  storedUnits 3 l (l + 2 ^ 8 * code + 2 ^ 16 * dw + 2 ^ 64 * base + 2 ^ 128 * packFields dw ds)

/-- Mode 4, with the least exponent as E0 and the least DW (R150, R161). -/
def planeBlock (bs : List (BitVec 8)) : Option (BitVec 4 × List (BitVec 8)) :=
  let value (i : Nat) : Nat := packedBits bs (16 * i) 16
  let exps := (upTo 128).map (fun i => value i / 2 ^ 7 % 256)
  let e0 := exps.foldl min 255
  let dw := leastWidth 8 (fun n => exps.all (fun e => decide (e - e0 < 2 ^ n)))
  let l := unitsFor 132 (128 * dw)
  storedUnits 4 l (l + 2 ^ 8 * e0 + 2 ^ 16 * dw + 2 ^ 32 * packFields 8 ((upTo 128).map (fun i => value i / 2 ^ 15 * 128 + value i % 128)) +
    2 ^ 1056 * packFields dw (exps.map (fun e => e - e0)))

/-- The candidates for a block's 256 bytes, in ascending modes, and in mode 3 in the order of element widths 2, 1, 3 (R161). -/
def storedCandidates (bs : List (BitVec 8)) : List (BitVec 4 × List (BitVec 8)) :=
  [if leNat bs = 0 then some (1, List.replicate 32 0) else none,
   if packFields 64 (List.replicate 32 (packedBits bs 0 64)) = leNat bs then some (2, bs.take 8 ++ List.replicate 24 0) else none,
   deltaBlock 2 bs, deltaBlock 1 bs, deltaBlock 3 bs, planeBlock bs].filterMap id

/-- The stored mode and bytes of a block: the candidate with the fewest units, the first of those; without any, the block as it stands
in mode 0 (R152, R161). -/
def compressBlock (bs : List (BitVec 8)) : BitVec 4 × List (BitVec 8) :=
  (storedCandidates bs).foldl (fun best c => if c.2.length < best.2.length then c else best) (0, bs)

end Sys2Proof.Machine
end

