-- ==== Sys2Proof/Machine/Float.lean ====
section
/-! DEFINITION. Numbers (R91 to R106): the element encodings as exact values, rounding of an exact value onto a
format with its flags, and the arithmetic of R98 to R100 on exact values. Nothing here rounds but `roundTo` and the
conversions to integers and to E8M0. -/

namespace Sys2Proof.Machine

/-! ## Flags (R102) -/

def flagNV : BitVec 5 := 16
def flagDZ : BitVec 5 := 8
def flagOF : BitVec 5 := 4
def flagUF : BitVec 5 := 2
def flagNX : BitVec 5 := 1

/-- The rounding modes (R98, R101). -/
inductive Mode where
  | rne | rtz | rup | rdn
  deriving DecidableEq, Repr

/-- The mode of FPMODE.RM, and of the rounding codes 0 to 3 of `vfcvt` (R81, R101). -/
def modeOf (n : Nat) : Mode := match n with | 0 => .rne | 1 => .rtz | 2 => .rup | _ => .rdn

/-- An exact value: a NaN (signalling or not), an infinity, or (-1)^neg * m * 2^e. A zero keeps its sign. -/
inductive Val where
  | nan (signalling : Bool)
  | inf (neg : Bool)
  | num (neg : Bool) (m : Nat) (e : Int)
  deriving DecidableEq, Repr

/-- A floating format (R92): field widths, bias, the encoding of its largest finite magnitude, whether it has
infinities, its canonical NaN (R100; E2M1 has none and takes 0, R98), and whether its NaNs may signal. -/
structure FloatFmt where
  eb     : Nat
  mb     : Nat
  bias   : Nat
  top    : Nat
  hasInf : Bool
  nan    : Nat
  sigs   : Bool
  deriving DecidableEq, Repr

def fp32 : FloatFmt := { eb := 8, mb := 23, bias := 127, top := 0x7F7FFFFF, hasInf := true, nan := 0x7FC00000, sigs := true }
def fp16 : FloatFmt := { eb := 5, mb := 10, bias := 15, top := 0x7BFF, hasInf := true, nan := 0x7E00, sigs := true }
def bf16 : FloatFmt := { eb := 8, mb := 7, bias := 127, top := 0x7F7F, hasInf := true, nan := 0x7FC0, sigs := true }
def e4m3 : FloatFmt := { eb := 4, mb := 3, bias := 7, top := 0x7E, hasInf := false, nan := 0x7F, sigs := false }
def e5m2 : FloatFmt := { eb := 5, mb := 2, bias := 15, top := 0x7B, hasInf := true, nan := 0x7E, sigs := false }
def e2m1 : FloatFmt := { eb := 2, mb := 1, bias := 1, top := 0x7, hasInf := false, nan := 0x0, sigs := false }

/-- The value of a code of a format (R92, R93). -/
def FloatFmt.decode (f : FloatFmt) (x : Nat) : Val :=
  let neg := x / 2 ^ (f.eb + f.mb) % 2 == 1
  let E := x / 2 ^ f.mb % 2 ^ f.eb
  let M := x % 2 ^ f.mb
  if f.hasInf ∧ E = 2 ^ f.eb - 1 then
    if M = 0 then .inf neg else .nan (f.sigs && decide (M < 2 ^ (f.mb - 1)))
  else if f.hasInf = false ∧ f.nan ≠ 0 ∧ x % 2 ^ (f.eb + f.mb) = f.nan then .nan false
  else if E = 0 then .num neg M (1 - (f.bias : Int) - f.mb)
  else .num neg (2 ^ f.mb + M) ((E : Int) - f.bias - f.mb)

/-- The number of bits of a nonzero number. -/
def bitLen (m : Nat) : Nat := if m = 0 then 0 else Nat.log2 m + 1

/-- `m * 2^e` cut to a multiple of `2^q` and rounded by mode: the multiple, and whether it is inexact (R98). -/
def cutTo (mode : Mode) (neg : Bool) (m : Nat) (e q : Int) : Nat × Bool :=
  if q ≤ e then (m * 2 ^ (e - q).toNat, false)
  else
    let s := (q - e).toNat
    let lo := m / 2 ^ s
    let r := m % 2 ^ s
    let up := match mode with
      | .rne => decide (2 ^ s < 2 * r) || (decide (2 * r = 2 ^ s) && decide (lo % 2 = 1))
      | .rtz => false
      | .rup => decide (r ≠ 0) && !neg
      | .rdn => decide (r ≠ 0) && neg
    (if up then lo + 1 else lo, decide (r ≠ 0))

/-- `a * 2^x < b * 2^y`. -/
def dyLt (a : Nat) (x : Int) (b : Nat) (y : Int) : Bool :=
  if x ≤ y then decide (a < b * 2 ^ (y - x).toNat) else decide (a * 2 ^ (x - y).toNat < b)

/-- The sign bit of a format. -/
def FloatFmt.sign (f : FloatFmt) (neg : Bool) : Nat := if neg then 2 ^ (f.eb + f.mb) else 0

/-- The code of infinity. -/
def FloatFmt.infCode (f : FloatFmt) : Nat := (2 ^ f.eb - 1) * 2 ^ f.mb

/-- Encode `m * 2^q` that the format represents, `q` being its quantum. -/
def FloatFmt.enc (f : FloatFmt) (m : Nat) (q : Int) : Nat :=
  if m < 2 ^ f.mb then m
  else if m = 2 ^ (f.mb + 1) then ((q + 1 + f.mb + f.bias).toNat) * 2 ^ f.mb
  else (q + f.mb + f.bias).toNat * 2 ^ f.mb + (m - 2 ^ f.mb)

/-- The exponent of the largest power of two at or below `m * 2^e`. -/
def expOf (m : Nat) (e : Int) : Int := (bitLen m : Int) - 1 + e

/-- Round an exact value onto a format (R98, R99, R118): the code and the flags. The value that R99 compares with the
smallest normal is the one that R118's grid gives. -/
def FloatFmt.round (f : FloatFmt) (mode : Mode) : Val → Nat × BitVec 5
  | .nan s => (f.nan, if f.nan = 0 then flagNV else if s then flagNV else 0)
  | .inf neg => if f.hasInf then (f.sign neg + f.infCode, 0) else (f.sign neg + f.top, flagNV)
  | .num neg m e =>
    if m = 0 then (f.sign neg, 0) else
    let emin : Int := 1 - (f.bias : Int)
    let q := max (expOf m e - f.mb) (emin - f.mb)
    let (r, inexact) := cutTo mode neg m e q
    let big := match f.decode f.top with | .num _ tm te => dyLt tm te r q | _ => false
    if big then
      let toInf := f.hasInf && (match mode with | .rne => true | .rtz => false | .rup => !neg | .rdn => neg)
      (f.sign neg + (if toInf then f.infCode else f.top), flagOF ||| flagNX)
    else
      let tiny := dyLt r q 1 emin
      (f.sign neg + f.enc r q,
        if inexact then (if tiny then flagUF ||| flagNX else flagNX) else 0)

/-- Round and drop the flags (R106). -/
def FloatFmt.rne (f : FloatFmt) (v : Val) : Nat := (f.round .rne v).1

/-! ## Integers (R95, R98, R104) -/

/-- Round a value to an integer in [lo, hi]: the integer and the flags. A value below `lo` saturates even where it rounds
to `lo` (R98). -/
def roundInt (mode : Mode) (lo hi : Int) : Val → Int × BitVec 5
  | .nan _ => (0, flagNV)
  | .inf neg => (if neg then lo else hi, flagNV)
  | .num neg m e =>
    if neg && dyLt lo.natAbs 0 m e then (lo, flagNV) else
    let (r, inexact) := cutTo mode neg m e 0
    let i : Int := if neg then -(r : Int) else r
    if hi < i then (hi, flagNV)
    else (i, if inexact then flagNX else 0)

/-- The exact value of an integer; zero is +0. -/
def valInt (i : Int) : Val := .num (decide (i < 0)) i.natAbs 0

/-- The low `w` bits of an integer in two's complement. -/
def intBits (w : Nat) (i : Int) : Nat := (i % (2 ^ w : Nat)).toNat

/-! ## E8M0 (R94, R105) -/

def e8m0Val (x : Nat) : Val := if x % 256 = 255 then .nan false else .num false 1 ((x % 256 : Nat) - 127)

/-- FP32 to E8M0 (R105). An infinity or NaN sets NV alone: log entry 91. -/
def roundE8m0 (mode : Mode) : Val → Nat × BitVec 5
  | .nan _ => (0xFF, flagNV)
  | .inf _ => (0xFF, flagNV)
  | .num neg m e =>
    if m = 0 then (0, flagUF ||| flagNX) else
    let x := expOf m e
    let exact := dyLt m e 1 x == false && dyLt 1 x m e == false
    let up := !exact && (match mode with
      | .rup => true
      | .rne => !dyLt m e 3 (x - 1)
      | _ => false)
    let r := if up then x + 1 else x
    let nv := if neg then flagNV else 0
    if 127 < r then (0xFE, nv ||| flagOF ||| flagNX)
    else if r < -127 then (0, nv ||| flagUF ||| flagNX)
    else ((r + 127).toNat, nv ||| (if exact then 0 else flagNX))

/-! ## Exact arithmetic -/

def Val.isNan : Val → Bool | .nan _ => true | _ => false
def Val.isSig : Val → Bool | .nan s => s | _ => false
def Val.neg : Val → Val
  | .nan s => .nan s | .inf n => .inf (!n) | .num n m e => .num (!n) m e
def Val.isNeg : Val → Bool | .nan _ => false | .inf n => n | .num n _ _ => n
def Val.isZero : Val → Bool | .num _ 0 _ => true | _ => false

/-- The sign of an exactly zero sum (R98): that of both operands, or by the mode. -/
def zeroSign (mode : Mode) (a b : Bool) : Bool := if a = b then a else mode == .rdn

/-- An exact product; a zero times an infinity is an invalid NaN. The flag says that the operation is invalid. -/
def mulVal : Val → Val → Val × Bool
  | .nan _, _ => (.nan false, false)
  | _, .nan _ => (.nan false, false)
  | .inf a, .inf b => (.inf (a != b), false)
  | .inf a, .num b m _ => if m = 0 then (.nan false, true) else (.inf (a != b), false)
  | .num a m _, .inf b => if m = 0 then (.nan false, true) else (.inf (a != b), false)
  | .num a m e, .num b n f => (.num (a != b) (m * n) (e + f), false)

/-- `m * 2^e` as a multiple of `2^q`, for q at or below e. -/
def shiftTo (neg : Bool) (m : Nat) (e q : Int) : Int :=
  let x : Int := (m * 2 ^ (e - q).toNat : Nat)
  if neg then -x else x

/-- An exact sum; opposing infinities are invalid. -/
def addVal (mode : Mode) : Val → Val → Val × Bool
  | .nan _, _ => (.nan false, false)
  | _, .nan _ => (.nan false, false)
  | .inf a, .inf b => if a = b then (.inf a, false) else (.nan false, true)
  | .inf a, .num _ _ _ => (.inf a, false)
  | .num _ _ _, .inf b => (.inf b, false)
  | .num a m e, .num b n f =>
    if m = 0 ∧ n = 0 then (.num (zeroSign mode a b) 0 0, false)
    else if m = 0 then (.num b n f, false)
    else if n = 0 then (.num a m e, false)
    else
      let q := min e f
      let t := shiftTo a m e q + shiftTo b n f q
      if t = 0 then (.num (zeroSign mode a b) 0 0, false) else (.num (decide (t < 0)) t.natAbs q, false)

/-- A signalling operand or an invalid operation sets NV (R100). -/
def nvOf (inv : Bool) (vs : List Val) : BitVec 5 := if inv || vs.any Val.isSig then flagNV else 0

/-- a + b in a format (R98 to R100). -/
def FloatFmt.add (f : FloatFmt) (mode : Mode) (a b : Nat) : Nat × BitVec 5 :=
  let (x, y) := (f.decode a, f.decode b)
  let (v, inv) := addVal mode x y
  let (r, fl) := f.round mode v
  (r, fl ||| nvOf inv [x, y])

/-- a - b in a format. -/
def FloatFmt.sub (f : FloatFmt) (mode : Mode) (a b : Nat) : Nat × BitVec 5 :=
  let (x, y) := (f.decode a, f.decode b)
  let (v, inv) := addVal mode x y.neg
  let (r, fl) := f.round mode v
  (r, fl ||| nvOf inv [x, y])

/-- a * b in a format. -/
def FloatFmt.mul (f : FloatFmt) (mode : Mode) (a b : Nat) : Nat × BitVec 5 :=
  let (x, y) := (f.decode a, f.decode b)
  let (v, inv) := mulVal x y
  let (r, fl) := f.round mode v
  (r, fl ||| nvOf inv [x, y])

/-- a * b + d with one rounding (R235); 0 times infinity is invalid whatever d is (R236). -/
def FloatFmt.fma (f : FloatFmt) (mode : Mode) (a b d : Nat) : Nat × BitVec 5 :=
  let (x, y, z) := (f.decode a, f.decode b, f.decode d)
  let (p, inv) := mulVal x y
  let (v, inv2) := addVal mode p z
  let (r, fl) := f.round mode v
  (r, fl ||| nvOf (inv || inv2) [x, y, z])

/-- Strict order of two values that are not NaNs, -0 and +0 equal. -/
def ltVal : Val → Val → Bool
  | .nan _, _ => false
  | _, .nan _ => false
  | .inf a, .inf b => a && !b
  | .inf a, .num _ _ _ => a
  | .num _ _ _, .inf b => !b
  | .num a m e, .num b n f =>
    let q := min e f
    decide (shiftTo a m e q < shiftTo b n f q)

/-- Equality of two values as numbers. -/
def eqVal (a b : Val) : Bool := !a.isNan && !b.isNan && !ltVal a b && !ltVal b a

/-- Order with -0 below +0 (R100). -/
def belowVal (a b : Val) : Bool := ltVal a b || (eqVal a b && a.isNeg && !b.isNeg)

/-- minimumNumber or maximumNumber (R100): the code and the flags. -/
def FloatFmt.pick (f : FloatFmt) (greatest : Bool) (a b : Nat) : Nat × BitVec 5 :=
  let (x, y) := (f.decode a, f.decode b)
  let r := if x.isNan && y.isNan then f.nan else if x.isNan then b else if y.isNan then a
    else if greatest then (if belowVal x y then b else a) else (if belowVal y x then b else a)
  (r, nvOf false [x, y])

/-- `vfcmp` (R100, R237): conditions 0 EQ, 1 NE, 2 LT, 3 LE, 4 GT, 5 GE, 6 UN, 7 OR. -/
def FloatFmt.compare (f : FloatFmt) (cond a b : Nat) : Bool × BitVec 5 :=
  let (x, y) := (f.decode a, f.decode b)
  let un := x.isNan || y.isNan
  let r := match cond with
    | 0 => eqVal x y
    | 1 => !eqVal x y
    | 2 => ltVal x y
    | 3 => !un && !ltVal y x
    | 4 => ltVal y x
    | 5 => !un && !ltVal x y
    | 6 => un
    | _ => !un
  let ordered := decide (2 ≤ cond) && decide (cond ≤ 5)
  (r, if ordered && un then flagNV else nvOf false [x, y])

/-! ## Element encodings by code (R91) -/

/-- The floating format of an encoding code. -/
def fmtOf (enc : Nat) : Option FloatFmt :=
  match enc with
  | 0 => some fp32 | 1 => some fp16 | 2 => some bf16 | 3 => some e4m3 | 4 => some e5m2 | 5 => some e2m1
  | _ => none

/-- The width in bits of an encoding code (R91). -/
def encBits (enc : Nat) : Nat :=
  match enc with
  | 0 => 32 | 1 => 16 | 2 => 16 | 3 => 8 | 4 => 8 | 5 => 4 | 6 => 8 | 7 => 4 | 8 => 4 | 9 => 8 | 10 => 4
  | 11 => 64 | 12 => 32 | _ => 0

/-- The range of an integer encoding. -/
def intRange (enc : Nat) : Option (Int × Int) :=
  match enc with
  | 6 => some (-128, 127) | 7 => some (-8, 7) | 8 => some (0, 15) | 12 => some (-2147483648, 2147483647)
  | _ => none

/-- The integer an integer encoding holds (R95). -/
def intOf (enc x : Nat) : Int :=
  match enc with
  | 6 => signedOf 8 x | 7 => signedOf 4 x | 8 => ((x % 16 : Nat) : Int) | 12 => signedOf 32 x | _ => 0

/-- The exact value of an element (R92 to R95); a codebook index is resolved before. -/
def encVal (enc x : Nat) : Val :=
  match fmtOf enc with
  | some f => f.decode x
  | none => if enc = 9 then e8m0Val x else valInt (intOf enc x)

/-- Round a value into an encoding with RNE and no flags (R106), in the encoding's own width. -/
def encRound (enc : Nat) (v : Val) : Nat :=
  match fmtOf enc with
  | some f => f.rne v
  | none =>
    match intRange enc with
    | some (lo, hi) => intBits (encBits enc) (roundInt .rne lo hi v).1
    | none => if enc = 9 then (roundE8m0 .rne v).1 else 0

/-! ## `vfcvt` (R104, R105) -/

/-- The result and the flags of conversion `code` under a mode. -/
def convert (code : Nat) (mode : Mode) (a : BitVec 32) : BitVec 32 × BitVec 5 :=
  let x := a.toNat
  let out (p : Nat × BitVec 5) : BitVec 32 × BitVec 5 := (BitVec.ofNat 32 p.1, p.2)
  let outI (p : Int × BitVec 5) : BitVec 32 × BitVec 5 := (BitVec.ofNat 32 (intBits 32 p.1), p.2)
  let widen (f : FloatFmt) (bits : Nat) : BitVec 32 × BitVec 5 := out (fp32.round mode (f.decode (x % 2 ^ bits)))
  let v := fp32.decode x
  match code with
  | 0x00 => out (fp16.round mode v)
  | 0x01 => widen fp16 16
  | 0x02 => out (bf16.round mode v)
  | 0x03 => widen bf16 16
  | 0x04 => out (e4m3.round mode v)
  | 0x05 => widen e4m3 8
  | 0x06 => out (e5m2.round mode v)
  | 0x07 => widen e5m2 8
  | 0x08 => out (e2m1.round mode v)
  | 0x09 => widen e2m1 4
  | 0x0A => outI (roundInt mode (-2147483648) 2147483647 v)
  | 0x0B => out (fp32.round mode (valInt (signedOf 32 x)))
  | 0x0C => outI (roundInt mode 0 4294967295 v)
  | 0x0D => out (fp32.round mode (valInt x))
  | 0x0E => outI (roundInt mode (-128) 127 v)
  | 0x0F => outI (roundInt mode (-8) 7 v)
  | 0x10 => outI (roundInt mode 0 15 v)
  | 0x11 => match v with
    | .num neg m e =>
      let (r, inexact) := cutTo mode neg m e 0
      out ((fp32.round .rne (.num neg r 0)).1, if inexact then flagNX else 0)
    | _ => out (fp32.round mode v)
  | 0x12 => out (fp32.round mode (e8m0Val x))
  | 0x13 => out (roundE8m0 mode v)
  | 0x14 => out (fp32.round mode (valInt (signedOf 8 x)))
  | 0x15 => out (fp32.round mode (valInt (signedOf 4 x)))
  | _ => out (fp32.round mode (valInt ((x % 16 : Nat) : Int)))

end Sys2Proof.Machine
end

