-- ==== Sys2Proof/Machine/Lane.lean ====
section
/-! DEFINITION. Where an access goes and what may stop it: windows (R120, R121), the validity of a view (R141), the
address of a lane (R142), scales and zero points (R145), range locks (R157), watchpoints (R371) and send allowance
(R42, R256). -/

namespace Sys2Proof.Machine

/-! ## Places -/

/-- `n` bytes of a pack's window, from a window offset (R120). -/
def windowPlace (p : Pack) (off n : Nat) : Option Place :=
  if off + n ≤ pktWindow p.pkt then some (.scratch p.core (p.scrBase + off)) else none

/-- The cluster size and rank of a pack (R121); a wave stands alone. -/
def Pack.size (p : Pack) : Nat := if p.wave then 1 else pktClsz p.pkt
def Pack.rank (p : Pack) : Nat := p.x % p.size

/-- The pack's scratchpad window is in its context record (R45, R382). -/
def Pack.evicted (p : Pack) : Bool := p.record.any (fun r => r.scrIn)

/-- The pack and the window offset that an address of a scratchpad space names: 1 the window, 2 the cluster window
(R121). -/
def State.scratchTarget (s : State) (p : Pack) (space addr : Nat) : Option (Pack × Nat) :=
  if space = 1 then some (p, addr) else
  let rank := addr / 2 ^ 22
  if p.size ≤ rank then none else
  (s.packs.find? (fun q => q.group == p.group && q.ctx == p.ctx && q.rank == rank && !q.evicted)).map (fun q => (q, addr % 2 ^ 22))

/-- `n` bytes of a scratchpad space. -/
def State.scratchPlace (s : State) (p : Pack) (space addr n : Nat) : Option Place :=
  (s.scratchTarget p space addr).bind (fun t => windowPlace t.1 t.2 n)

/-- The lowest byte of a span that lies in leash storage, the top of a window (R25, R275). -/
def State.leashHit (s : State) (p : Pack) (space addr n : Nat) : Option Nat :=
  if space = 0 then none else
  match s.scratchTarget p space addr with
  | some (q, off) => if pktFree q.pkt < off + n then some (addr + (pktFree q.pkt - off)) else none
  | none => none

/-! ## Range locks (R157) -/

/-- A lock entry covers a byte of the core's scratchpad or of the context's memory; a scratchpad range is held as
offsets of the issuing pack's window (R155). -/
def State.locked (s : State) (e : LockEntry) (ctx : Nat) (va : Nat) : Place → Bool
  | .scratch _ off =>
    let base := match s.pack? e.pack with | some q => q.scrBase | none => 0
    !e.glob && e.ctx == ctx && decide (base + e.lo ≤ off) && decide (off < base + e.hi)
  | _ => e.glob && e.ctx == ctx && decide (e.lo ≤ va) && decide (va < e.hi)

/-- The lowest byte of a span that a valid entry keeps from the access. -/
def State.lockHit (s : State) (p : Pack) (store : Bool) (va : Nat) (pl : Place) (len : Nat) : Option Nat :=
  let es := ((s.core p.core).locks.filterMap (fun e => e.2)).filter (fun e => e.dest || store)
  let mine := match pl with | .scratch c _ => c == p.core | _ => true
  if mine then
    ((upTo len).find? (fun i => es.any (fun e => s.locked e p.ctx (va + i) (pl.plus i)))).map (fun i => va + i)
  else none

/-! ## Views (R141) -/

/-- The combinations of a converting view. -/
def convOk (enc sfmt glen : Nat) (zp : Bool) (renc : Nat) : Bool :=
  let fl := renc == 0 || renc == 1 || renc == 2
  match sfmt with
  | 0 => glen == 0 && !zp && ((decide (enc ≤ 5) && fl) ||
      ((enc == 6 || enc == 7 || enc == 8 || enc == 12) && (renc == 12 || renc == 0)))
  | 1 => (enc == 3 || enc == 4 || enc == 5 || enc == 6) && (glen == 1 || glen == 2) && !zp && fl
  | 2 => (enc == 6 || enc == 7 || enc == 8) && (glen == 2 || glen == 3 || glen == 4) && fl
  | _ => false

/-- The reserved bits of a record (R140). -/
def viewReserved (v : BitVec 320) : Bool := recBits v 0x18 40 24 != 0 || recBits v 0x20 55 1 != 0

/-- The view may be used at all (R141). -/
def viewOk (v : BitVec 320) : Bool :=
  viewValid v && !viewReserved v && viewSpace v != 3 && decide (viewScope v ≤ 4) && viewCpol v != 3 &&
  viewClamp v != 3 && decide (viewGlen v ≤ 4) && viewSfmt v != 3 && decide (viewIlv v ≤ 16) &&
  (if viewConv v then convOk (viewEnc v) (viewSfmt v) (viewGlen v) (viewZp v) (viewRenc v)
   else viewGlen v == 0 && viewSfmt v == 0 && !viewZp v && viewEnc v == 0 && viewRenc v == 0) &&
  (viewSfmt v != 0 || viewScl v == 0) && (viewZp v || viewZpp v == 0) &&
  (viewSpace v == 0 || (viewCpol v == 0 && viewRawhint v == 0)) &&
  (viewStride v == 0 || decide (2 ^ viewIlv v ≤ viewStride v))

/-- The width of a unit in half bytes, and the number of units of an access of `z` bytes (R142). -/
def unitNibbles (v : BitVec 320) (z : Nat) : Nat := if viewConv v then encBits (viewEnc v) / 4 else 2 * z
def unitCount (v : BitVec 320) (z : Nat) : Nat := if viewConv v then z / (encBits (viewRenc v) / 8) else 1

/-- An access of `z` bytes suits the view: its element is no narrower than RENC, and BASE is a multiple of the width of
ENC. -/
def viewSuits (v : BitVec 320) (z : Nat) : Bool :=
  !viewConv v || (decide (encBits (viewRenc v) / 8 ≤ z) &&
    (decide (encBits (viewEnc v) < 8) || viewBase v % (encBits (viewEnc v) / 8) == 0))

/-- The length of a group (R140). -/
def groupLen (v : BitVec 320) : Nat := 8 * 2 ^ viewGlen v

/-! ## The address of a lane (R142) -/

/-- Why a lane cannot make its access, with the rank of its cause among lanes: 1 VIEW, 2 MISALIGN, 3 LOCKHIT, 4
translation. -/
abbrev LaneTry (α : Type) := Except (Nat × Stop) α

def laneFail {α : Type} (rank : Nat) (c : Cause) (xaddr : Nat) : LaneTry α :=
  .error (rank, .raise c (BitVec.ofNat 64 xaddr) 0 false)

/-- The position of a lane's first unit: `none` for a void lane. -/
def lanePos (v : BitVec 320) (n : Nat) (e : Int) : LaneTry (Option Nat) :=
  let x := intBits 64 e
  let ext := viewExtent v
  let out := decide (e < 0) || decide ((ext : Int) < e + n)
  if out ∧ (viewClamp v = 0 ∨ ext < n) then laneFail 1 .view x
  else if out ∧ viewClamp v = 2 then .ok none
  else
    let i : Nat := if out then (min (max e 0) ((ext : Int) - n)).toNat else e.toNat
    if viewStride v = 0 then .ok (some i)
    else
      let r := i % 2 ^ viewIlv v
      if 2 ^ viewIlv v < r + n then laneFail 2 .misalign i
      else .ok (some (i / 2 ^ viewIlv v * viewStride v + r))

/-- The home of `n` bytes in the view's space, with the page's entry for a global address. -/
def State.spacePlace (s : State) (h : Here) (space : Nat) (use : Use) (va n : Nat) :
    LaneTry (Place × List TlbEntry) :=
  if space = 0 then
    match s.translate h.ctx use va with
    | .ok (t, p) => .ok (p, [t])
    | .error e => .error (4, e)
  else match s.scratchPlace h.pack space va n with
    | some p => .ok (p, [])
    | none => laneFail 1 .view va

/-- A span in a scratchpad space lies in its window. -/
def State.inWindow (s : State) (h : Here) (space va n : Nat) : Bool :=
  space == 0 || (s.scratchPlace h.pack space va n).isSome

/-- The first byte of a span that a lock keeps from the access, before translation (R157). -/
def State.spaceLock (s : State) (h : Here) (space : Nat) (store : Bool) (va n : Nat) : Option Nat :=
  if space = 0 then s.lockHit h.pack store va (.host 0) n
  else match s.scratchPlace h.pack space va n with
    | some p => s.lockHit h.pack store va p n
    | none => none

/-- The scale and zero-point arrays that a lane's units use: each array's unit size, and the groups' addresses. -/
def groupAddrs (v : BitVec 320) (pos n : Nat) : List Nat × List Nat :=
  if viewSfmt v = 0 then ([], []) else
  let g0 := pos / groupLen v
  let gs := (upTo ((pos + n - 1) / groupLen v + 1 - g0)).map (fun i => g0 + i)
  let w := if viewSfmt v = 2 then 2 else 1
  (gs.map (fun g => (viewScl v + w * g) % 2 ^ 64), if viewZp v then gs.map (fun g => (viewZpp v + g) % 2 ^ 64) else [])

/-- KIND + 4 x STRIPESET of the page of an access (R192); 0 without a page. -/
def viaOf : List TlbEntry → Nat
  | t :: _ => leafKind t.leaf + 4 * leafStripe t.leaf
  | [] => 0

/-- The access of one lane (R142, R145): `none` for a void lane; with the pages it was translated through. The
checks run in the order VIEW, MISALIGN, LOCKHIT, translation. -/
def State.laneAccess (s : State) (h : Here) (v : BitVec 320) (z : Nat) (use : Use) (lane : Nat) (e : Int) :
    LaneTry (Option (LaneAcc × List TlbEntry)) := do
  let n := unitCount v z
  match ← lanePos v n e with
  | none => .ok none
  | some pos =>
    let space := viewSpace v
    let store := use != .load
    let wide := n * unitNibbles v z
    let nib := 2 * viewBase v + pos * unitNibbles v z
    let va := nib / 2 % 2 ^ 64
    let len := max 1 (wide / 2)
    let sw := if viewSfmt v = 2 then 2 else 1
    let scl : List Nat := (groupAddrs v pos n).1
    let zpp : List Nat := (groupAddrs v pos n).2
    let arrays : List (Nat × Nat) := scl.map (fun a => (a, sw)) ++ zpp.map (fun a => (a, 1))
    if !s.inWindow h space va len then laneFail 1 .view va else
    match arrays.find? (fun (x : Nat × Nat) => !s.inWindow h space x.1 x.2) with
    | some x => laneFail 1 .view x.1
    | none =>
    match ((va, len) :: arrays).findSome? (fun (x : Nat × Nat) => s.leashHit h.pack space x.1 x.2) with
    | some a => laneFail 1 .view a
    | none =>
    if 2 ≤ wide ∧ nib % wide ≠ 0 then laneFail 2 .misalign va else
    match scl.find? (fun a => a % sw != 0) with
    | some a => laneFail 2 .misalign a
    | none =>
    match s.spaceLock h space store va len with
    | some a => laneFail 3 .lockhit a
    | none =>
    match arrays.findSome? (fun (x : Nat × Nat) => s.spaceLock h space false x.1 x.2) with
    | some a => laneFail 3 .lockhit a
    | none => do
      let (p, t) ← s.spacePlace h space use va len
      let ss : List (Place × List TlbEntry) ← scl.mapM (fun a => s.spacePlace h space .load a sw)
      let zs : List (Place × List TlbEntry) ← zpp.mapM (fun a => s.spacePlace h space .load a 1)
      .ok (some ({ lane := lane, va := va, place := p, len := len, pos := pos,
                   scales := scl.zip (ss.map (fun x => x.1)), zeros := zpp.zip (zs.map (fun x => x.1)), via := viaOf t },
        t ++ ss.flatMap (fun x => x.2) ++ zs.flatMap (fun x => x.2)))

/-- XINFO with the lane that a cause was found in (R361). -/
def laneInfo (l : Nat) : BitVec 64 := BitVec.ofNat 64 (l * 2 ^ 16 + 2 ^ 21)

/-- The stop that is reported among lanes (R142): that of the least rank, and among equals of the lowest lane. -/
def worstLane {α : Type} (rs : List (Nat × LaneTry α)) : Option Stop :=
  let fails := rs.filterMap (fun x => match x.2 with | .error (r, e) => some (x.1, r, e) | .ok _ => none)
  let least := fails.foldl (fun acc x => match acc with
    | none => some x
    | some y => if x.2.1 < y.2.1 then some x else some y) (none : Option (Nat × Nat × Stop))
  least.map (fun x => match x.2.2 with
    | .raise c a i p => .raise c a (i ||| laneInfo x.1) p
    | e => e)

/-- All lanes, or the stop that is reported. -/
def allLanes {α : Type} (rs : List (Nat × LaneTry α)) : Res (List (Nat × α)) :=
  match worstLane rs with
  | some e => .error e
  | none => .ok (rs.filterMap (fun x => match x.2 with | .ok a => some (x.1, a) | .error _ => none))

/-! ## Watchpoints (R371) -/

/-- Watchpoint `i` of a context watches a byte for a read or a write. -/
def watches (x : Context) (rd wr : Bool) (va i : Nat) : Bool :=
  let ctl := (Map.get 0 x.wctl i).toNat
  let base := (Map.get 0 x.waddr i).toNat
  let size := 2 ^ min (ctl / 2 ^ 8 % 32) 30
  ((rd && ctl / 2 ^ 4 % 2 == 1) || (wr && ctl / 2 ^ 5 % 2 == 1)) && decide (base ≤ va) && decide (va < base + size)

/-- One byte range that an access touches: its lane (none for a uniform access), its first address, its bytes, and
whether it reads and writes. -/
structure Touch where
  lane : Option Nat
  va   : Nat
  ixs  : List Nat
  rd   : Bool
  wr   : Bool

/-- The lowest watched byte of a range. -/
def Touch.hit (x : Context) (i : Nat) (t : Touch) : Option Nat :=
  (t.ixs.find? (fun k => watches x t.rd t.wr (t.va + k) i)).map (fun k => t.va + k)

/-- The lowest watched byte that ranges touch, whichever watchpoint watches it (R358). -/
def lowestWatched (x : Context) (ts : List Touch) : Option Nat :=
  ts.foldl (fun acc t => (upTo 16).foldl (fun b i => minIx b (t.hit x i)) acc) none

/-- The check made after every other check of the instruction: the lowest watchpoint, the lowest lane that it matches, and the
lowest watched byte touched. -/
def watchCheck (h : Here) (ts : List Touch) : Res Unit :=
  if h.warp.skipWatch then .ok () else
  match (upTo 16).findSome? (fun i => (ts.findSome? (fun t => (t.hit h.ctx i).map (fun _ => t.lane))).map (fun y => (i, y))) with
  | some (i, l) => .error (.raise .watch (BitVec.ofNat 64 ((lowestWatched h.ctx ts).getD 0))
      ((match l with | some n => laneInfo n | none => 0) ||| BitVec.ofNat 64 (i * 2 ^ 28)) false)
  | none => .ok ()

/-- What a global access touches: its span, and its scales and zero points, which it reads. -/
def accTouches (v : BitVec 320) (rd wr : Bool) (a : LaneAcc) : List Touch :=
  { lane := some a.lane, va := a.va, ixs := upTo a.len, rd := rd, wr := wr } ::
    (a.scales.map (fun x => ({ lane := some a.lane, va := x.1, ixs := upTo (if viewSfmt v = 2 then 2 else 1), rd := true, wr := false } : Touch)) ++
     a.zeros.map (fun x => ({ lane := some a.lane, va := x.1, ixs := [0], rd := true, wr := false } : Touch)))

/-! ## Send allowance (R42, R256, R309) -/

/-- The units that are reserved at a peer for a requester other than `r`. -/
def otherReserved (e : Peer) (r : Requester) : Nat := ((e.reserved.filter (fun q => q.1 != r)).map (fun q => q.2)).sum

def reservedFor (e : Peer) (r : Requester) : Bool := e.reserved.any (fun q => q.1 == r)

/-- The units of a requester's reservation that a word of `units` leaves for the other words of its packet. -/
def spendReserved (r : Requester) (units : Nat) (l : List (Requester × Nat)) : List (Requester × Nat) :=
  l.filterMap (fun q => if q.1 = r then (if q.2 ≤ units then none else some (r, q.2 - units)) else some q)

/-- The word can be sent to the peer at once: units are reserved for it, or no earlier requester waits and the
unreserved allowance covers it. -/
def sendable (e : Peer) (r : Requester) (units : Nat) : Bool :=
  decide (units + otherReserved e r ≤ e.allow) && (reservedFor e r || (e.queue.isEmpty))

/-- Spend units of a peer's allowance. -/
def State.spend (s : State) (p : Nat) (r : Requester) (units : Nat) : State :=
  let e := s.peer p
  s.setPeer p { e with allow := e.allow - units, reserved := spendReserved r units e.reserved }

/-- Charge a word of the issuing warp: `needs` gives the units by peer. The warp goes at heel on the lowest-numbered
peer that cannot take the word. -/
def State.charge (s : State) (needs : List (Nat × Nat)) : Res State :=
  let r := Requester.warp s.cur.1 s.cur.2
  let bad := needs.filter (fun x => !sendable (s.peer x.1) r x.2)
  match bad with
  | [] => .ok (needs.foldl (fun t x => t.spend x.1 r x.2) s)
  | b :: bs =>
    let m := bs.foldl (fun acc x => if x.1 < acc.1 then x else acc) b
    .error (.block (.heel m.1 m.2))

/-- The units of a lane word for each peer: the 256-byte blocks that its bytes touch (R256). -/
def peerUnits (bytes : List (Place × Nat)) : List (Nat × Nat) :=
  let ps := (bytes.filterMap (fun b => b.1.peer?)).eraseDups
  ps.map (fun p => (p, ((bytes.filterMap (fun b => if b.1.peer? = some p then some (b.2 / 256) else none)).eraseDups).length))

/-- Keep the pages of an access in the translation caches (R369). -/
def State.cachePages (s : State) (c : Nat) (ts : List TlbEntry) : State :=
  let walked : State := match s.ctx? c with
    | some x => ts.foldl (fun u t => State.walked u x t.base) s
    | none => s
  walked.modCtx c (fun x => ts.foldl Context.cachePage x)

end Sys2Proof.Machine
end

