-- ==== Sys2Proof/Machine/Memory.lean ====
section
/-! DEFINITION. Reads and writes at their homes: the conversion stage (R143, R144), the L1 (R123, R124), stores held
for migrating pages (R194), and the order in which a warp's accesses may be performed (R166, R170). -/

namespace Sys2Proof.Machine

/-! ## Home bytes and the L1 -/

/-- Something folded over the stores held for migrating pages, in arrival order (R194): each one's bytes and whether they are
poisoned. -/
def State.overHeld {α : Type} (s : State) (f : α → List StoreByte → Bool → α) (a : α) : α :=
  s.contexts.foldl (fun acc c => match c with
    | some x => x.held.foldl (fun b r => match r with
        | .store bs bad => f b bs bad
        | .atomic _ _ _ _ _ | .agent _ _ _ => b) acc
    | none => acc) a

/-- A byte with the held stores of migrating pages merged in arrival order (R194). -/
def State.heldByte (s : State) (pa : Nat) (b : BitVec 8) : BitVec 8 :=
  s.overHeld (fun a bs _ => bs.foldl (fun a2 y =>
    if y.place = .dram pa then (a2 &&& ~~~y.mask) ||| (y.val &&& y.mask) else a2) a) b

/-- The byte that a load finds at a home. -/
def State.homeByte (s : State) : Place → BitVec 8
  | .dram pa => s.heldByte pa (s.dram.read pa)
  | p => s.readPlace p

/-- The poison that a load finds at a home (R390), with the held stores merged: one of poisoned bytes sets it, one that covers the
granule clears it. -/
def State.homeBad (s : State) (p : Place) : Bool :=
  match p with
  | .dram _ => s.overHeld (fun a bs bad =>
      if !bs.any (fun y => granule y.place == granule p) then a else if bad then true
      else if wholeGranule bs p then false else a) (s.badPlace p)
  | _ => s.badPlace p

/-- The poison that an access of a die's agent finds at a home, the die link's included (R395). -/
def State.homeBadFrom (s : State) (die : Nat) (p : Place) : Bool := s.homeBad p || s.linkBad die p

/-- A core's L1 holds a byte that a load may take from it (R123). -/
def State.inL1 (s : State) (core : Nat) (useL1 : Bool) (p : Place) : Bool :=
  match p with
  | .dram pa => useL1 && (Map.get none (s.core core).l1 pa).isSome
  | _ => false

/-- The byte that a load of a core finds: the L1's copy where it may use the L1 (R123). -/
def State.loadByte (s : State) (core : Nat) (useL1 : Bool) (p : Place) : BitVec 8 :=
  match p with
  | .dram pa => if useL1 then (match Map.get none (s.core core).l1 pa with | some b => b | none => s.homeByte p) else s.homeByte p
  | _ => s.homeByte p

/-- A core whose L1 has given up a 128-byte line. -/
def Core.dropLine (k : Core) (n : Nat) : Core :=
  { k with l1 := Map.dropRange k.l1 (n * 128) (n * 128 + 128), lines := k.lines.filter (fun l => l.1 != n) }

/-- The lines that an L1 holds: 256 KiB of 128 bytes (R4, R123). -/
def l1Lines : Nat := 2048

/-- A core whose L1 has a place for line `n`, marked `first` for replacement or not (R123). A full L1 gives up a line that is marked
so, or any line if none is; which of them is a choice that no rule gives. -/
def Core.makeLine (k : Core) (choice n : Nat) (first : Bool) : Core :=
  if k.lines.any (fun l => l.1 == n) then { k with lines := k.lines.map (fun l => if l.1 = n then (n, first) else l) }
  else
    let marked := k.lines.filter (fun l => l.2)
    let pool := if marked.isEmpty then k.lines else marked
    let k1 := if k.lines.length < l1Lines then k
      else match pool[Config.freeChoice choice % pool.length]? with
        | some l => k.dropLine l.1
        | none => k
    { k1 with lines := k1.lines ++ [(n, first)] }

/-- A core's L1 filled with a 64-byte sector from its home. -/
def State.fillSector (s : State) (core sector : Nat) (first : Bool) : State :=
  s.modCore core (fun k =>
    let k1 := k.makeLine (s.fresh + sector) (sector / 2) first
    { k1 with l1 := (upTo 64).foldl (fun m i => Map.set none m (sector * 64 + i) (some (s.homeByte (.dram (sector * 64 + i))))) k1.l1 })

/-- What a load's reply does to its core's L1 (R123, R124): fill what it missed, fill the sector anew (an acquire), give up the
line (CPOL 2), or nothing (a fill that was requested before an acquire). -/
inductive L1Fill where
  | miss (first : Bool)
  | renew (first : Bool)
  | drop
  | skip
  deriving DecidableEq, Repr

/-- The reply of a load, at one byte. What a load that passes over the L1 read is no older than what the L1 holds, so the L1 keeps
no copy that a later load of the warp could find older (R166). -/
def State.fillL1 (s : State) (core : Nat) (how : L1Fill) : Place → State
  | .dram pa =>
    match how with
    | .miss first => if (Map.get none (s.core core).l1 pa).isSome then s else s.fillSector core (pa / 64) first
    | .renew first => s.fillSector core (pa / 64) first
    | .drop => s.modCore core (fun k => k.dropLine (pa / 128))
    | .skip => s
  | _ => s

/-- How the reply of an operation fills the L1: `cpol` is its view's policy. -/
def State.fillFor (s : State) (core : Nat) (f : Flight) (cpol : Nat) : L1Fill :=
  if cpol = 2 then .drop
  else if f.gen = (s.core core).l1Gen then (if f.acquire.isSome then .renew (cpol == 1) else .miss (cpol == 1))
  else if f.acquire.isSome then .drop else .skip

/-- The L1 fills of the bytes that a reply has read, sector by sector. -/
def State.fillSectors (s : State) (core : Nat) (how : L1Fill) (ps : List Place) : State :=
  ((ps.filterMap (fun p => match p with | .dram pa => some (pa / 64) | _ => none)).eraseDups).foldl
    (fun t n => t.fillL1 core how (.dram (n * 64))) s

/-- An acquire of a wide scope empties the core's L1 (R124). -/
def State.clearL1 (s : State) (core : Nat) : State :=
  s.modCore core (fun k => { k with l1 := [], lines := [], l1Gen := k.l1Gen + 1 })

/-- An acquire by a warp of a core (R124, R170). -/
def State.acquireAt (s : State) (core : Nat) (sc : Scope) : State := if sc.wide then s.clearL1 core else s

/-- A store updates the copies that its core's L1 holds; an atomic or release store removes its line (R123). -/
def State.storeL1 (s : State) (core : Nat) (remove : Bool) (b : StoreByte) : State :=
  match b.place with
  | .dram pa =>
    if remove then s.modCore core (fun k => k.dropLine (pa / 128)) else
    match Map.get none (s.core core).l1 pa with
    | some old => s.modCore core (fun k => { k with l1 := Map.set none k.l1 pa (some ((old &&& ~~~b.mask) ||| (b.val &&& b.mask))) })
    | none => s
  | _ => s

/-! ## Migrating pages (R193, R194, R393) -/

/-- An address lies in a page. -/
def TlbEntry.covers (t : TlbEntry) (va : Nat) : Bool := decide (t.base ≤ va) && decide (va < t.base + t.size)

/-- The page of an address is migrating: its leaf says so, or did until an invalidation that is not acknowledged yet (R194). -/
def State.migrating (s : State) (x : Context) (va : Nat) : Bool :=
  x.moving.any (fun t => t.covers va) ||
  (match s.page x va with
  | .ok t => leafMig t.leaf
  | .error _ => false)

/-- The line requests of a held request, as physical line numbers (R127). -/
def HeldReq.lines : HeldReq → List Nat
  | .store bs _ => (bs.filterMap (fun y => match y.place with | .dram pa => some (pa / 128) | _ => none)).eraseDups
  | .atomic _ _ _ pas _ | .agent _ _ pas => (pas.map (fun pa => pa / 128)).eraseDups

/-- A request joins those that the slices hold for a context's migrating pages, last (R194). -/
def State.holdReq (s : State) (c : Nat) (r : HeldReq) : State := s.modCtx c (fun y => { y with held := y.held ++ [r] })

/-- The physical addresses of places in local memory. -/
def localPas (ps : List Place) : List Nat := ps.filterMap (fun p => match p with | .dram pa => some pa | _ => none)

/-- The requests that a slice holds for migrating pages, of every context. -/
def State.heldIn (s : State) (slice : Nat) : Nat :=
  s.contexts.foldl (fun n c => match c with
    | some x => n + ((x.held.flatMap HeldReq.lines).filter (fun l => homeSlice (l * 128) == slice)).length
    | none => n) 0

/-- A slice has no room for its requests of the lines: it holds up to 1,024 (R194). -/
def State.sliceFull (s : State) (lines : List Nat) : Bool :=
  lines.any (fun l => decide (1024 < s.heldIn (homeSlice (l * 128)) +
    (lines.filter (fun m => homeSlice (m * 128) == homeSlice (l * 128))).length))

/-- Bytes that a write through migrating pages finds no room for. -/
def State.noRoom (s : State) (x : Context) (bs : List StoreByte) : Bool :=
  match bs.filter (fun b => (match b.place with | .dram _ => true | _ => false) && s.migrating x b.va) with
  | [] => false
  | mig => s.sliceFull (HeldReq.lines (.store mig false))

/-- The home of a byte for an access translated in epoch `epoch`: after the acknowledgement of an invalidation that overtook it, the
one that the present translation names (R191, R194). -/
def State.refresh (s : State) (x : Context) (epoch : BitVec 64) (va : Nat) (p : Place) : Place :=
  let now : Place :=
    if x.ackEpoch.toNat ≤ epoch.toNat then p else
    match s.page x va with
    | .ok t => (match pagePlace t va with | some q => q | none => p)
    | .error _ => p
  match p with
  | .dram _ | .host _ => now
  | _ => p

/-- A byte's home is local memory. -/
def Place.isDram : Place → Bool
  | .dram _ => true
  | _ => false

/-- Keep what bytes of local memory held before a write (R181). -/
def State.keepPrev (s : State) (bs : List StoreByte) : State :=
  { s with
    wseq := s.wseq + 1
    prev := bs.foldl (fun m b => match b.place with
      | .dram pa => Map.set [] m pa ((s.wseq + 1, s.dram.read pa) :: Map.get [] m pa)
      | _ => m) s.prev }

/-- Write bytes at their homes; poisoned ones poison every granule that they touch (R390). -/
def State.writeBytes (s : State) (bs : List StoreByte) (bad : Bool) : State :=
  let s1 := s.writeAll bs
  if bad then bs.foldl (fun t b => t.setBad b.place true) s1 else s1

/-- Perform bytes of context `c`, poisoned or not, at their homes: those of a migrating page join its held requests (R194,
R393). -/
def State.performBytes (s0 : State) (c : Nat) (bs : List StoreByte) (bad : Bool := false) : State :=
  let s := s0.keepPrev bs
  match s.ctx? c with
  | none => s.writeBytes bs bad
  | some x =>
    let mig := bs.filter (fun b => b.place.isDram && s.migrating x b.va)
    let s1 := s.writeBytes (bs.filter (fun b => !(b.place.isDram && s.migrating x b.va))) bad
    if mig.isEmpty then s1 else s1.holdReq c (.store mig bad)

/-- Bytes that an agent of a die writes: those that the die link spoils on their way reach their homes as poison (R395). -/
def State.performFrom (s : State) (die c : Nat) (bs : List StoreByte) (bad : Bool := false) : State :=
  match bs.filter (fun b => s.linkBad die b.place) with
  | [] => s.performBytes c bs bad
  | hit =>
    let t := (s.performBytes c (bs.filter (fun b => !s.linkBad die b.place)) bad).performBytes c hit true
    hit.foldl (fun u b => u.crossed die b.place) t

/-- Bytes written from `va` of context `c` by the part itself. -/
def State.partWrite (s : State) (c : Nat) (x : Context) (va : Nat) (bs : List (BitVec 8)) : Res State := do
  let ps ← s.spanPlaces x .store va bs.length
  .ok (s.performBytes c (wholeBytes va ps bs))

/-- The lanes of the issuing warp that have made a side effect (R38). -/
def State.markLanes (s : State) (m : BitVec 32) : State := s.setCur (fun w => { w with sideEff := w.sideEff ||| m })

/-! ## The conversion stage (R143 to R145) -/

/-- The value of unit `i` of a span: its bytes, or its half byte (R97). -/
def unitBits (wn pos : Nat) (bytes : List (BitVec 8)) (i : Nat) : Nat :=
  if wn = 1 then
    let k := pos % 2 + i
    (bytes.getD (k / 2) 0).toNat / 16 ^ (k % 2) % 16
  else leNat ((bytes.drop (i * (wn / 2))).take (wn / 2))

/-- A unit converted to RENC (R143), with its group's scale and zero point. -/
def unitIn (v : BitVec 320) (x : Nat) (scale zp : Nat) : Nat :=
  let enc := viewEnc v
  encRound (viewRenc v) (match viewSfmt v with
    | 0 => encVal enc x
    | 1 => (mulVal (e8m0Val scale) (encVal enc x)).1
    | _ => (mulVal (fp16.decode scale) (valInt (intOf enc x - (if viewZp v then signedOf 8 zp else 0)))).1)

/-- `x / s` rounded to an integer, ties to even, for a finite `x` and a finite nonzero `s` (R144). -/
def divRound (m : Nat) (e : Int) (n : Nat) (f : Int) : Nat :=
  let a := m * 2 ^ (e - min e f).toNat
  let b := n * 2 ^ (f - min e f).toNat
  let q := a / b
  let r := a % b
  if b < 2 * r ∨ (2 * r = b ∧ q % 2 = 1) then q + 1 else q

/-- A value of RENC converted to a unit (R144). -/
def unitOut (v : BitVec 320) (r : Nat) (scale zp : Nat) : Nat :=
  let enc := viewEnc v
  let x := encVal (viewRenc v) r
  match viewSfmt v with
  | 0 => encRound enc x
  | 1 =>
    let inv : Val := match e8m0Val scale with | .num _ m e => .num false m (-e) | w => w
    encRound enc (mulVal x inv).1
  | _ =>
    let z : Int := if viewZp v then signedOf 8 zp else 0
    let (lo, hi) := (intRange enc).getD (0, 0)
    let sat (i : Int) : Nat := intBits (encBits enc) (max lo (min hi i))
    match x, fp16.decode scale with
    | .nan _, _ => sat z
    | _, .nan _ => sat z
    | _, .inf _ => sat z
    | .inf a, .num b m _ => if m = 0 then sat z else if a != b then sat lo else sat hi
    | .num a m e, .num b n f =>
      if n = 0 then sat z else
      let q : Int := divRound m e n f
      sat ((if a != b then -q else q) + z)

/-- The scale and zero point of unit `i`, among those of the lane's groups in order. -/
def unitGroup (v : BitVec 320) (pos i : Nat) : Nat := (pos + i) / groupLen v - pos / groupLen v

/-- The `z` bytes that a lane's registers receive, as one number (R143, R246). -/
def laneIn (v : BitVec 320) (z pos : Nat) (bytes : List (BitVec 8)) (scales zeros : List Nat) : Nat :=
  if viewConv v then
    let rb := encBits (viewRenc v)
    ((upTo (unitCount v z)).map (fun i =>
      unitIn v (unitBits (unitNibbles v z) pos bytes i) (scales.getD (unitGroup v pos i) 0) (zeros.getD (unitGroup v pos i) 0)
        * 2 ^ (rb * i))).sum
  else leNat bytes

/-- The bytes and masks that a lane stores (R144, R146), `x` being its registers' `z` bytes as one number. -/
def laneOut (v : BitVec 320) (z pos x : Nat) (scales zeros : List Nat) : List (BitVec 8 × BitVec 8) :=
  if viewConv v then
    let rb := encBits (viewRenc v)
    let wn := unitNibbles v z
    let unit (i : Nat) : Nat :=
      unitOut v (x / 2 ^ (rb * i) % 2 ^ rb) (scales.getD (unitGroup v pos i) 0) (zeros.getD (unitGroup v pos i) 0)
    if wn = 1 then
      let n := unitCount v z
      (upTo ((pos % 2 + n + 1) / 2)).map (fun b =>
        let nib (k : Nat) : Nat × Nat := if pos % 2 ≤ k ∧ k < pos % 2 + n then (15, unit (k - pos % 2) % 16) else (0, 0)
        let (m0, x0) := nib (2 * b)
        let (m1, x1) := nib (2 * b + 1)
        (BitVec.ofNat 8 (m0 + 16 * m1), BitVec.ofNat 8 (x0 + 16 * x1)))
    else ((upTo (unitCount v z)).flatMap (fun i => leBytes (wn / 2) (unit i))).map (fun b => (0xFF, b))
  else (leBytes z x).map (fun b => (0xFF, b))

/-! ## The order of a warp's accesses (R166, R170) -/

/-- A byte with the earlier stores of its own warp that are still to be performed (R166). -/
def Warp.forward (w : Warp) (id : Nat) (p : Place) (b : BitVec 8) : BitVec 8 :=
  w.flight.foldl (fun acc g =>
    if g.done || decide (id ≤ g.id) then acc else
    match g.kind with
    | .store bs _ _ _ => bs.foldl (fun a y => if y.place = p then (a &&& ~~~y.mask) ||| (y.val &&& y.mask) else a) acc
    | _ => acc) b

/-- The poison of a byte as the warp's own earlier stores that are still to be performed leave it: one that covers the byte's granule
whole clears it (R166, R390). -/
def Warp.forwardBad (w : Warp) (id : Nat) (p : Place) (bad : Bool) : Bool :=
  w.flight.foldl (fun acc g =>
    if g.done || decide (id ≤ g.id) then acc else
    match g.kind with
    | .store bs _ _ _ => acc && !wholeGranule bs p
    | _ => acc) bad

/-- A fault held pending joins the others in order of age. -/
def Warp.hold (w : Warp) (f : PendFault) : Warp :=
  { w with pending := w.pending.filter (fun g => decide (g.seq ≤ f.seq)) ++ f :: w.pending.filter (fun g => decide (f.seq < g.seq)) }

end Sys2Proof.Machine
end

