-- ==== Sys2Proof/Machine/Uniform.lean ====
section
/-! DEFINITION. Uniform words (R210 to R216) and the special registers (R217 to R223, R361, R362). -/

namespace Sys2Proof.Machine

/-- A uniform word of two sources: KB, or the literal (R72, R210). -/
def uniform (s : State) (kd ka kb : BitVec 6) (f : BitVec 64 → BitVec 64 → BitVec 64) (h : Here) : Res State :=
  done s (fun w => w.setK kd.toNat (f (h.warp.kreg ka.toNat) (h.warp.kregB h.lit kb)))

/-- The number of leading zero bits. -/
def leadingZeros {n : Nat} (x : BitVec n) : Nat := n - bitLen x.toNat

/-- The number of set bits. -/
def bitCount {n : Nat} (x : BitVec n) : Nat := ((upTo n).filter (fun i => x.getLsbD i)).length

/-- The field of `ubfe` (R212): POS, LEN and S from the controls. -/
def extractWide (a b : BitVec 64) : BitVec 64 :=
  let pos := b.toNat % 64
  let len := min (b.toNat / 2 ^ 8 % 128) 64
  let f : Nat := (a >>> pos).toNat % 2 ^ len
  if b.getLsbD 16 && decide (0 < len) && decide (2 ^ (len - 1) ≤ f) then BitVec.ofInt 64 (Int.ofNat f - Int.ofNat (2 ^ len))
  else BitVec.ofNat 64 f

/-- The conditions of `ucmp` (R213). -/
def uniformCond (c : Nat) (a b : BitVec 64) : Bool :=
  match c with
  | 0 => a == b
  | 1 => a != b
  | 2 => a.slt b
  | 3 => a.sle b
  | 4 => b.slt a
  | 5 => b.sle a
  | 6 => a.ult b
  | 7 => a.ule b
  | 8 => b.ult a
  | _ => b.ule a

def execUadd (kd ka kb : BitVec 6) (s : State) : Host.Outcome State Fault Refusal :=
  runWord (.uadd kd ka kb) s (uniform s kd ka kb (fun a b => a + b))

def execUsub (kd ka kb : BitVec 6) (s : State) : Host.Outcome State Fault Refusal :=
  runWord (.usub kd ka kb) s (uniform s kd ka kb (fun a b => a - b))

def execUmul (kd ka kb : BitVec 6) (s : State) : Host.Outcome State Fault Refusal :=
  runWord (.umul kd ka kb) s (uniform s kd ka kb (fun a b => a * b))

def execUmulh (kd ka kb : BitVec 6) (s : State) : Host.Outcome State Fault Refusal :=
  runWord (.umulh kd ka kb) s (uniform s kd ka kb (fun a b => BitVec.ofNat 64 (a.toNat * b.toNat / 2 ^ 64)))

def execUand (kd ka kb : BitVec 6) (s : State) : Host.Outcome State Fault Refusal :=
  runWord (.uand kd ka kb) s (uniform s kd ka kb (fun a b => a &&& b))

def execUor (kd ka kb : BitVec 6) (s : State) : Host.Outcome State Fault Refusal :=
  runWord (.uor kd ka kb) s (uniform s kd ka kb (fun a b => a ||| b))

def execUxor (kd ka kb : BitVec 6) (s : State) : Host.Outcome State Fault Refusal :=
  runWord (.uxor kd ka kb) s (uniform s kd ka kb (fun a b => a ^^^ b))

def execUshl (kd ka kb : BitVec 6) (s : State) : Host.Outcome State Fault Refusal :=
  runWord (.ushl kd ka kb) s (uniform s kd ka kb (fun a b => a <<< (b.toNat % 64)))

def execUshr (kd ka kb : BitVec 6) (s : State) : Host.Outcome State Fault Refusal :=
  runWord (.ushr kd ka kb) s (uniform s kd ka kb (fun a b => a >>> (b.toNat % 64)))

def execUsar (kd ka kb : BitVec 6) (s : State) : Host.Outcome State Fault Refusal :=
  runWord (.usar kd ka kb) s (uniform s kd ka kb (fun a b => a.sshiftRight (b.toNat % 64)))

def execUmin (kd ka kb : BitVec 6) (s : State) : Host.Outcome State Fault Refusal :=
  runWord (.umin kd ka kb) s (uniform s kd ka kb (fun a b => if a.slt b then a else b))

def execUmax (kd ka kb : BitVec 6) (s : State) : Host.Outcome State Fault Refusal :=
  runWord (.umax kd ka kb) s (uniform s kd ka kb (fun a b => if a.slt b then b else a))

def execUbfe (kd ka kb : BitVec 6) (s : State) : Host.Outcome State Fault Refusal :=
  runWord (.ubfe kd ka kb) s (uniform s kd ka kb (fun a b => extractWide a b))

def execUmov (kd ka : BitVec 6) (s : State) : Host.Outcome State Fault Refusal :=
  runWord (.umov kd ka) s (uniform s kd ka 0 (fun a _ => a))

def execUclz (kd ka : BitVec 6) (s : State) : Host.Outcome State Fault Refusal :=
  runWord (.uclz kd ka) s (uniform s kd ka 0 (fun a _ => BitVec.ofNat 64 (leadingZeros a)))

def execUcnt (kd ka : BitVec 6) (s : State) : Host.Outcome State Fault Refusal :=
  runWord (.ucnt kd ka) s (uniform s kd ka 0 (fun a _ => BitVec.ofNat 64 (bitCount a)))

/-- `umad` (R211): k[KD] is read before the packet. -/
def execUmad (kd ka kb : BitVec 6) (s : State) : Host.Outcome State Fault Refusal :=
  runWord (.umad kd ka kb) s (fun h => uniform s kd ka kb (fun a b => a * b + h.warp.kreg kd.toNat) h)

/-- `ucmp` (R213). -/
def execUcmp (n : BitVec 3) (ka kb fn : BitVec 6) (s : State) : Host.Outcome State Fault Refusal :=
  runWord (.ucmp n ka kb fn) s (fun h =>
    done s (fun w => w.setC n.toNat (uniformCond fn.toNat (h.warp.kreg ka.toNat) (h.warp.kregB h.lit kb))))

/-- `usel` (R213). -/
def execUsel (kd ka kb : BitVec 6) (n : BitVec 3) (s : State) : Host.Outcome State Fault Refusal :=
  runWord (.usel kd ka kb n) s (fun h => uniform s kd ka kb (fun a b => if h.warp.c.getLsbD n.toNat then a else b) h)

/-- `uli` (R214): 18 bits, or 42 with a literal, sign-extended. -/
def execUli (kd : BitVec 6) (imm : BitVec 18) (s : State) : Host.Outcome State Fault Refusal :=
  runWord (.uli kd imm) s (fun h => done s (fun w => w.setK kd.toNat (match h.lit with
    | some p => (p ++ imm).signExtend 64
    | none => imm.signExtend 64)))

/-! ## Uniform memory (R215, R216) -/

/-- The effective address (R215): the offset is 12 bits, or 36 with a literal. -/
def uniformEa (h : Here) (ka : BitVec 6) (off : BitVec 12) : BitVec 64 :=
  h.warp.kreg ka.toNat + (match h.lit with
    | some p => (p ++ off).signExtend 64
    | none => off.signExtend 64)

/-- The space that an effective address selects, and the address in it. -/
def uniformSpace (ea : BitVec 64) : Nat × Nat :=
  match ea.toNat / 2 ^ 56 with
  | 0x80 => (1, ea.toNat % 2 ^ 56)
  | 0x81 => (2, ea.toNat % 2 ^ 56)
  | _ => (0, ea.toNat)

/-- The access of a uniform word, with the checks of R215 in order: each cause has XADDR = EA. -/
def State.uniformAccess (s : State) (h : Here) (use : Use) (ea : BitVec 64) : Res (LaneAcc × List TlbEntry) :=
  let space := (uniformSpace ea).1
  let addr := (uniformSpace ea).2
  if !s.inWindow h space addr 8 then raiseAt .view ea.toNat else
  match s.leashHit h.pack space addr 8 with
  | some a => raiseAt .view (ea.toNat + (a - addr))
  | none =>
  if ea.toNat % 8 ≠ 0 then raiseAt .misalign ea.toNat else
  if (s.spaceLock h space (use != .load) addr 8).isSome then raiseAt .lockhit ea.toNat else
  match s.spacePlace h space use addr 8 with
  | .error (_, .raise c _ i p) => .error (.raise c ea i p)
  | .error (_, e) => .error e
  | .ok (p, ts) => do
    if space = 0 then
      watchCheck h [{ lane := none, va := addr, ixs := upTo 8, rd := use == .load, wr := use != .load }]
    .ok ({ lane := 0, va := addr, place := p, len := 8, pos := 0, scales := [], zeros := [] }, ts)

/-- `uld` (R216): one plain 8-byte load, counted on LANE-LD. -/
def execUld (kd ka : BitVec 6) (off : BitVec 12) (s : State) : Host.Outcome State Fault Refusal :=
  runWord (.uld kd ka off) s (fun h => do
    let (acc, ts) ← s.uniformAccess h .load (uniformEa h ka off)
    (s.cachePages h.pack.ctx ts).issueFlight h .laneLd (.uload kd acc) none none false)

/-- `ust` (R216): one plain 8-byte store, counted on LANE-ST; to a peer it costs one unit (R256). -/
def execUst (kd ka : BitVec 6) (off : BitVec 12) (s : State) : Host.Outcome State Fault Refusal :=
  runWord (.ust kd ka off) s (fun h => do
    let (acc, ts) ← s.uniformAccess h .store (uniformEa h ka off)
    let s1 ← s.charge (match acc.place.peer? with | some p => [(p, 1)] | none => [])
    let bytes : List StoreByte := (upTo 8).map (fun i =>
      { va := acc.va + i, via := viaOf ts, place := acc.place.plus i, mask := 0xFF,
        val := BitVec.ofNat 8 ((h.warp.kreg kd.toNat).toNat / 256 ^ i) })
    ((s1.cachePages h.pack.ctx ts).markLanes h.warp.exec).issueFlight h .laneSt (.store bytes 0 8 []) none none (!ts.isEmpty))

/-! ## Special registers -/

/-- The fields of WHO (R219). -/
def whoOf (w : Warp) : Nat :=
  roleLanes w.role * 2 ^ 16 + roleCode w.role * 2 ^ 14 + w.kbud.toNat * 2 ^ 12 +
  (if w.role = .epilogue then w.vbud.toNat * 2 ^ 10 else 0) + w.num

/-- The counters of INFLT (R221). -/
def infltOf (w : Warp) : Nat :=
  w.counter .fab * 2 ^ 32 + w.counter .math * 2 ^ 24 + w.counter .copy * 2 ^ 16 + w.counter .laneSt * 2 ^ 8 + w.counter .laneLd

/-- The entry that RSSEL names (R223). -/
def Warp.selected (w : Warp) : StackEntry := Map.get {} w.stack w.rssel.toNat

def Warp.setEntry (w : Warp) (e : StackEntry) : Warp := { w with stack := Map.set {} w.stack w.rssel.toNat e }

/-- The value of a special register (R218). -/
def specialValue (s : State) (h : Here) (idx : Nat) : BitVec 64 :=
  let p := h.pack
  let w := h.warp
  let grid (a b : Nat) : BitVec 64 := BitVec.ofNat 64 (a * 2 ^ 16 + b)
  match idx with
  | 0x000 => BitVec.ofNat 64 (whoOf w)
  | 0x001 => BitVec.ofNat 64 (if p.wave then 0 else p.x)
  | 0x002 => if p.wave then 0 else grid p.z p.y
  | 0x003 => BitVec.ofNat 64 (if p.wave then 1 else pktGx p.pkt)
  | 0x004 => if p.wave then grid 1 1 else grid (pktGz p.pkt) (pktGy p.pkt)
  | 0x005 => BitVec.ofNat 64 (p.rank * 2 ^ 4 + p.size)
  | 0x006 => p.lseq
  | 0x007 => BitVec.ofNat 64 (placeBits p.core + (if w.role = .epilogue then w.quad else 0))
  | 0x008 => w.exec.setWidth 64
  | 0x010 => w.fpmode.setWidth 64
  | 0x011 => w.fpflags.setWidth 64
  | 0x012 => w.repc.setWidth 64
  | 0x013 => w.depth.setWidth 64
  | 0x014 => BitVec.ofNat 64 (infltOf w)
  | 0x015 => s.dieCycle.getD (dieOf p.core) 0
  | 0x020 => w.xpc
  | 0x021 => w.xcause
  | 0x022 => w.xaddr
  | 0x023 => w.xinfo
  | 0x024 => w.rssel.setWidth 64
  | 0x025 => w.selected.addr
  | 0x026 => BitVec.ofNat 64 ((match w.selected.kind with | .pending => 2 ^ 32 | .rejoin => 0) + w.selected.mask.toNat)
  | 0x027 => w.xscr0
  | 0x028 => w.xscr1
  | _ => 0

/-- The bits of XCAUSE and of the two forms of XINFO that a write keeps (R361). -/
def xcauseMask : BitVec 64 := 0x3003F
def xinfoMask (x : BitVec 64) : BitVec 64 := if x.getLsbD 63 then 0x81FFFFFFFFFFFFFC else 0xF73F3F0F
/-- The bits of REPC (R76). -/
def repcMask : BitVec 32 := 0x01FF007F

/-- A warp with a special register written (R217, R222, R223). -/
def setSpecial (w : Warp) (idx : Nat) (x : BitVec 64) : Warp :=
  match idx with
  | 0x008 =>
    let e := x.extractLsb' 0 32 &&& w.live
    if w.role = .epilogue ∧ e ≠ 0 then { w with exec := e } else w
  | 0x010 => { w with fpmode := x.extractLsb' 0 2 }
  | 0x011 => { w with fpflags := x.extractLsb' 0 5 }
  | 0x012 => { w with repc := x.extractLsb' 0 32 &&& repcMask }
  | 0x013 => { w with depth := if 32 < x.toNat % 64 then 32 else x.extractLsb' 0 6 }
  | 0x020 => { w with xpc := x }
  | 0x021 => { w with xcause := x &&& xcauseMask }
  | 0x022 => { w with xaddr := x }
  | 0x023 => { w with xinfo := x &&& xinfoMask x }
  | 0x024 => { w with rssel := x.extractLsb' 0 5 }
  | 0x025 => w.setEntry { w.selected with addr := x }
  | 0x026 => w.setEntry { w.selected with kind := if x.getLsbD 32 then .pending else .rejoin, mask := x.extractLsb' 0 32 }
  | 0x027 => { w with xscr0 := x }
  | 0x028 => { w with xscr1 := x }
  | _ => w

/-- `usr` (R217). -/
def execUsr (kd : BitVec 6) (idx : BitVec 12) (s : State) : Host.Outcome State Fault Refusal :=
  runWord (.usr kd idx) s (fun h => done s (fun w => w.setK kd.toNat (specialValue s h idx.toNat)))

/-- `uws` (R217). -/
def execUws (ka : BitVec 6) (idx : BitVec 12) (s : State) : Host.Outcome State Fault Refusal :=
  runWord (.uws ka idx) s (fun h => done s (fun w => setSpecial w idx.toNat (h.warp.kreg ka.toNat)))

end Sys2Proof.Machine
end

