-- ==== Sys2Proof/Machine/LaneMem.lean ====
section
/-! DEFINITION. Lane-memory words (R246 to R253, R255 to R257): `vld`, `vst`, `vstm`, `vatom`, `vcas`, `sld`, `sst`,
`satom` and `vprf`. Each makes all its checks at issue and goes into flight. -/

namespace Sys2Proof.Machine

/-- The bytes of an access size (R246). -/
def sizeBytes (size : BitVec 3) : Nat := 2 ^ size.toNat

/-- The view that a word names, if the word may use it with accesses of `z` bytes (R141); `scratch`: the word needs
space 1 or 2; `raw`: it refuses a converting view. -/
def Here.view (h : Here) (n : BitVec 5) (scratch raw : Bool) (z : Nat) : Res (BitVec 320) :=
  let v := h.pack.views.getD n.toNat 0
  if viewOk v && (scratch == (viewSpace v != 0)) && !(raw && viewConv v) && viewSuits v z then .ok v else raise0 .view

/-- The element offset of a lane (R142). -/
def elementOf (h : Here) (off : BitVec 8) (lane : Nat) : Int :=
  (h.warp.srcInt off lane).toNat + (match h.lit with | some p => p.toInt | none => 0)

/-- The accesses of the given lanes (R142): those that are not void, the void lanes, and the pages used. -/
def State.gather (s : State) (h : Here) (v : BitVec 320) (z : Nat) (use : Use) (off : BitVec 8) (lanes : List Nat) :
    Res (List LaneAcc × List Nat × List TlbEntry) := do
  let rs ← allLanes (lanes.map (fun l => (l, s.laneAccess h v z use l (elementOf h off l))))
  .ok (rs.filterMap (fun x => x.2.map (fun y => y.1)),
    rs.filterMap (fun x => if x.2.isNone then some x.1 else none),
    rs.flatMap (fun x => match x.2 with | some y => y.2 | none => []))

/-- The scope of a word with SEM = 1 (R247). -/
def semScope (sem : BitVec 1) (v : BitVec 320) : Option Scope := if sem = 1 then some (scopeOf (viewScope v)) else none

/-- Watchpoints see global accesses only (R371). -/
def watchGlobal (h : Here) (v : BitVec 320) (ts : List Touch) : Res Unit :=
  if viewSpace v = 0 then watchCheck h ts else .ok ()

/-- A lane load (R249, R253). -/
def laneLoad (scratch : Bool) (sem : BitVec 1) (data : BitVec 7) (off : BitVec 8) (view : BitVec 5) (size : BitVec 3)
    (s : State) (h : Here) : Res State := do
  let z := sizeBytes size
  let v ← h.view view scratch false z
  let (accs, voids, ts) ← s.gather h v z .load off (lanesOf h.warp.exec)
  watchGlobal h v (accs.flatMap (accTouches v true false))
  (s.cachePages h.pack.ctx ts).issueFlight h .laneLd (.load data z v accs voids) (semScope sem v) none false

/-- A lane's data registers as one number of `z` bytes (R246). -/
def dataOf (w : Warp) (data : BitVec 7) (z lane : Nat) : Nat :=
  ((upTo ((z + 3) / 4)).map (fun j => (w.vreg (data.toNat + j) lane).toNat * 2 ^ (32 * j))).sum % 2 ^ (8 * z)

/-- The scale values or zero points of a lane, read at issue; a poisoned one raises POISON. -/
def State.groupValues (s : State) (h : Here) (v : BitVec 320) (lane w : Nat) : List (Nat × Place) → Res (List Nat)
  | [] => .ok []
  | (va, p) :: rest =>
    match ((upTo w).find? (fun i => s.homeBad (p.plus i))) with
    | some i => s.raisePoison ((upTo w).map p.plus) (va + i) (laneInfo lane)
    | none => do
      let xs ← s.groupValues h v lane w rest
      .ok (leNat ((upTo w).map (fun i => s.iss.pre.forward s.flightSeq (p.plus i)
        (s.loadByte h.pack.core (viewCpol v != 2) (p.plus i)))) :: xs)

/-- An earlier write of the warp to a scale or zero point of a store is in flight, and its bytes cannot be taken from it: the store,
which reads the scale at issue, waits (R166). -/
def Warp.groupsBusy (w : Warp) (v : BitVec 320) (accs : List LaneAcc) : Bool :=
  w.flight.any (fun g => !g.done && !isLoad g.kind && !forwards g.kind &&
    accs.any (fun a => (a.groupPlaces (scaleBytes v)).any (fun p => (flightPlaces g.kind).contains p)))

/-- The scales of a lane lie at a peer, so its units are formed when they arrive. -/
def LaneAcc.remoteScale (a : LaneAcc) : Bool := (a.scales ++ a.zeros).any (fun x => x.2.peer?.isSome)

/-- The bytes of one lane of a store, `mask` enabling the bytes of its span (R144, R146, R250). -/
def storeBytes (v : BitVec 320) (via z mask x : Nat) (scales zps : List Nat) (a : LaneAcc) : List StoreByte :=
  ((laneOut v z a.pos x scales zps).zip (upTo a.len)).filterMap (fun b =>
    if mask / 2 ^ b.2 % 2 = 1 then
      some { va := a.va + b.2, via := via, place := a.place.plus b.2, mask := b.1.1, val := b.1.2,
             raw := viewRawhint v == 1 }
    else none)

/-- The bytes of every lane of a store, in ascending lane order, and the lanes that wait for a peer's scale. -/
def State.laneBytes (s : State) (h : Here) (v : BitVec 320) (z : Nat) (data : BitVec 7) (maskOf : Nat → Nat)
    (viaFor : Nat → Nat) : List LaneAcc → Res (List StoreByte × List (LaneAcc × Nat))
  | [] => .ok ([], [])
  | a :: rest => do
    let (bs, late) ← s.laneBytes h v z data maskOf viaFor rest
    let x := dataOf h.warp data z a.lane
    if a.remoteScale then .ok (bs, (a, x) :: late) else
    let ss ← s.groupValues h v a.lane (if viewSfmt v = 2 then 2 else 1) a.scales
    let zs ← s.groupValues h v a.lane 1 a.zeros
    .ok (storeBytes v (viaFor a.va) z (maskOf a.lane) x ss zs a ++ bs, late)

/-- KIND + 4 x STRIPESET of the page of an address, among the pages used. -/
def viaAt (ts : List TlbEntry) (va : Nat) : Nat :=
  viaOf ((ts.find? (fun t => decide (t.base ≤ va) && decide (va < t.base + t.size))).toList)

/-- The lanes of a list of accesses, as a mask. -/
def laneMask (accs : List LaneAcc) : BitVec 32 := accs.foldl (fun m a => m ||| (1#32 <<< a.lane)) 0

/-- A lane store (R250, R253): `masked` lanes enable the bytes of their spans. -/
def laneStore (scratch masked : Bool) (sem : BitVec 1) (data : BitVec 7) (off : BitVec 8) (view : BitVec 5)
    (size : BitVec 3) (s : State) (h : Here) : Res State := do
  let z := sizeBytes size
  let v ← h.view view scratch masked z
  let maskOf (l : Nat) : Nat :=
    if masked then (h.warp.vreg (data.toNat + sizeRegs size) l).toNat % 2 ^ z else 2 ^ 32 - 1
  let (accs, _, ts) ← s.gather h v z .store off ((lanesOf h.warp.exec).filter (fun l => maskOf l != 0))
  if s.iss.pre.groupsBusy v accs then (.error .hold : Res Unit)
  let (bytes, late) ← s.laneBytes h v z data maskOf (viaAt ts) accs
  watchGlobal h v (accs.flatMap (fun a => (accTouches v false true a).map (fun t =>
    { t with ixs := if t.wr then t.ixs.filter (fun i => maskOf a.lane / 2 ^ i % 2 == 1) else t.ixs })))
  if sem = 1 then h.staleHold
  let s1 ← s.charge (peerUnits (bytes.map (fun b => (b.place, b.va)) ++
    late.flatMap (fun a => (upTo a.1.len).map (fun i => (a.1.place.plus i, a.1.va + i)))))
  let s2 := s1.detect (accs.flatMap (LaneAcc.groupPlaces (scaleBytes v)))
  ((s2.cachePages h.pack.ctx ts).markLanes (laneMask accs)).issueFlight h .laneSt (.store bytes v z late) none (semScope sem v) (viewSpace v == 0)

/-- An atomic or compare-and-swap of `z` bytes a lane (R251, R252). -/
def laneAtomic (scratch : Bool) (sem : BitVec 1) (off : BitVec 8) (view : BitVec 5) (z : Nat)
    (kind : List AtomLane → FlightKind) (operand : Nat → BitVec 64 × BitVec 64) (s : State) (h : Here) : Res State := do
  let v ← h.view view scratch true z
  let (accs, _, ts) ← s.gather h v z .atomic off (lanesOf h.warp.exec)
  watchGlobal h v (accs.flatMap (accTouches v true true))
  if sem = 1 then h.staleHold
  let s1 ← s.charge (peerUnits (accs.flatMap (fun a => (upTo a.len).map (fun i => (a.place.plus i, a.va + i)))))
  ((s1.cachePages h.pack.ctx ts).markLanes (laneMask accs)).issueFlight h .laneLd
    (kind (accs.map (fun a => { acc := a, exp := (operand a.lane).1, new := (operand a.lane).2 })))
    (semScope sem v) (semScope sem v) false

/-- `vld` (R249). -/
def execVld (sem : BitVec 1) (data : BitVec 7) (off : BitVec 8) (view : BitVec 5) (size : BitVec 3) (s : State) :
    Host.Outcome State Fault Refusal :=
  runWord (.vld sem data off view size) s (laneLoad false sem data off view size s)

/-- `sld` (R253). -/
def execSld (sem : BitVec 1) (data : BitVec 7) (off : BitVec 8) (view : BitVec 5) (size : BitVec 3) (s : State) :
    Host.Outcome State Fault Refusal :=
  runWord (.sld sem data off view size) s (laneLoad true sem data off view size s)

/-- `vst` (R250). -/
def execVst (sem : BitVec 1) (data : BitVec 7) (off : BitVec 8) (view : BitVec 5) (size : BitVec 3) (s : State) :
    Host.Outcome State Fault Refusal :=
  runWord (.vst sem data off view size) s (laneStore false false sem data off view size s)

/-- `vstm` (R250). -/
def execVstm (sem : BitVec 1) (data : BitVec 7) (off : BitVec 8) (view : BitVec 5) (size : BitVec 3) (s : State) :
    Host.Outcome State Fault Refusal :=
  runWord (.vstm sem data off view size) s (laneStore false true sem data off view size s)

/-- `sst` (R253). -/
def execSst (sem : BitVec 1) (data : BitVec 7) (off : BitVec 8) (view : BitVec 5) (size : BitVec 3) (s : State) :
    Host.Outcome State Fault Refusal :=
  runWord (.sst sem data off view size) s (laneStore true false sem data off view size s)

/-- `vatom` (R251). -/
def execVatom (sem : BitVec 1) (data : BitVec 7) (off : BitVec 8) (view : BitVec 5) (op : BitVec 3) (s : State) :
    Host.Outcome State Fault Refusal :=
  runWord (.vatom sem data off view op) s (fun h => laneAtomic false sem off view 4 (.atomic data op)
    (fun l => (0, (h.warp.vreg data.toNat l).setWidth 64)) s h)

/-- `satom` (R251). -/
def execSatom (sem : BitVec 1) (data : BitVec 7) (off : BitVec 8) (view : BitVec 5) (op : BitVec 3) (s : State) :
    Host.Outcome State Fault Refusal :=
  runWord (.satom sem data off view op) s (fun h => laneAtomic true sem off view 4 (.atomic data op)
    (fun l => (0, (h.warp.vreg data.toNat l).setWidth 64)) s h)

/-- `vcas` (R252). -/
def execVcas (sem : BitVec 1) (data : BitVec 7) (off : BitVec 8) (view : BitVec 5) (wide : BitVec 1) (s : State) :
    Host.Outcome State Fault Refusal :=
  runWord (.vcas sem data off view wide) s (fun h =>
    let d := data.toNat
    let r (i l : Nat) : BitVec 32 := h.warp.vreg (d + i) l
    laneAtomic false sem off view (if wide = 1 then 8 else 4) (.cas data (wide == 1))
      (fun l => if wide = 1 then (r 1 l ++ r 0 l, r 3 l ++ r 2 l) else ((r 0 l).setWidth 64, (r 1 l).setWidth 64)) s h)

/-- `vprf` (R255): the 128-byte lines of the lanes that would raise nothing, in local pages, are filled; level 2 marks them first
for replacement. -/
def execVprf (off : BitVec 8) (view : BitVec 5) (level : BitVec 3) (s : State) : Host.Outcome State Fault Refusal :=
  runWord (.vprf off view level) s (fun h =>
    let v := h.pack.views.getD view.toNat 0
    let z := if viewConv v then encBits (viewRenc v) / 8 else 1
    if viewOk v = false ∨ viewSpace v ≠ 0 ∨ viewSuits v z = false then raise0 .view else
    let accs := (lanesOf h.warp.exec).filterMap (fun l =>
      match s.laneAccess h v z .load l (elementOf h off l) with
      | .ok (some (a, _)) => some a
      | _ => none)
    let line (t : State) (p : Place) : State := match p with
      | .dram pa => (upTo 2).foldl (fun u i => u.fillL1 h.pack.core (.miss (level == 2)) (.dram (pa / 128 * 128 + 64 * i))) t
      | _ => t
    .ok (if level = 1 then s else accs.foldl (fun t a => line t a.place) s))

end Sys2Proof.Machine
end

