-- ==== Sys2Proof/Machine/Replies.lean ====
section
/-! DEFINITION. The completion of accesses in flight (R130): replies to loads and atomics, stores leaving the
write-combining buffer (R192) and being performed, and replies from peers (R308, R417, R397). An event that concerns no
such operation, or that comes before what must precede it, changes nothing. -/

namespace Sys2Proof.Machine

/-- The operation that an event names, with its pack, context and warp. -/
def State.flight? (s : State) (pid wi id : Nat) : Option (Pack × Context × Warp × Flight) :=
  match s.pack? pid with
  | none => none
  | some p =>
    match s.ctx? p.ctx, p.warps[wi]? with
    | some x, some w => (w.flight.find? (fun f => f.id == id && !f.done)).map (fun f => (p, x, w, f))
    | _, _ => none

/-! ## What a reply brings -/

/-- The number of bytes that peers supply to a lane: its span, its scales, its zero points, in that order. -/
def remoteBytes (sw : Nat) (a : LaneAcc) : Nat :=
  (if a.place.peer?.isSome then a.len else 0) +
  ((a.scales.filter (fun x => x.2.peer?.isSome)).length * sw) + (a.zeros.filter (fun x => x.2.peer?.isSome)).length

def LaneAcc.remote (a : LaneAcc) : Bool := a.place.peer?.isSome || a.remoteScale

/-- The reply suits an operation that needs `n` bytes of peers: nothing where no peer is concerned, the right number
of bytes, or a failure. -/
def replySuits (any : Bool) (n : Nat) : RemoteReply → Bool
  | .none => !any
  | .data bs | .lines bs _ => any && bs.length == n
  | _ => any

/-- The bytes of a reply. -/
def replyBytes : RemoteReply → List (BitVec 8)
  | .data bs | .lines bs _ => bs
  | _ => []

/-- Some request gets no data. -/
def replyFails : RemoteReply → Bool
  | .data _ | .none => false
  | .lines _ st => st.any (fun x => x != .ok)
  | _ => true

/-- A reply answers each of `n` line requests, where it answers them apart. -/
def repliesTo (n : Nat) : RemoteReply → Bool
  | .lines _ st => st.length == n
  | _ => true

/-- How the request of a byte at a peer was answered (R417), `reqs` being the operation's line requests; a lost peer's data is
poison (R397). -/
def statusOf (reply : RemoteReply) (reqs : List (Nat × Nat × Nat)) (p : Place) : LineStatus :=
  match reply, p with
  | .fabric, .peer _ _ => .fabric
  | .poison, .peer _ _ => .poison
  | .lost, .peer _ _ => .lost
  | .lines _ st, .peer q va => st.getD (reqs.findIdx (fun r => r.1 == q && r.2.1 == va / 128)) .ok
  | _, _ => .ok

/-- The span, scales and zero points of a lane: the address and home of each. -/
def LaneAcc.parts (a : LaneAcc) : List (Nat × Place) := (a.va, a.place) :: (a.scales ++ a.zeros)

/-- How a lane's requests were answered: FABRIC before POISON, where they differ. -/
def LaneAcc.status (a : LaneAcc) (reply : RemoteReply) (reqs : List (Nat × Nat × Nat)) : LineStatus :=
  let ss := a.parts.map (fun x => statusOf reply reqs x.2)
  if ss.contains .fabric then .fabric else if ss.contains .poison || ss.contains .lost then .poison else .ok

/-- The lowest address of the parts whose request was answered so. -/
def lowestWith (st : LineStatus) (reply : RemoteReply) (reqs : List (Nat × Nat × Nat)) (parts : List (Nat × Place)) : Option Nat :=
  parts.foldl (fun acc x => if statusOf reply reqs x.2 = st then minIx acc (some x.1) else acc) none

/-- The lowest address of the parts whose data is poison: the peer's, or a lost peer's (R397). -/
def lowestPoison (reply : RemoteReply) (reqs : List (Nat × Nat × Nat)) (parts : List (Nat × Place)) : Option Nat :=
  minIx (lowestWith .poison reply reqs parts) (lowestWith .lost reply reqs parts)

/-- The answer to an operation of one request. -/
def oneReply : RemoteReply → RemoteReply
  | .lines bs st => (match st.head? with | some .fabric => .fabric | some .poison => .poison | some .lost => .lost | _ => .data bs)
  | r => r

/-- Read a span for a load: its bytes, its lowest poisoned address, and the peers' bytes that are left. -/
def State.readSpan (s : State) (w : Warp) (id core : Nat) (useL1 : Bool) (va : Nat) (p : Place) (n : Nat)
    (data : List (BitVec 8)) : List (BitVec 8) × Option Nat × List (BitVec 8) :=
  if p.peer?.isSome then (data.take n, none, data.drop n)
  else ((upTo n).map (fun i => w.forward id (p.plus i) (s.loadByte core useL1 (p.plus i))),
    ((upTo n).find? (fun i => w.forwardBad id (p.plus i)
      (s.homeBad (p.plus i) || (!s.inL1 core useL1 (p.plus i) && s.linkBad (dieOf core) (p.plus i))))).map (fun i => va + i), data)

/-- Read the groups' values of a lane. -/
def State.readGroups (s : State) (w : Warp) (id core : Nat) (useL1 : Bool) (n : Nat) :
    List (Nat × Place) → List (BitVec 8) → List Nat × Option Nat × List (BitVec 8)
  | [], data => ([], none, data)
  | (va, p) :: rest, data =>
    let (bs, bad, d1) := s.readSpan w id core useL1 va p n data
    let (xs, bad2, d2) := s.readGroups w id core useL1 n rest d1
    (leNat bs :: xs, minIx bad bad2, d2)

/-- What one lane of a load brings: its value and its lowest poisoned address. -/
def State.readLane (s : State) (w : Warp) (id core z : Nat) (v : BitVec 320) (useL1 : Bool) (a : LaneAcc)
    (data : List (BitVec 8)) : Nat × Option Nat × List (BitVec 8) :=
  let (bs, b0, d0) := s.readSpan w id core useL1 a.va a.place a.len data
  let (ss, b1, d1) := s.readGroups w id core useL1 (if viewSfmt v = 2 then 2 else 1) a.scales d0
  let (zs, b2, d2) := s.readGroups w id core useL1 1 a.zeros d1
  (laneIn v z a.pos bs ss zs, minIx b0 (minIx b1 b2), d2)

/-- A value of `n` registers written in a lane. -/
def Warp.setGroup (w : Warp) (data : BitVec 7) (n lane x : Nat) : Warp :=
  (upTo n).foldl (fun u j => u.setV (data.toNat + j) lane (BitVec.ofNat 32 (x / 2 ^ (32 * j)))) w

/-- Tag the registers of a lane as poisoned (R257). -/
def Warp.tag (w : Warp) (data : BitVec 7) (n lane addr : Nat) (pc : BitVec 64) : Warp :=
  (upTo n).foldl (fun u j => { u with
    tags := Map.set false u.tags ((data.toNat + j) * 32 + lane) true
    origins := Map.set {} u.origins (data.toNat + j) { addr := BitVec.ofNat 64 addr, pc := pc } }) w

/-- What a lane of a load does to the registers: its value, its tag, or nothing. -/
inductive LaneResult where
  | value (x : Nat)
  | tagged (x addr : Nat)
  | nothing
  deriving DecidableEq, Repr

/-- The results of the lanes of a load, in lane order. -/
def State.loadLanes (s : State) (w : Warp) (id core z : Nat) (v : BitVec 320) (useL1 : Bool) (reply : RemoteReply)
    (reqs : List (Nat × Nat × Nat)) : List LaneAcc → List (BitVec 8) → List (Nat × LaneResult)
  | [], _ => []
  | a :: rest, data =>
    let (x, bad, d) := s.readLane w id core z v useL1 a data
    (a.lane, match a.status reply reqs with
      | .fabric | .lost => .nothing
      | .poison => .tagged (Config.freeChoice (s.fresh + a.lane)) ((minIx bad (lowestPoison reply reqs a.parts)).getD a.va)
      | .ok => match bad with | some b => .tagged x b | none => .value x) :: s.loadLanes w id core z v useL1 reply reqs rest d

/-- Write the results of lanes into `n` registers; the tags name the lowest poisoned address of them all. -/
def Warp.applyLanes (w : Warp) (data : BitVec 7) (n : Nat) (pc : BitVec 64) (rs : List (Nat × LaneResult)) : Warp :=
  let low := rs.foldl (fun acc r => match r.2 with | .tagged _ a => minIx acc (some a) | _ => acc) none
  rs.foldl (fun u r => match r.2 with
    | .value x => u.setGroup data n r.1 x
    | .tagged x _ => (u.setGroup data n r.1 x).tag data n r.1 (low.getD 0) pc
    | .nothing => u) w

/-- FABRIC held pending for a word that a peer refused (R417). -/
def fabricFault (f : Flight) (addr : Nat) (regs : List Nat) (kreg : Option (BitVec 6)) (path : Path) : PendFault :=
  { seq := f.id, cause := .fabric, addr := BitVec.ofNat 64 addr, pc := f.pc, regs := regs, kreg := kreg,
    waitPath := some path, onRelease := true, batchCmd := none, onAny := false }

/-- The register keys of a group of `n` registers in lanes. -/
def groupKeys (data : BitVec 7) (n : Nat) (lanes : List Nat) : List Nat :=
  lanes.flatMap (fun l => (upTo n).map (fun j => (data.toNat + j) * 32 + l))

/-- Results that return after the last lane's `exit` are discarded (R205). -/
def State.deliver (s : State) (pid wi : Nat) (f : Warp → Warp) : State :=
  s.modWarp pid wi (fun w => if w.live = 0 then w else f w)

/-- The fault that a warp holds where peers refused lanes' requests (R417): its XADDR is the lowest refused address, and the
refused lanes' registers are the ones that raise it. -/
def refused (f : Flight) (data : BitVec 7) (n : Nat) (accs : List LaneAcc) (reply : RemoteReply)
    (reqs : List (Nat × Nat × Nat)) : Option PendFault :=
  match accs.filter (fun a => a.status reply reqs == .fabric) with
  | [] => none
  | bad => some (fabricFault f ((lowestWith .fabric reply reqs (bad.flatMap LaneAcc.parts)).getD 0)
      (groupKeys data n (bad.map (fun a => a.lane))) none .laneLd)

/-- A warp that holds a fault, if there is one. -/
def Warp.holdAny (w : Warp) : Option PendFault → Warp
  | some f => w.hold f
  | none => w

/-- What a load of a core reads at its homes: a byte that its L1 holds does not cross the die link. -/
def State.detectLoad (s : State) (core : Nat) (useL1 : Bool) (ps : List Place) : State :=
  (ps.filter (fun p => !s.inL1 core useL1 p)).foldl (fun t p => t.crossed (dieOf core) p) (s.detect ps)

/-- A load's reply. -/
def State.finishLoad (s : State) (pid wi : Nat) (p : Pack) (w : Warp) (f : Flight) (data : BitVec 7) (z : Nat)
    (v : BitVec 320) (accs : List LaneAcc) (voids : List Nat) (reply : RemoteReply) : State :=
  let places := accs.flatMap (fun a => a.places ++ a.groupPlaces (scaleBytes v))
  let reqs := lineRequests places
  let s1 := match f.acquire with | some sc => s.acquireAt p.core sc | none => s
  let rs := s1.loadLanes w f.id p.core z v (viewCpol v != 2 && f.acquire.isNone) reply reqs accs (replyBytes reply)
  let s2 := (s1.detectLoad p.core (viewCpol v != 2 && f.acquire.isNone) places).fillSectors p.core (s.fillFor p.core f (viewCpol v)) places
  let n := (z + 3) / 4
  let s3 := s2.deliver pid wi (fun u =>
    ((u.applyLanes data n f.pc rs).applyLanes data n f.pc (voids.map (fun l => (l, .value 0)))).holdAny
      (refused f data n accs reply reqs))
  { s3 with fresh := s3.fresh + (if replyFails reply then 32 else 0) }

/-! ## Atomics (R251, R252) -/

/-- The new value of an atomic on `bits` bits (R251, R302, R307): 0 add, 1 min, 2 max, 3 and, 4 or, 5 xor, 6 exch;
7 is `fadd` on 32 bits. -/
def atomicNew (op bits old v : Nat) : Nat :=
  match op with
  | 0 => (old + v) % 2 ^ bits
  | 1 => if signedOf bits v < signedOf bits old then v else old
  | 2 => if signedOf bits old < signedOf bits v then v else old
  | 3 => old &&& v
  | 4 => old ||| v
  | 5 => old ^^^ v
  | 6 => v
  | _ => (fp32.add .rne old v).1

/-- One lane's read-modify-write at a local home: what it returns, and the state after it. A poisoned target keeps its bytes (R257).
Its line leaves the core's L1 in every case (R123). -/
def State.atomicLane (s : State) (c core n : Nat) (newOf : Nat → Option Nat) (a : LaneAcc) : LaneResult × State :=
  let s1 := s.detectFrom (dieOf core) a.places
  let old := leNat (a.places.map s.homeByte)
  match (upTo n).find? (fun i => s.homeBadFrom (dieOf core) (a.place.plus i)) with
  | some i => (.tagged old (a.va + i), s1.storeL1 core true { va := a.va, via := 0, place := a.place, mask := 0, val := 0 })
  | none =>
    match newOf old with
    | some x =>
      let bs : List StoreByte := (upTo n).map (fun i =>
        { va := a.va + i, via := 0, place := a.place.plus i, mask := 0xFF, val := BitVec.ofNat 8 (x / 256 ^ i) })
      (.value old, bs.foldl (fun t b => t.storeL1 core true b) (s1.performBytes c bs))
    | none => (.value old, s1.storeL1 core true { va := a.va, via := 0, place := a.place, mask := 0, val := 0 })

/-- Take element `i` out of a list. -/
def pickOut {α : Type} (l : List α) (i : Nat) : Option (α × List α) :=
  match l.drop i with
  | x :: rest => some (x, l.take i ++ rest)
  | [] => none

/-- Perform lanes one at a time, in an order that no rule gives (R167). -/
def State.atomicLanes (c core n : Nat) (newOf : AtomLane → Nat → Option Nat) :
    Nat → List AtomLane → State → List (Nat × LaneResult) × State
  | 0, _, s => ([], s)
  | k + 1, ls, s =>
    let (i, s1) := s.choose ls.length
    match pickOut ls i with
    | none => ([], s)
    | some (l, rest) =>
      let (r, s2) := s1.atomicLane c core n (newOf l) l.acc
      let (rs, s3) := State.atomicLanes c core n newOf k rest s2
      ((l.acc.lane, r) :: rs, s3)

/-- What a reply brings to the lanes at peers: the old values; a poisoned one is tagged (R257), and a refused one does nothing
(R417). -/
def peerOlds (n fresh : Nat) (reply : RemoteReply) (reqs : List (Nat × Nat × Nat)) :
    List AtomLane → List (BitVec 8) → List (Nat × LaneResult)
  | [], _ => []
  | l :: ls, bs => (l.acc.lane, match l.acc.status reply reqs with
      | .ok => .value (leNat (bs.take n))
      | .poison => .tagged (Config.freeChoice (fresh + l.acc.lane)) l.acc.va
      | _ => .nothing) :: peerOlds n fresh reply reqs ls (bs.drop n)

/-- The reply to an atomic or a compare-and-swap of `n` bytes. -/
def State.finishAtomic (s : State) (pid wi : Nat) (p : Pack) (x : Context) (f : Flight) (data : BitVec 7) (n : Nat)
    (newOf : AtomLane → Nat → Option Nat) (lanes : List AtomLane) (reply : RemoteReply) : State :=
  let at_ (l : AtomLane) : AtomLane := { l with acc := { l.acc with place := s.refresh x f.epoch l.acc.va l.acc.place } }
  let loc := (lanes.filter (fun l => !l.acc.remote)).map at_
  let rem := lanes.filter (fun l => l.acc.remote)
  let s1 := match f.acquire with | some sc => s.acquireAt p.core sc | none => s
  let (rs, s2) := State.atomicLanes p.ctx p.core n newOf loc.length loc s1
  let reqs := lineRequests (flightPlaces f.kind)
  let regs := (n + 3) / 4
  let s3 := s2.deliver pid wi (fun u =>
    (u.applyLanes data regs f.pc (rs ++ peerOlds n s2.fresh reply reqs rem (replyBytes reply))).holdAny
      (refused f data regs (rem.map (fun l => l.acc)) reply reqs))
  { s3 with fresh := s3.fresh + (if replyFails reply then 32 else 0) }

/-- The reply to a `uld` (R216, R417). -/
def State.finishUload (s : State) (pid wi : Nat) (p : Pack) (w : Warp) (f : Flight) (kd : BitVec 6) (a : LaneAcc)
    (reply : RemoteReply) : State :=
  let s1 := s.detectLoad p.core true a.places
  let reply := oneReply reply
  let fault (c : Cause) (addr : Nat) : Warp → Warp := fun u => u.hold { fabricFault f addr [] (some kd) .laneLd with cause := c }
  match reply with
  | .fabric | .lost => s1.deliver pid wi (fault .fabric a.va)
  | .poison => s1.deliver pid wi (fault .poison a.va)
  | _ =>
    let (bs, bad, _) := s.readSpan w f.id p.core true a.va a.place 8 (replyBytes reply)
    let s2 := s1.fillSectors p.core (s.fillFor p.core f 0) a.places
    match bad with
    | some b => s2.deliver pid wi (fault .poison b)
    | none => s2.deliver pid wi (fun u => u.setK kd.toNat (BitVec.ofNat 64 (leNat bs)))

/-- The accesses of an operation, and the bytes that peers supply to it. -/
def flightAccs : FlightKind → List LaneAcc
  | .load _ _ _ accs _ => accs
  | .atomic _ _ ls => ls.map (fun l => l.acc)
  | .cas _ _ ls => ls.map (fun l => l.acc)
  | .uload _ a => [a]
  | .store _ _ _ late => late.map (fun x => x.1)
  | _ => []

def scaleWidth : FlightKind → Nat
  | .load _ _ v _ _ => if viewSfmt v = 2 then 2 else 1
  | .store _ v _ _ => if viewSfmt v = 2 then 2 else 1
  | _ => 1

/-- An atomic on a migrating page waits for the switch-over (R194). -/
def State.waitsForPage (s : State) (x : Context) (k : FlightKind) : Bool :=
  match k with
  | .atomic _ _ ls => ls.any (fun l => l.acc.place.isDram && s.migrating x l.acc.va)
  | .cas _ _ ls => ls.any (fun l => l.acc.place.isDram && s.migrating x l.acc.va)
  | _ => false

/-- An atomic held for a migrating page touches one of the places: a load of them waits until it has been performed (R194). -/
def State.atomicHeldAt (s : State) (ps : List Place) : Bool :=
  s.contexts.any (fun c => match c with
    | some y => y.held.any (fun r => match r with
      | .atomic pk wi id _ _ => (match s.flight? pk wi id with
        | some (_, _, _, g) => ps.any (fun p => p.isDram && (flightPlaces g.kind).contains p)
        | none => false)
      | .agent _ _ pas => ps.any (fun p => match p with | .dram pa => pas.contains pa | _ => false)
      | .store _ _ => false)
    | none => false)

/-- A load overlaps such an atomic. -/
def State.meetsHeldAtomic (s : State) (f : Flight) : Bool := isLoad f.kind && s.atomicHeldAt (flightPlaces f.kind)

/-- A load has been translated after the invalidation of a migrating page that is not acknowledged yet: it waits for the held
requests to be forwarded (R194). -/
def State.awaitsSwitch (s : State) (x : Context) (f : Flight) : Bool :=
  isLoad f.kind && f.epoch == x.epoch && (flightAccs f.kind).any (fun a => a.parts.any (fun y =>
    y.2.isDram && x.moving.any (fun t => t.covers y.1) &&
    (match s.page x y.1 with | .ok t => !leafMig t.leaf | .error _ => false)))

/-- An operation waits in its home slice for a migrating page, or for room there (R194). -/
def State.atSlice (s : State) (x : Context) (f : Flight) : Bool :=
  s.waitsForPage x f.kind || s.meetsHeldAtomic f || (match f.kind with | .store bs _ _ _ => s.noRoom x bs | _ => false)

/-- The 128-byte lines that an operation of a core asks for over the die link (R395) or of the host (R403): a byte that a load finds
in its core's L1 is not asked for. -/
def State.sentLines (s : State) (core : Nat) (f : Flight) : List (Bool × Nat) :=
  (flightPlaces f.kind).filterMap (fun p => match p with
    | .dram pa =>
      if homeSlice pa / 64 = dieOf core ∨ (isLoad f.kind && f.acquire.isNone && (Map.get none (s.core core).l1 pa).isSome) = true then none
      else some (false, pa / 128)
    | .host a => some (true, a / 128)
    | _ => none)

/-- A core's load-store pipe has sent an earlier request of such a line, which crosses first (R395, R403). An access that stands in a
write-combining buffer, or that its own warp's order keeps back, has not been sent, and one that waits in its slice has crossed
(log entry 103). -/
def State.behindOnLink (s : State) (core : Nat) (f : Flight) : Bool :=
  match s.sentLines core f with
  | [] => false
  | ls => s.packs.any (fun q => q.core == core && (match s.ctx? q.ctx with
    | none => false
    | some y => q.warps.any (fun w => w.flight.any (fun g =>
        !g.done && !g.inWcb && decide (g.id < f.id) && w.mayPerform g && !s.atSlice y g && !s.awaitsSwitch y g &&
        (s.sentLines core g).any ls.contains))))

/-- An atomic, compare-and-swap or load is performed. -/
def State.performReply (s : State) (pack warp : Nat) (p : Pack) (x : Context) (w : Warp) (f : Flight) (reply : RemoteReply) : State :=
  let now (y : Nat × Place) : Nat × Place := (y.1, s.refresh x f.epoch y.1 y.2)
  let fresh (a : LaneAcc) : LaneAcc :=
    { a with place := (now (a.va, a.place)).2, scales := a.scales.map now, zeros := a.zeros.map now }
  match f.kind with
  | .load data z v as voids => s.finishLoad pack warp p w f data z v (as.map fresh) voids reply
  | .atomic data op ls => s.finishAtomic pack warp p x f data 4 (fun l old => some (atomicNew op.toNat 32 old l.new.toNat)) ls reply
  | .cas data wide ls =>
    s.finishAtomic pack warp p x f data (if wide then 8 else 4)
      (fun l old => if old = l.exp.toNat then some l.new.toNat else none) ls reply
  | .uload kd a => s.finishUload pack warp p w f kd (fresh a) reply
  | .tileLoad regs bad =>
    s.deliver pack warp (fun u =>
      let u1 := regs.foldl (fun a r => a.setV (r.1 / 32) (r.1 % 32) r.2) u
      bad.foldl (fun a k => { a with
        tags := Map.set false a.tags k true
        origins := Map.set {} a.origins (k / 32) { addr := 0, pc := f.pc } }) u1)
  | _ => s

/-- The physical addresses of an atomic's lanes in local memory. -/
def localAddrs (k : FlightKind) : List Nat :=
  (flightAccs k).filterMap (fun a => match a.place with | .dram pa => some pa | _ => none)

/-- The bytes that a request asks for, by its sectors. -/
def Request.bytes (r : Request) : Nat := 64 * (r.mask % 2 + r.mask / 2 % 2)

/-- The reply to the read of a launch packet from a peer (R280). -/
def State.launchReply (s : State) (pack warp flight : Nat) (reply : RemoteReply) : State :=
  let mine (r : Request) : Bool := r.owner == .warp pack warp && r.flight == flight
  let rs := s.requests.filter mine
  let waits := ((s.pack? pack).bind (fun p => p.warps[warp]?)).any (fun w =>
    match w.launchRead with | some r => r.id == flight && r.reply.isNone | none => false)
  if waits && replySuits (!rs.isEmpty) ((rs.map Request.bytes).sum) reply && repliesTo rs.length reply then
    (s.closeRequests (answeredBy reply) mine).modWarp pack warp (fun w =>
      { w with launchRead := w.launchRead.map (fun r => { r with reply := some reply }) })
  else s

/-- LANE_LOAD_REPLY (R130). An atomic on a migrating page joins the requests that its slice holds (R194). XADDR of a register that
`trd` tags is 0: its tile words have no byte address (log entry 98). -/
def execLaneLoadReply (pack warp flight : Nat) (reply : RemoteReply) (s : State) : Host.Outcome State Fault Refusal :=
  .next (match s.flight? pack warp flight with
  | none => s.launchReply pack warp flight reply
  | some (p, x, w, f) =>
    let accs := flightAccs f.kind
    let n := (accs.map (remoteBytes (scaleWidth f.kind))).sum
    s.whenSent pack warp x w f reply <|
    if !w.mayPerform f || !replySuits (accs.any LaneAcc.remote) n reply || !repliesTo (lineRequests (flightPlaces f.kind)).length reply ||
        s.meetsHeldAtomic f || s.awaitsSwitch x f || s.behindOnLink p.core f then s else
    if s.waitsForPage x f.kind then
      if x.held.any (fun r => match r with | .atomic pk wi id _ _ => pk == pack && wi == warp && id == flight | _ => false) ||
          s.sliceFull (((localAddrs f.kind).map (fun pa => pa / 128)).eraseDups) then s
      else s.holdReq p.ctx (.atomic pack warp flight (localAddrs f.kind) reply)
    else match f.kind with
    | .load _ _ _ _ _ | .atomic _ _ _ | .cas _ _ _ | .uload _ _ | .tileLoad _ _ =>
      (s.performReply pack warp p x w f reply).finish pack warp flight reply
    | _ => s)

/-! ## Stores -/

/-- The bytes of the lanes that waited for a peer's scales, but for lanes whose requests failed. -/
def State.lateBytes (s : State) (w : Warp) (id core z : Nat) (v : BitVec 320) (reply : RemoteReply) (reqs : List (Nat × Nat × Nat)) :
    List (LaneAcc × Nat) → List (BitVec 8) → List StoreByte
  | [], _ => []
  | (a, x) :: rest, data =>
    let (ss, _, d1) := s.readGroups w id core true (scaleBytes v) a.scales data
    let (zs, _, d2) := s.readGroups w id core true 1 a.zeros d1
    (if a.status reply reqs = .ok then storeBytes v a.via z (2 ^ 32 - 1) x ss zs a else []) ++
      s.lateBytes w id core z v reply reqs rest d2

/-- The bytes of a peer's scales that a late lane needs. -/
def lateNeed (v : BitVec 320) (late : List (LaneAcc × Nat)) : Nat :=
  (late.map (fun a => remoteBytes (scaleBytes v) { a.1 with place := .host 0 })).sum

/-- The fault that a warp holds where peers refused a store's requests (R417), or a scale's data was poison. -/
def storeRefused (f : Flight) (reply : RemoteReply) (reqs : List (Nat × Nat × Nat)) (parts : List (Nat × Place)) : Option PendFault :=
  match lowestWith .fabric reply reqs parts, lowestWith .poison reply reqs parts with
  | some a, _ => some (fabricFault f a [] none .laneSt)
  | none, some a => some { fabricFault f a [] none .laneSt with cause := .poison }
  | none, none => none

/-- LANE_STORE_PERFORMED (R130): the store's bytes are performed at their homes, or its target refuses them (R417), or
its peer is lost (R397). A peer's acknowledgement is the reply; the scales that lie at a peer come with it. -/
def execLaneStorePerformed (pack warp flight : Nat) (reply : RemoteReply) (s : State) : Host.Outcome State Fault Refusal :=
  .next (match s.flight? pack warp flight with
  | none => s
  | some (p, x, w, f) =>
    let fin (t : State) : State := t.finish pack warp flight reply
    match f.kind with
    | .store bs0 v z late =>
      let atPeer := bs0.any (fun b => b.place.peer?.isSome) || !late.isEmpty
      let reqs := lineRequests (flightPlaces f.kind)
      let bs1 := bs0 ++ s.lateBytes w f.id p.core z v reply reqs late (replyBytes reply)
      let bs := bs1.map (fun b => { b with place := s.refresh x f.epoch b.va b.place })
      let mine := bs.filter (fun b => b.place.peer?.isNone)
      if f.inWcb then s else s.whenSent pack warp x w f reply <|
      if !w.mayPerform f || !replySuits atPeer (lateNeed v late) reply || !repliesTo reqs.length reply || s.noRoom x mine ||
          s.behindOnLink p.core f then s else
      let s1 := s.performFrom (dieOf p.core) p.ctx mine
      let s2 := mine.foldl (fun t b => t.storeL1 p.core f.release.isSome b) s1
      let parts := (bs0.map (fun b => (b.va, b.place))) ++ late.flatMap (fun a => a.1.parts)
      fin (s2.modWarp pack warp (fun u => u.holdAny (storeRefused f reply reqs parts)))
    | .tileStore => if w.mayPerform f then fin s else s
    | _ => s)

/-- The second translation of a byte of a store (R192): its new home, or the cause that is held pending. -/
def State.retranslate (s : State) (x : Context) (b : StoreByte) : Except (Nat × Cause) StoreByte :=
  match s.page x b.va with
  | .ok t =>
    if leafW t.leaf = false then .error (b.va, .prot)
    else if leafKind t.leaf + 4 * leafStripe t.leaf ≠ b.via then .error (b.va, .xlate)
    else match s.translate x .store b.va with
      | .ok (_, p) => if p.peer? = b.place.peer? then .ok { b with place := p } else .error (b.va, .xlate)
      | .error _ => .error (b.va, .xlate)
  | .error _ => .error (b.va, .xlate)

/-- The results of a list of translations, or the fault at the lowest address. -/
def allMoved {α : Type} (rs : List (Except (Nat × Cause) α)) : Except (Nat × Cause) (List α) :=
  match (rs.filterMap (fun r => match r with | .error e => some e | .ok _ => none)).foldl (fun acc e => match acc with
      | none => some e
      | some y => if e.1 < y.1 then some e else some y) (none : Option (Nat × Cause)) with
  | some e => .error e
  | none => .ok (rs.filterMap (fun r => match r with | .ok b => some b | .error _ => none))

/-- The lower of two faults of a store's second translation. -/
def lowerFault (a b : Nat × Cause) : Nat × Cause := if b.1 < a.1 then b else a

/-- Two places are of one kind, and at one peer where they are a peer's. -/
def Place.sameKind : Place → Place → Bool
  | .dram _, .dram _ | .host _, .host _ => true
  | .peer p _, .peer q _ => p == q
  | _, _ => false

/-- The second translation of a scale or zero point that a store still has to read (R190, R192). -/
def State.retranslateGroup (s : State) (x : Context) (g : Nat × Place) : Except (Nat × Cause) (Nat × Place) :=
  match s.translate x .load g.1 with
  | .ok (_, p) => if p.sameKind g.2 then .ok (g.1, p) else .error (g.1, .xlate)
  | .error _ => .error (g.1, .xlate)

/-- The second translation of a lane that waits for a peer's scales: of its span, and of its scales and zero points (R192). -/
def State.retranslateLane (s : State) (x : Context) (a : LaneAcc × Nat) : Except (Nat × Cause) (LaneAcc × Nat) :=
  match s.retranslate x { va := a.1.va, via := a.1.via, place := a.1.place, mask := 0, val := 0 },
      allMoved (a.1.scales.map (s.retranslateGroup x)), allMoved (a.1.zeros.map (s.retranslateGroup x)) with
  | .ok b, .ok ss, .ok zs => .ok ({ a.1 with place := b.place, scales := ss, zeros := zs }, a.2)
  | r, ss, zs => (allMoved [r.map (fun _ => ()), ss.map (fun _ => ()), zs.map (fun _ => ())]).map (fun _ => a)

/-- WCB_DRAIN (R192): a store leaves the write-combining buffer, translated again if a `tlbinv` came between; where
that fails its bytes are discarded and the fault is held pending. -/
def execWcbDrain (pack warp flight : Nat) (s : State) : Host.Outcome State Fault Refusal :=
  .next (match s.flight? pack warp flight with
  | none => s
  | some (_, x, w, f) =>
    match f.inWcb, f.kind with
    | true, .store bs v z late =>
      let put (k : FlightKind) : State :=
        if (w.maySend { f with kind := k } = false ∧ (lineRequests (flightPlaces k)).isEmpty = false) ∨ s.tagsOut k f.release = true then s else
        (s.sendFlight pack warp x w { f with kind := k }).modWarp
          pack warp (fun u => { u with flight := u.flight.map (fun g =>
            if g.id = flight then { g with inWcb := false, kind := k, epoch := x.epoch } else g) })
      let failed (e : Nat × Cause) : State :=
        (s.finish pack warp flight).modWarp pack warp (fun u => u.hold
          { seq := f.id, cause := e.2, addr := BitVec.ofNat 64 e.1, pc := f.pc, regs := [], kreg := none, waitPath := none,
            onRelease := true, batchCmd := none, onAny := false })
      if f.epoch = x.epoch then put f.kind else
      match allMoved (bs.map (s.retranslate x)), allMoved (late.map (s.retranslateLane x)) with
      | .ok ys, .ok ls => put (.store ys v z ls)
      | .error e, .ok _ => failed e
      | .ok _, .error e => failed e
      | .error e, .error d => failed (lowerFault e d)
    | _, _ => s)

/-! ## `rld`, `rst` and `ratom` (R308) -/

/-- REMOTE_REPLY (R308): data or an acknowledgement, or a fault that is held pending. -/
def execRemoteReply (pack warp flight : Nat) (reply : RemoteReply) (s : State) : Host.Outcome State Fault Refusal :=
  .next (match s.flight? pack warp flight with
  | none => s
  | some (p, x, w, f) =>
    let fin (t : State) : State := t.finish pack warp flight reply
    let done (kd : Option (BitVec 6)) (va n : Nat) (write : Nat → Warp → Warp) : State :=
      let reply := oneReply reply
      if !w.mayPerform f || f.waits.any (s.uncompleted p.core pack warp) || !replySuits true n reply then s else
      let s1 := match f.acquire with | some sc => s.acquireAt p.core sc | none => s
      let fault (c : Cause) : Warp → Warp := fun u => u.hold { fabricFault f va [] kd .fab with cause := c }
      fin (match reply with
        | .data bs => s1.deliver pack warp (write (leNat bs))
        | .poison => s1.deliver pack warp (fault .poison)
        | _ => s1.deliver pack warp (fault .fabric))
    s.whenSent pack warp x w f reply <|
    match f.kind with
    | .rload kd _ va _ => done (some kd) va 8 (fun x u => u.setK kd.toNat (BitVec.ofNat 64 x))
    | .rstore _ va _ _ => done none va 0 (fun _ u => u)
    | .ratomic kd _ va _ _ _ => done (some kd) va 8 (fun x u => u.setK kd.toNat (BitVec.ofNat 64 x))
    | _ => s)

end Sys2Proof.Machine
end

