-- ==== Sys2Proof/Machine/Units.lean ====
section
/-! DEFINITION. The units of a context: the engine-fault queue (R373), acceptance of launches and completion records
(R20 to R22, R28), events and sequence counters (R29 to R31), dependence counters (R37), lane tasks, kennels and waves
(R32 to R35). -/

namespace Sys2Proof.Machine

/-- An operation of the part itself: a cause that it meets is a result, and only an absent address stops it. -/
def caught {α : Type} (r : Res α) : Res (Except (Cause × BitVec 64) α) :=
  match r with
  | .ok a => .ok (.ok a)
  | .error (.raise c a _ _) => .ok (.error (c, a))
  | .error (.struck _ a _) => .ok (.error (.poison, a))
  | .error e => .error e

/-- The outcome of an event: a stop other than an absent address leaves the state as it was. -/
def State.eventOut (s : State) : Res State → Host.Outcome State Fault Refusal
  | .ok t => .next t
  | .error (.absent pa) => .fault (.absentAddress pa)
  | .error _ => .next s

/-! ## Engine faults (R373) -/

/-- Post a fault and send its event; `none` where 4,096 answers are outstanding. The result carries FSEQ. -/
def State.postFault (s : State) (c : Nat) (va : BitVec 64) (cause : Cause) (engine tag core : Nat)
    (write diverted : Bool) : Res (Option (State × Nat)) :=
  match s.ctx? c with
  | none => .ok none
  | some x =>
    if 4096 ≤ x.faults.length then .ok none else do
    let fseq := x.fseq + 1
    let place := if engine = 1 ∨ engine = 2 then dieOf core * 2 ^ 16 else if engine = 5 then 0 else placeBits core
    let bytes := leBytes 8 va.toNat ++ leBytes 8 (causeCode cause * 2 ^ 56 + engine * 2 ^ 48 + tag % 2 ^ 48) ++
      leBytes 8 fseq ++ leBytes 8 ((if diverted then 2 ^ 33 else 0) + (if write then 2 ^ 32 else 0) + place)
    let s1 := match ← caught (s.partWrite c x (descEfq x.desc + 32 * x.efqTail) bytes) with
      | .ok t => t
      | .error _ => s
    let s2 := s1.modCtx c (fun y => { y with
      fseq := fseq, efqTail := (x.efqTail + 1) % 4096,
      faults := y.faults ++ [{ fseq := fseq, va := va, cause := cause, engine := engine, tag := tag, core := core }] })
    .ok (some (s2.sendEvent { kind := 2, ctx := some c, a := BitVec.ofNat 64 fseq, b := 0 }, fseq))

/-! ## Completion records (R22, R28) -/

/-- The completion event (R28, R409). -/
def State.doneEvent (s : State) (c : Nat) (lseq : BitVec 64) (pkt : BitVec 2048) (status : Nat) : State :=
  if pktHostev pkt then s.sendEvent { kind := 1, ctx := some c, a := lseq, b := BitVec.ofNat 64 status } else s

/-- The bytes of a completion record. -/
def doneBytes (lseq : BitVec 64) (status packs : Nat) : List (BitVec 8) :=
  leBytes 8 lseq.toNat ++ leBytes 4 status ++ leBytes 4 packs

/-- Write a completion record, then send the event; a record that meets a fault waits for the driver. -/
def State.writeDone (s : State) (c : Nat) (d : DoneWait) : Res State :=
  match s.ctx? c with
  | none => .ok s
  | some x =>
    let addr := pktDone d.pkt
    if addr = 0 ∨ addr % 16 ≠ 0 then .ok (s.doneEvent c d.lseq d.pkt d.status) else do
    match ← caught (s.partWrite c x addr (doneBytes d.lseq d.status d.packs)) with
    | .ok t => .ok (t.doneEvent c d.lseq d.pkt d.status)
    | .error (cause, va) =>
      match ← s.postFault c va cause 5 d.lseq.toNat 0 true false with
      | some (t, fseq) => .ok (t.modCtx c (fun y => { y with doneWait := y.doneWait ++ [{ d with fseq := fseq }] }))
      | none => .ok (s.modCtx c (fun y => { y with doneWait := y.doneWait ++ [{ d with fseq := 0 }] }))

/-! ## Events and sequence counters (R29 to R31) -/

/-- The events of group `g` that a 64-bit mask names. -/
def groupMask (g : Nat) (m : BitVec 64) : BitVec 256 := m.setWidth 256 <<< (64 * g)

/-- Every event of a mask is set. -/
def eventsMeet (ev mask : BitVec 256) : Bool := ev &&& mask == mask

/-- The value of a sequence counter. -/
def Context.seq (x : Context) (i : Nat) : BitVec 64 := Map.get 0 x.seqs i

/-- A sequence wait of a launch is met, or has no effect (R19). -/
def Context.seqMet (x : Context) (w : BitVec 64 × Nat × Bool) : Bool := !w.2.2 || w.1.ule (x.seq w.2.1)

/-- A launch's waits are tested against the present state; each stays satisfied. With all of them met it is eligible
(R31). -/
def Launch.test (l : Launch) (x : Context) (cycle : Nat) : Launch :=
  let l1 := { l with
    evOk := l.evOk || eventsMeet x.events (pktEvwait l.pkt)
    seq0Ok := l.seq0Ok || x.seqMet (pktSeq l.pkt 0x80)
    seq1Ok := l.seq1Ok || x.seqMet (pktSeq l.pkt 0x90) }
  if l1.evOk && l1.seq0Ok && l1.seq1Ok && l1.eligible.isNone then { l1 with eligible := some cycle } else l1

/-- A blocked warp's event or sequence wait is met by the present state. -/
def blockMet (x : Context) : BlockWhy → Bool
  | .evwait g m => eventsMeet x.events (groupMask g.toNat m)
  | .seqwait i t => t.ule (x.seq i)
  | _ => false

/-- Test every wait of a context after a write of its events or counters: a wait that this state satisfies stays
satisfied. -/
def State.testWaits (s : State) (c : Nat) : State :=
  match s.ctx? c with
  | none => s
  | some x =>
    let s1 := s.modCtx c (fun y => { y with launches := y.launches.map (fun l => l.test x s.cycle) })
    { s1 with packs := s1.packs.map (fun p =>
        if p.ctx = c then { p with warps := p.warps.map (fun w => match w.block with
          | some b => if blockMet x b.why then { w with block := some { b with sat := true } } else w
          | none => w) }
        else p) }

def State.setEvents (s : State) (c : Nat) (m : BitVec 256) : State :=
  (s.modCtx c (fun x => { x with events := x.events ||| m })).testWaits c

def State.clearEvents (s : State) (c : Nat) (m : BitVec 256) : State :=
  (s.modCtx c (fun x => { x with events := x.events &&& ~~~m })).testWaits c

def State.addSeq (s : State) (c i : Nat) (v : BitVec 64) : State :=
  (s.modCtx c (fun x => { x with seqs := Map.set 0 x.seqs i (x.seq i + v) })).testWaits c

/-! ## Acceptance of a launch (R20, R21) -/

/-- The reserved fields of a launch packet (R18, R19, R21). -/
def pktReserved (p : BitVec 2048) : Bool :=
  recBits p 0x00 24 8 != 0 || recBits p 0x00 0 13 != 0 || recBits p 0x04 20 12 != 0 || recBits p 0x04 0 1 != 0 ||
  recBits p 0x08 31 1 != 0 || recBits p 0x08 0 2 != 0 || recBits p 0x0C 0 32 != 0 ||
  recBits p 0x10 0 64 / 2 ^ (4 * pktLeashes p) != 0 ||
  [0x80, 0x90, 0xA0, 0xB0].any (fun o => recBits p o 73 55 != 0) ||
  recBits p 0xE0 12 3 != 0 || recBits p 0xE0 16 48 != 0 || recBits p 0xE8 0 192 != 0

/-- A field lies outside its range, or the shape does not hold together (R18, R21). -/
def pktMisshapen (p : BitVec 2048) : Bool :=
  decide (8 < pktNmath p) || pktNepi p == 0 || decide (48 < pktNepi p) || pktEvb p == 3 || decide (12288 < pktScr p) ||
  decide (8 < pktTiles p) || decide (16 < pktLeashes p) || decide (32 < pktBars p) ||
  pktGx p == 0 || pktGy p == 0 || pktGz p == 0 ||
  pktEntryC p % 4 != 0 || pktEntryM p % 4 != 0 || pktEntryE p % 4 != 0 ||
  (pktNcopy p == 0 && pktEntryC p != 0) || (pktNmath p == 0 && pktEntryM p != 0) ||
  pktViewt p % 64 != 0 || pktFmtt p % 64 != 0 || pktAdaptt p % 64 != 0 || pktDone p % 16 != 0 ||
  pktGx p % pktClsz p != 0 || decide (pktWindow p < pktLeashBytes p)

/-- The vector registers of an epilogue warp of the launch. -/
def pktVregs (p : BitVec 2048) : Nat := 32 * (pktEvb p + 1)

/-- The pack does not fit an empty core (R24): a quadrant has 16 warp slots and a file of 96 KiB. -/
def pktNofit (p : BitVec 2048) : Bool :=
  let q := (pktNepi p + 3) / 4
  decide (16 < q) || decide (96 * 1024 < q * pktVregs p * 128)

/-- The status of a packet at acceptance (R21). -/
def pktStatus (p : BitVec 2048) : Nat :=
  if pktNbv p ≠ 1 ∧ pktNbv p ≠ 2 then 1
  else if pktReserved p then 2
  else if pktMisshapen p then 3
  else if pktNofit p then 4
  else 0

/-- The launches accepted and not yet dispatched (R280). The manual does not say whether a launch with only some of its packs placed
counts: here it counts until its last pack is placed (log entry 100). -/
def Context.undispatched (x : Context) : Nat :=
  (x.launches.filter (fun l => l.wave.isNone && decide (l.next < pktPacks l.pkt))).length

/-- Accept a packet: it takes a number, and is refused with its record or waits for dispatch. -/
def State.acceptLaunch (s : State) (c : Nat) (pkt : BitVec 2048) : Res State :=
  match s.ctx? c with
  | none => .ok s
  | some x =>
    let n := x.lseq + 1
    let s1 := s.modCtx c (fun y => { y with lseq := n })
    let st := pktStatus pkt
    if st ≠ 0 then s1.writeDone c { fseq := 0, lseq := n, pkt := pkt, status := st, packs := 0 }
    else .ok (s1.modCtx c (fun y => { y with launches := y.launches ++ [Launch.test { lseq := n, pkt := pkt } y s.cycle] }))

/-! ## Kennels and waves (R33 to R35) -/

/-- A ready task enters the kennel of its home cluster with its key, or a free one (R34). The manual does not say how contexts that
share a partition share its kennels: here each has 16 in every cluster (log entry 93). -/
def Context.enterKennel (x : Context) (cycle : Nat) (t : Task) : Option Context :=
  if x.kennels.any (fun k => k.cluster == t.home && k.key == t.entry) then
    some { x with kennels := x.kennels.map (fun k =>
      if k.cluster = t.home ∧ k.key = t.entry then { k with tasks := k.tasks ++ [(cycle, t)] } else k) }
  else if (x.kennels.filter (fun k => k.cluster == t.home)).length < 16 then
    some { x with kennels := x.kennels ++ [{ cluster := t.home, key := t.entry, tasks := [(cycle, t)] }] }
  else none

/-- The packet that a wave's header stands for (R33, R35). -/
def wavePacket (hd : BitVec 256) (entry : BitVec 64) : BitVec 2048 :=
  let f := recBits hd 24 0 32
  BitVec.ofNat 2048 (
    (f / 2 ^ 6 % 16 * 2 ^ 20 + f / 2 ^ 4 % 4 * 2 ^ 18) +
    (2 ^ 9 + f % 4 * 2 ^ 7 + f / 2 ^ 2 % 4 * 2 ^ 1) * 2 ^ (8 * 0x04) +
    (recBits hd 28 0 14 * 2 ^ 17) * 2 ^ (8 * 0x08) +
    entry.toNat * 2 ^ (8 * 0x30) +
    2 ^ (8 * 0x38) + 2 ^ (8 * 0x3C) + 2 ^ (8 * 0x3E) +
    recBits hd 0 0 64 * 2 ^ (8 * 0xC0) + recBits hd 8 0 64 * 2 ^ (8 * 0xC8) + recBits hd 16 0 64 * 2 ^ (8 * 0xD0))

/-- The header would be refused (R33). -/
def headerBad (hd : BitVec 256) (entry : BitVec 64) : Bool :=
  recBits hd 24 10 22 != 0 || recBits hd 28 14 18 != 0 || pktStatus (wavePacket hd entry) != 0

/-- Remove a kennel's oldest tasks, up to 32; an empty kennel is free. -/
def Context.takeTasks (x : Context) (i : Nat) : List Task × Context :=
  match x.kennels[i]? with
  | none => ([], x)
  | some k =>
    let rest := k.tasks.drop 32
    ((k.tasks.take 32).map (fun t => t.2),
      { x with kennels := if rest.isEmpty then x.kennels.eraseIdx i else x.kennels.set i { k with tasks := rest } })

/-- A kennel's wave leaves (R35): it enters dispatch, or its tasks are discarded (R33). -/
def State.formWave (s : State) (c i : Nat) : Res State :=
  match s.ctx? c with
  | none => .ok s
  | some x =>
    match x.kennels[i]? with
    | none => .ok s
    | some k => do
      let (ts, y) := x.takeTasks i
      let discard : State := s.setCtx c (some { y with taskbad := y.taskbad + BitVec.ofNat 64 ts.length, poolUsed := y.poolUsed - ts.length })
      match ← caught (s.partRead x ((k.key - 32).toNat) 32) with
      | .error _ => .ok discard
      | .ok bs =>
        let hd : BitVec 256 := recOf 256 bs
        if headerBad hd k.key then .ok discard else
        let l : Launch := { lseq := y.lseq + 1, pkt := wavePacket hd k.key, wave := some (k.cluster, ts), evOk := true,
                            seq0Ok := true, seq1Ok := true, eligible := some s.cycle }
        .ok (s.setCtx c (some { y with lseq := y.lseq + 1, launches := y.launches ++ [l] }))

/-- The first waiting task of the overflow queue that may enter a kennel: within a cluster the order is kept. -/
def firstEnterable (x : Context) (cycle : Nat) : List Nat → List Task → List Task → Option Context
  | _, _, [] => none
  | stuck, before, t :: rest =>
    if stuck.contains t.home then firstEnterable x cycle stuck (before ++ [t]) rest else
    match x.enterKennel cycle t with
    | some y => some { y with overflow := before ++ rest }
    | none => firstEnterable x cycle (t.home :: stuck) (before ++ [t]) rest

/-- Let full kennels form waves and waiting tasks enter kennels, until neither can. -/
def State.settleTasks (c : Nat) : Nat → State → Res State
  | 0, s => .ok s
  | n + 1, s =>
    match s.ctx? c with
    | none => .ok s
    | some x =>
      match x.kennels.findIdx? (fun k => decide (32 ≤ k.tasks.length)) with
      | some i => do State.settleTasks c n (← s.formWave c i)
      | none =>
        match firstEnterable x s.cycle [] [] x.overflow with
        | some y => State.settleTasks c n (s.setCtx c (some y))
        | none => .ok s

/-- Settle a context's tasks to the end: a turn takes a task off the overflow queue or a full kennel's tasks away. -/
def State.settleAll (s : State) (c : Nat) : Res State :=
  match s.ctx? c with
  | none => .ok s
  | some x => State.settleTasks c (2 * x.overflow.length + (x.kennels.map (fun k => k.tasks.length)).sum + 2) s

/-- Tasks become ready, in order (R34): each enters a kennel or waits in the overflow queue. -/
def State.readyTasks (c : Nat) : List Task → State → Res State
  | [], s => .ok s
  | t :: ts, s =>
    match s.ctx? c with
    | none => .ok s
    | some x => do
      let s1 := s.setCtx c (some ((x.enterKennel s.cycle t).getD { x with overflow := x.overflow ++ [t] }))
      State.readyTasks c ts (← s1.settleAll c)

/-! ## Dependence counters (R37) -/

def Context.dep (x : Context) (i : Nat) : DepCounter := Map.get {} x.deps i
def Context.setDep (x : Context) (i : Nat) (d : DepCounter) : Context := { x with deps := Map.set {} x.deps i d }

/-- Tasks that a counter releases move to the overflow queue in order, and enter kennels from there. -/
def State.release (s : State) (c : Nat) (ts : List Task) : Res State :=
  (s.modCtx c (fun x => { x with overflow := x.overflow ++ ts })).settleAll c

/-- The whole list of a counter is released. -/
def State.releaseDep (s : State) (c i : Nat) : Res State :=
  match s.ctx? c with
  | none => .ok s
  | some x =>
    let d := x.dep i
    (s.setCtx c (some (x.setDep i { d with pending := [] }))).release c d.pending

/-- Lower a counter by one. -/
def State.lowerDep (s : State) (c i : Nat) : Res State :=
  match s.ctx? c with
  | none => .ok s
  | some x =>
    let d := x.dep i
    if d.count = 0 then .ok (s.setCtx c (some { x with dcunder := x.dcunder + 1 }))
    else
      let s1 := s.setCtx c (some (x.setDep i { d with count := d.count - 1 }))
      if d.count = 1 then s1.releaseDep c i else .ok s1

/-- Raise a counter by one; a wrap to zero releases nothing. -/
def State.raiseDep (s : State) (c i : Nat) : State :=
  s.modCtx c (fun x => let d := x.dep i; x.setDep i { d with count := d.count + 1 })

/-- Set a counter (R279). -/
def State.setDepCount (s : State) (c i : Nat) (n : BitVec 32) : Res State :=
  let s1 := s.modCtx c (fun x => let d := x.dep i; x.setDep i { d with count := n })
  if n = 0 then s1.releaseDep c i else .ok s1

/-- Append a task to a counter's list; a counter at zero releases that task at once, and no other of its list. -/
def State.attachTask (s : State) (c i : Nat) (t : Task) : Res State :=
  match s.ctx? c with
  | none => .ok s
  | some x =>
    let d := x.dep i
    if d.count = 0 then s.release c [t]
    else .ok (s.setCtx c (some (x.setDep i { d with pending := d.pending ++ [t] })))

end Sys2Proof.Machine
end

