-- ==== Sys2Proof/Machine/Sync.lean ====
section
/-! DEFINITION. Fences, barriers, leashes, lane tasks, futures, dependence counters, launches, events and sequence
counters (R260 to R284). -/

namespace Sys2Proof.Machine

/-- A release: the word is held until every earlier access of the warp has been performed (R170). -/
def releaseHold (h : Here) : Res Unit := if h.warp.outstanding then .error .hold else .ok ()

/-- A load or atomic of the warp is in flight: what an acquire fence waits for (R173). -/
def Warp.loading (w : Warp) : Bool :=
  w.flight.any (fun f => !f.done && match f.kind with
    | .load _ _ _ _ _ | .atomic _ _ _ | .cas _ _ _ | .uload _ _ | .rload _ _ _ _ | .ratomic _ _ _ _ _ _ => true
    | _ => false)

/-- `fence` (R263): kinds 0 full, 1 acquire, 2 release, 3 near-memory, which later `nmc` words of the warp see (R182). -/
def execFence (kind scope : BitVec 3) (s : State) : Host.Outcome State Fault Refusal :=
  runWord (.fence kind scope) s (fun h =>
    let sc := scopeOf scope.toNat
    if (if kind = 1 then h.warp.loading else h.warp.outstanding) then .error .hold
    else if kind = 3 then done s (fun w => { w with nmFence := s.wseq })
    else .ok (if kind = 0 ∨ kind = 1 then s.acquireAt h.pack.core sc else s))

/-! ## Barriers (R264 to R270) -/

/-- The pack that keeps a group's root barriers. -/
def State.rootHolder (s : State) (p : Pack) : Option Pack :=
  s.packs.find? (fun q => q.group == p.group && q.ctx == p.ctx && !q.roots.isEmpty)

/-- A barrier of a pack by its code: bit 5 names a root barrier (R266). -/
def State.barrier? (s : State) (p : Pack) (code : BitVec 6) : Option Barrier :=
  if code.getLsbD 5 then (s.rootHolder p).bind (fun q => q.roots[code.toNat % 32]?) else p.bars[code.toNat % 32]?

def State.setBarrier (s : State) (p : Pack) (code : BitVec 6) (b : Barrier) : State :=
  if code.getLsbD 5 then
    match s.rootHolder p with
    | some q => s.modPack q.id (fun r => { r with roots := r.roots.set (code.toNat % 32) b })
    | none => s
  else s.modPack p.id (fun r => { r with bars := r.bars.set (code.toNat % 32) b })

/-- The number of a warp among a barrier's participants (R264). -/
def participantOf (p : Pack) (w : Warp) (code : BitVec 6) : Nat :=
  if code.getLsbD 5 then 64 * p.rank + participant w else participant w

/-- A barrier ends its phase when every arrival is made and no byte is outstanding (R267). -/
def Barrier.check (b : Barrier) : Barrier :=
  if b.arrived = b.expect ∧ b.txb = 0 then
    { b with phase := b.phase + 1, expect := b.expect - b.nextdrop, nextdrop := 0, arrived := 0, arrmask := 0,
             closed := b.closed || b.expect - b.nextdrop == 0 }
  else b

/-- An arrival of participant `w` (R267); `none` raises BAROVER. -/
def Barrier.arrive (b : Barrier) (w : Nat) (leave : Bool) : Option Barrier :=
  if b.closed || b.gone.getLsbD w || b.arrmask.getLsbD w || b.arrived == b.expect then none
  else
    let b1 := { b with arrmask := b.arrmask ||| (1#512 <<< w), arrived := b.arrived + 1 }
    let b2 := if leave then { b1 with gone := b1.gone ||| (1#512 <<< w), nextdrop := b1.nextdrop + 1 } else b1
    some b2.check

/-- The participants of a barrier (R264). -/
def State.barParts (s : State) (p : Pack) (code : BitVec 6) : Nat :=
  match s.barrier? p code with | some b => b.parts | none => 0

/-- Act on a barrier: one the pack does not hold raises REGRANGE (R266). -/
def onBarrier (s : State) (code : BitVec 6) (h : Here) (f : Barrier → Res State) : Res State :=
  match s.barrier? h.pack code with
  | some b => f b
  | none => raise0 .regrange

/-- `bari` (R267). -/
def execBari (ka bar : BitVec 6) (s : State) : Host.Outcome State Fault Refusal :=
  runWord (.bari ka bar) s (fun h => onBarrier s bar h (fun b =>
    let n := (h.warp.kreg ka.toNat).toNat
    if b.arrived ≠ 0 ∨ b.txb ≠ 0 ∨ n = 0 ∨ b.parts < n then raise0 .barover
    else .ok (s.setBarrier h.pack bar { b with expect := n, nextdrop := 0, gone := 0, closed := false })))

/-- `barv` (R267): arrive, and return the phase arrived in. -/
def execBarv (ka bar : BitVec 6) (s : State) : Host.Outcome State Fault Refusal :=
  runWord (.barv ka bar) s (fun h => onBarrier s bar h (fun b => do
    releaseHold h
    match b.arrive (participantOf h.pack h.warp bar) false with
    | some b1 => .ok ((s.setBarrier h.pack bar b1).setCur (fun w => w.setK ka.toNat (b.phase.setWidth 64)))
    | none => raise0 .barover))

/-- `bard` (R267): arrive and depart. -/
def execBard (bar : BitVec 6) (s : State) : Host.Outcome State Fault Refusal :=
  runWord (.bard bar) s (fun h => onBarrier s bar h (fun b => do
    releaseHold h
    match b.arrive (participantOf h.pack h.warp bar) true with
    | some b1 => .ok (s.setBarrier h.pack bar b1)
    | none => raise0 .barover))

/-- A barrier lets pass a warp that waits for a phase (R268). -/
def Barrier.passed (b : Barrier) (phase : BitVec 32) : Bool :=
  b.closed || (decide (1 ≤ (b.phase - phase).toNat) && decide ((b.phase - phase).toNat < 2 ^ 31))

/-- The scope of the acquire of a `barw` on a phase (R178, R268). -/
def Barrier.scopeAt (b : Barrier) (root : Bool) (phase : BitVec 32) : Scope :=
  if b.wides.contains phase then .device else if root then .cluster else .pack

/-- `barw` (R268): an acquire at the barrier's scope. -/
def execBarw (ka bar : BitVec 6) (s : State) : Host.Outcome State Fault Refusal :=
  runWord (.barw ka bar) s (fun h => onBarrier s bar h (fun b =>
    let ph := (h.warp.kreg ka.toNat).extractLsb' 0 32
    if b.passed ph then .ok (s.acquireAt h.pack.core (b.scopeAt (bar.getLsbD 5) ph))
    else .error (.block (.barw bar ph))))

/-- `bart` (R267): expect more bytes. -/
def execBart (ka bar : BitVec 6) (s : State) : Host.Outcome State Fault Refusal :=
  runWord (.bart ka bar) s (fun h => onBarrier s bar h (fun b =>
    let t : Int := b.txb + (((h.warp.kreg ka.toNat).toNat % 2 ^ 32 : Nat) : Int)
    if b.closed || decide (2 ^ 31 ≤ t) then raise0 .barover
    else .ok (s.setBarrier h.pack bar (Barrier.check { b with txb := t }))))

/-! ## Leashes (R271 to R274) -/

/-- Slot `j` of a leash: its place in the core's scratchpad. -/
def slotAt (p : Pack) (l : Leash) (j : Nat) : Nat := p.scrBase + l.base + 8 * (j % l.depth)

/-- Write a handle in a slot. -/
def State.putHandle (s : State) (p : Pack) (l : Leash) (j : Nat) (x : BitVec 64) : State :=
  s.modCore p.core (fun k => { k with scratch := k.scratch.writeBytes (slotAt p l j) (leBytes 8 x.toNat) })

/-- The handle that a slot holds. -/
def State.handleAt (s : State) (p : Pack) (l : Leash) (j : Nat) : BitVec 64 :=
  BitVec.ofNat 64 (leNat (bytesAt (s.core p.core).scratch.read (slotAt p l j) 8))

def State.setLeash (s : State) (p : Pack) (q : Nat) (l : Leash) : State :=
  s.modPack p.id (fun r => { r with leashes := r.leashes.set q l })

/-- A push takes the next slot (R272, R273); `wide`: it is made by an `nmc` or a `cstep`. -/
def State.pushLeash (s : State) (p : Pack) (q : Nat) (l : Leash) (x : BitVec 64) (wide : Bool := false) : State :=
  let j := l.head + l.held + l.queued
  let others := l.wides.filter (fun i => i != j % l.depth)
  (s.putHandle p l j x).setLeash p q
    { l with queued := l.queued + 1, wides := if wide then others ++ [j % l.depth] else others }

/-- The scope of the acquire of a `qpop` or `qpeek` that observes the oldest queued handle (R178). -/
def Leash.scopeNext (l : Leash) : Scope := if l.wides.contains ((l.head + l.held) % l.depth) then .device else .pack

/-- The warps of the pack that blocked on the same leash before this one, where it too is blocked: they are made ready first
(R272). -/
def waitersBefore (h : Here) (why : BlockWhy) : Nat :=
  match h.warp.block with
  | some mine =>
    if mine.why ≠ why then 0 else
    ((upTo h.pack.warps.length).filter (fun i => i != h.wi && match h.pack.warps[i]? with
      | some w => (match w.block with
        | some b => b.why == why && w.live != 0 && !w.preHeld &&
          (decide (b.since < mine.since) || (b.since == mine.since && decide (i < h.wi)))
        | none => false)
      | none => false)).length
  | none => 0

/-- Act on a leash: one the pack does not hold raises LEASHBAD (R271). -/
def onLeash (q : BitVec 4) (h : Here) (f : Leash → Res State) : Res State :=
  match h.pack.leashes[q.toNat]? with
  | some l => f l
  | none => raise0 .leashbad

/-- `qpush` (R272). -/
def execQpush (ka : BitVec 6) (q : BitVec 4) (s : State) : Host.Outcome State Fault Refusal :=
  runWord (.qpush ka q) s (fun h => onLeash q h (fun l =>
    if l.depth ≤ l.queued + l.held + waitersBefore h (.qpush q.toNat) then .error (.block (.qpush q.toNat))
    else do
      releaseHold h
      .ok (s.pushLeash h.pack q.toNat l (h.warp.kreg ka.toNat))))

/-- `qpop` (R272). -/
def execQpop (ka : BitVec 6) (q : BitVec 4) (s : State) : Host.Outcome State Fault Refusal :=
  runWord (.qpop ka q) s (fun h => onLeash q h (fun l =>
    if l.queued ≤ waitersBefore h (.qpop q.toNat) then .error (.block (.qpop q.toNat))
    else .ok (((s.acquireAt h.pack.core l.scopeNext).setLeash h.pack q.toNat { l with queued := l.queued - 1, held := l.held + 1 }).setCur
      (fun w => w.setK ka.toNat (s.handleAt h.pack l (l.head + l.held))))))

/-- `qpeek` (R272). -/
def execQpeek (ka : BitVec 6) (m : BitVec 3) (q : BitVec 4) (s : State) : Host.Outcome State Fault Refusal :=
  runWord (.qpeek ka m q) s (fun h => onLeash q h (fun l =>
    if l.queued = 0 then done s (fun w => w.setC m.toNat false)
    else done (s.acquireAt h.pack.core l.scopeNext) (fun w => (w.setK ka.toNat (s.handleAt h.pack l (l.head + l.held))).setC m.toNat true)))

/-- `qrel` (R272). -/
def execQrel (q : BitVec 4) (s : State) : Host.Outcome State Fault Refusal :=
  runWord (.qrel q) s (fun h => onLeash q h (fun l =>
    if l.held = 0 then raise0 .leashbad
    else do
      releaseHold h
      .ok (s.setLeash h.pack q.toNat { l with head := (l.head + 1) % l.depth, held := l.held - 1 })))

/-! ## Lane tasks (R276) -/

/-- The argument record of a lane's task: sixteen registers from v(16m). -/
def taskArg (w : Warp) (m : BitVec 3) (lane : Nat) : BitVec 512 :=
  BitVec.ofNat 512 ((upTo 16).map (fun j => (w.vreg (16 * m.toNat + j) lane).toNat * 2 ^ (32 * j))).sum

/-- Attach tasks to a counter in order. -/
def State.attachTasks (c i : Nat) : List Task → State → Res State
  | [], s => .ok s
  | t :: ts, s => do State.attachTasks c i ts (← s.attachTask c i t)

/-- `spawn` and `spawn.dc` (R276). -/
def spawnTasks (ka : BitVec 6) (m : BitVec 3) (dep : Option Nat) (s : State) (h : Here) : Res State :=
  let e := h.warp.kreg ka.toNat
  let lanes := lanesOf h.warp.exec
  if e.toNat % 4 ≠ 0 then raiseAt .misalign e.toNat
  else if canonical e.toNat = false then raiseAt .xlate e.toNat
  else if descTaskmax h.ctx.desc < h.ctx.poolUsed + lanes.length then .error (.block (.spawn lanes.length))
  else do
    releaseHold h
    let ts : List Task := (upTo lanes.length).map (fun i =>
      { id := h.ctx.taskSeq + i, entry := e, arg := taskArg h.warp m (lanes.getD i 0), home := clusterOf h.pack.core })
    let s1 := (s.markLanes h.warp.exec).modCtx h.pack.ctx (fun x =>
      { x with taskSeq := x.taskSeq + lanes.length, poolUsed := x.poolUsed + lanes.length })
    match dep with
    | none => State.readyTasks h.pack.ctx ts s1
    | some i => State.attachTasks h.pack.ctx i ts s1

def execSpawn (ka : BitVec 6) (m : BitVec 3) (s : State) : Host.Outcome State Fault Refusal :=
  runWord (.spawn ka m) s (spawnTasks ka m none s)

def execSpawnDc (ka : BitVec 6) (m : BitVec 3) (kc : BitVec 6) (s : State) : Host.Outcome State Fault Refusal :=
  runWord (.spawnDc ka m kc) s (fun h => spawnTasks ka m (some ((h.warp.kreg kc.toNat).toNat % 4096)) s h)

/-! ## Futures (R36 to R40, R277, R278) -/

/-- The flags of a cell (R36). -/
def cellWord (bs : List (BitVec 8)) : Nat := leNat ((bs.drop 8).take 2)
def cellFull (bs : List (BitVec 8)) : Bool := cellWord bs / 2 ^ 15 % 2 == 1
def cellWaiting (bs : List (BitVec 8)) : Bool := cellWord bs / 2 ^ 14 % 2 == 1
def cellDep (bs : List (BitVec 8)) : Nat := cellWord bs % 4096

/-- An operation writes a byte of a cell's address, wherever an earlier translation has put it (R191). -/
def storesAt (k : FlightKind) (va n : Nat) : Bool :=
  match k with
  | .store bs _ _ late =>
    bs.any (fun b => (match b.place with | .dram _ | .host _ | .peer _ _ => true | _ => false) && decide (va ≤ b.va ∧ b.va < va + n)) ||
      late.any (fun a => (match a.1.place with | .dram _ | .host _ | .peer _ _ => true | _ => false) &&
        decide (a.1.va < va + n ∧ va < a.1.va + a.1.len))
  | _ => false

/-- An earlier access of the warp touches a cell, or its page migrates: the packet waits. -/
def State.cellsBusy (s : State) (h : Here) (accs : List LaneAcc) : Bool :=
  accs.any (fun a => s.migrating h.ctx a.va ||
    h.warp.flight.any (fun f => !f.done &&
      ((flightPlaces f.kind).any (fun p => a.places.contains p) || storesAt f.kind a.va a.len)))

/-- The cells of the active lanes, with the checks of R277: the accesses, the void lanes and the pages. What the cells hold is read
once the warp's earlier accesses of them have been performed (R166). A poisoned cell raises POISON before any cell is found empty
(FUTLATE, R53): the model's choice (log entry 111). -/
def State.cells (s : State) (h : Here) (v : BitVec 320) (use : Use) (off : BitVec 8) :
    Res (List LaneAcc × List Nat × List TlbEntry) := do
  -- a page of KIND other than 0, or with W = 0, raises PROT among the translation causes
  let check (l : Nat) : LaneTry (Option (LaneAcc × List TlbEntry)) :=
    match s.laneAccess h v 16 use l (elementOf h off l) with
    | .ok (some (a, ts)) => if a.place.isDram then .ok (some (a, ts)) else laneFail 4 .prot a.va
    | .error (4, .raise .fabric a i p) => .error (4, .raise .prot a i p)
    | r => r
  let rs ← allLanes ((lanesOf h.warp.exec).map (fun l => (l, check l)))
  let accs := rs.filterMap (fun x => x.2.map (fun y => y.1))
  if s.cellsBusy h accs then .error .hold else
  match accs.findSome? (fun a => ((upTo 16).find? (fun i => s.homeBad (a.place.plus i))).map (fun i => (a, a.va + i))) with
  | some (a, va) => s.raisePoison a.places va (laneInfo a.lane)
  | none => .ok (accs, rs.filterMap (fun x => if x.2.isNone then some x.1 else none),
      rs.flatMap (fun x => match x.2 with | some y => y.2 | none => []))

/-- The bytes of a cell at its home. -/
def State.cellBytes (s : State) (a : LaneAcc) : List (BitVec 8) := a.places.map s.homeByte

/-- The two flag bytes of a cell, written (R36). -/
def State.putFlags (s : State) (core : Nat) (a : LaneAcc) (set clear : Nat) : State :=
  let w := cellWord (s.cellBytes a)
  let x := (w &&& (2 ^ 16 - 1 - clear)) ||| set
  let bs := wholeBytes (a.va + 8) [a.place.plus 8, a.place.plus 9] [BitVec.ofNat 8 x, BitVec.ofNat 8 (x / 256)]
  ((s.keepPrev bs).writeAll bs).storeL1 core true { va := a.va, via := 0, place := a.place, mask := 0, val := 0 }

/-- A lane that meets an empty future (R38): the counter is raised and WAITING set if it was clear, and the lane's
task joins the counter's list. -/
def State.squash (s : State) (h : Here) (a : LaneAcc) : Res State :=
  let bs := s.cellBytes a
  let s1 := if cellWaiting bs then s else (s.raiseDep h.pack.ctx (cellDep bs)).putFlags h.pack.core a (2 ^ 14) 0
  match h.pack.tasks[a.lane]? with
  | some t => s1.attachTask h.pack.ctx (cellDep bs) t
  | none => .ok s1

/-- Squash lanes in ascending order (R52). -/
def State.squashAll (h : Here) : List LaneAcc → State → Res State
  | [], s => .ok s
  | a :: rest, s => do State.squashAll h rest (← s.squash h a)

/-- `fget` (R278). -/
def execFget (data : BitVec 7) (off : BitVec 8) (view : BitVec 5) (s : State) : Host.Outcome State Fault Refusal :=
  runWord (.fget data off view) s (fun h => do
    let v ← h.view view false true 16
    let (accs, voids, ts) ← s.cells h v .atomic off
    let full := accs.filter (fun a => cellFull (s.cellBytes a))
    let empty := accs.filter (fun a => !cellFull (s.cellBytes a))
    if empty.any (fun a => !h.pack.wave || h.warp.sideEff.getLsbD a.lane) then (raise0 .futlate : Res Unit)
    watchCheck h (accs.flatMap (accTouches v true false))
    let s1 ← State.squashAll h empty ((s.detect (accs.flatMap LaneAcc.places)).cachePages h.pack.ctx ts)
    let s2 := if full.isEmpty then s1 else s1.acquireAt h.pack.core (scopeOf (viewScope v))
    let put (w : Warp) : Warp := voids.foldl (fun u l => u.setGroup data 2 l 0)
      (full.foldl (fun u a => u.setGroup data 2 a.lane (leNat ((s.cellBytes a).take 8))) w)
    if empty.isEmpty then .ok (s2.setCur put)
    else
      let w := (s.curWarp.getD h.warp).dropLanes (laneMask empty)
      retiring h w (s2.setCur (fun u => (put u).dropLanes (laneMask empty))))

/-- A fill (R39, R278). -/
def State.fill (s : State) (h : Here) (a : LaneAcc) (x : Nat) : Res State :=
  let bs := s.cellBytes a
  let new : List StoreByte := wholeBytes a.va ((upTo 8).map a.place.plus) (leBytes 8 x)
  let s2 := ((s.keepPrev new).writeAll new).putFlags h.pack.core a (2 ^ 15) (2 ^ 14)
  if cellWaiting bs then s2.lowerDep h.pack.ctx (cellDep bs) else .ok s2

/-- Fill cells in ascending lane order. -/
def State.fillAll (h : Here) (data : BitVec 7) : List LaneAcc → State → Res State
  | [], s => .ok s
  | a :: rest, s => do State.fillAll h data rest (← s.fill h a (dataOf h.warp data 8 a.lane))

/-- `fput` (R278). -/
def execFput (data : BitVec 7) (off : BitVec 8) (view : BitVec 5) (s : State) : Host.Outcome State Fault Refusal :=
  runWord (.fput data off view) s (fun h => do
    let v ← h.view view false true 16
    let (accs, _, ts) ← s.cells h v .store off
    watchCheck h (accs.flatMap (accTouches v false true))
    releaseHold h
    State.fillAll h data accs (((s.detect (accs.flatMap LaneAcc.places)).cachePages h.pack.ctx ts).markLanes (laneMask accs)))

/-! ## Dependence counters, launches, events and sequence counters -/

/-- `dcnew` (R279). -/
def execDcnew (ka kb : BitVec 6) (s : State) : Host.Outcome State Fault Refusal :=
  runWord (.dcnew ka kb) s (fun h =>
    s.setDepCount h.pack.ctx ((h.warp.kreg ka.toNat).toNat % 4096) ((h.warp.kreg kb.toNat).extractLsb' 0 32))

/-- `dcdec` (R279). -/
def execDcdec (ka : BitVec 6) (s : State) : Host.Outcome State Fault Refusal :=
  runWord (.dcdec ka) s (fun h => do
    releaseHold h
    s.lowerDep h.pack.ctx ((h.warp.kreg ka.toNat).toNat % 4096))

/-- The four 64-byte parts of the packet that `launch` reads at `a`, translated as plain loads are (R136, R280), and their pages. -/
def State.launchAccs (s : State) (x : Context) (a : Nat) : Nat → Res (List LaneAcc × List TlbEntry)
  | 0 => .ok ([], [])
  | n + 1 => do
    let va := (a + 64 * (3 - n)) % 2 ^ 64
    let (t, p) ← s.translate x .load va
    let (accs, ts) ← s.launchAccs x a n
    .ok ({ lane := 0, va := va, place := p, len := 64, pos := 0, scales := [], zeros := [] } :: accs, t :: ts)

/-- The bytes of the parts of a packet, those at peers from a reply, and the lowest poisoned address. -/
def State.readParts (s : State) (h : Here) : List LaneAcc → List (BitVec 8) → List (BitVec 8) × Option Nat
  | [], _ => ([], none)
  | a :: rest, data =>
    let (bs, bad, d) := s.readSpan h.warp s.flightSeq h.pack.core true a.va a.place a.len data
    let (cs, bad2) := s.readParts h rest d
    (bs ++ cs, minIx bad bad2)

/-- What the peers have answered to the read of the packet at `a`, which is asked first and waited for (R280). -/
def launchAnswer (h : Here) (a : Nat) (ps : List Place) : Res RemoteReply :=
  if ps.all (fun p => p.peer?.isNone) then .ok .none else
  match h.warp.launchRead with
  | some r => if r.va = a then (match r.reply with | some x => .ok x | none => .error .hold) else .error (.await a ps)
  | none => .error (.await a ps)

/-- The 256 bytes of a launch packet, and the state after the read. -/
def State.launchBytes (s : State) (h : Here) (a : Nat) : Res (List (BitVec 8) × State) := do
  let (accs, ts) ← s.launchAccs h.ctx a 4
  let ps := accs.flatMap LaneAcc.places
  let f : Flight := { id := s.flightSeq, path := .laneLd, kind := .load 0 0 0 accs [], pc := 0, epoch := h.ctx.epoch, acquire := none,
                      release := none, inWcb := false, done := false, gen := (s.core h.pack.core).l1Gen }
  if s.meetsHeldAtomic f || s.awaitsSwitch h.ctx f then (.error .hold : Res Unit)
  let reply ← launchAnswer h a ps
  let reqs := lineRequests ps
  let parts := accs.map (fun x => (x.va, x.place))
  match lowestWith .fabric reply reqs parts with
  | some x => raiseAt .fabric x
  | none =>
    let (bs, bad) := s.readParts h accs (replyBytes reply)
    match minIx bad (lowestPoison reply reqs parts) with
    | some x => s.raisePoison ps x 0
    | none => .ok (bs, (((s.detect ps).fillSectors h.pack.core (s.fillFor h.pack.core f 0) ps).cachePages h.pack.ctx ts).setCur
        (fun w => { w with launchRead := none }))

/-- `launch` (R280). -/
def execLaunch (ka : BitVec 6) (s : State) : Host.Outcome State Fault Refusal :=
  runWord (.launch ka) s (fun h =>
    let a := (h.warp.kreg ka.toNat).toNat
    if a % 64 ≠ 0 then raiseAt .misalign a else do
    releaseHold h
    if 4096 ≤ h.ctx.undispatched then .error .hold else do
    let (bs, s1) ← s.launchBytes h a
    (s1.markLanes h.warp.exec).acceptLaunch h.pack.ctx (recOf 2048 bs))

/-- The events that an event word names (R281): a register's mask over a group, or the literal's one event. -/
def eventsNamed (h : Here) (ka : BitVec 6) (g : BitVec 2) : BitVec 2 × BitVec 64 :=
  match h.lit with
  | some p => (p.extractLsb' 6 2, 1#64 <<< (p.toNat % 64))
  | none => (g, h.warp.kreg ka.toNat)

/-- `evset` (R282). -/
def execEvset (ka : BitVec 6) (g : BitVec 2) (s : State) : Host.Outcome State Fault Refusal :=
  runWord (.evset ka g) s (fun h => do
    releaseHold h
    let m := eventsNamed h ka g
    .ok ((s.markLanes h.warp.exec).setEvents h.pack.ctx (groupMask m.1.toNat m.2)))

/-- `evclr` (R282). -/
def execEvclr (ka : BitVec 6) (g : BitVec 2) (s : State) : Host.Outcome State Fault Refusal :=
  runWord (.evclr ka g) s (fun h =>
    let m := eventsNamed h ka g
    .ok (s.clearEvents h.pack.ctx (groupMask m.1.toNat m.2)))

/-- A wait on the context's events or counters passes if the present state meets it, or one since it blocked did. -/
def passOrBlock (s : State) (h : Here) (why : BlockWhy) : Res State :=
  if blockMet h.ctx why || (match h.warp.block with | some b => b.why == why && b.sat | none => false) then
    .ok (s.acquireAt h.pack.core .device)
  else .error (.block why)

/-- `evwait` (R282). -/
def execEvwait (ka : BitVec 6) (g : BitVec 2) (s : State) : Host.Outcome State Fault Refusal :=
  runWord (.evwait ka g) s (fun h =>
    let m := eventsNamed h ka g
    passOrBlock s h (.evwait m.1 m.2))

/-- `seqadd` (R283). -/
def execSeqadd (ka kb : BitVec 6) (s : State) : Host.Outcome State Fault Refusal :=
  runWord (.seqadd ka kb) s (fun h => do
    releaseHold h
    .ok ((s.markLanes h.warp.exec).addSeq h.pack.ctx ((h.warp.kreg ka.toNat).toNat % 256) (h.warp.kreg kb.toNat)))

/-- `seqwait` (R283). -/
def execSeqwait (ka kb : BitVec 6) (s : State) : Host.Outcome State Fault Refusal :=
  runWord (.seqwait ka kb) s (fun h =>
    passOrBlock s h (.seqwait ((h.warp.kreg ka.toNat).toNat % 256) (h.warp.kreg kb.toNat)))

end Sys2Proof.Machine
end

