-- ==== Sys2Proof/Machine/Engine.lean ====
section
/-! DEFINITION. What the engines share: the block of a command and its completion target (R288, R289), range locks
(R155, R156), the order that a `cfence` gives (R316), the signal of a completion (R156, R273, R267, R384), the send
allowance of an engine (R309), and the state of a unit that a halt stops (R376). -/

namespace Sys2Proof.Machine

/-! ## Issuing a command (R288 to R290) -/

/-- A write of the warp's earlier packets to one of `n` bytes of a scratchpad is still to be performed: a read made at issue
waits for it, and so sees it (R288). -/
def Warp.writing (w : Warp) (p : Place) (n : Nat) : Bool :=
  w.flight.any (fun g => !g.done && !isLoad g.kind && (flightPlaces g.kind).any (fun q => match p, q with
    | .scratch c o, .scratch d k => c == d && decide (o ≤ k) && decide (k < o + n)
    | _, _ => false))

/-- The bytes of a block in the issuing pack's window, `n` bytes aligned to `n`, with every write of the warp's earlier packets. A
poisoned block raises POISON, once its place is checked: for `mfmt`, of which no rule says so, the model's choice (log entry 115). -/
def State.block (s : State) (h : Here) (off n align : Nat) : Res (List (BitVec 8)) :=
  if off % align ≠ 0 then raiseAt .misalign off else
  match windowPlace h.pack off n with
  | none => raiseAt .view off
  | some p =>
    if pktFree h.pack.pkt < off + n then raiseAt .view off else
    if s.iss.pre.writing p n then .error .hold else
    match (upTo n).find? (fun i => s.badPlace (p.plus i)) with
    | some i => s.raisePoison ((upTo n).map p.plus) (off + i) 0
    | none => .ok ((upTo n).map (fun i => s.readPlace (p.plus i)))

/-- A range of the window that holds no leash storage. -/
def windowFree (p : Pack) (off n : Nat) : Bool := decide (off + n ≤ pktFree p.pkt)

def targetKind (t : BitVec 64) : Nat := t.toNat / 2 ^ 62
def targetIndex (t : BitVec 64) : Nat := t.toNat % 4096

/-- The check of the completion target (R289); only copy commands may name kinds 0 and 2. -/
def targetCheck (s : State) (h : Here) (copy : Bool) (t : BitVec 64) : Res Unit :=
  let i := targetIndex t
  if t.toNat / 2 ^ 12 % 2 ^ 50 ≠ 0 then raise0 .fmt else
  match targetKind t with
  | 0 => if copy && i == 0 then .ok () else raise0 .fmt
  | 1 => if 16 ≤ i then raise0 .fmt else if h.pack.leashes.length ≤ i then raise0 .leashbad else .ok ()
  | 2 => if !copy || decide (64 ≤ i) then raise0 .fmt
         else if (s.barrier? h.pack (BitVec.ofNat 6 i)).isSome then .ok () else raise0 .regrange
  | _ => .ok ()

/-! ## Range locks (R155, R156) -/

/-- The indices of a core's free entries, the lowest first. -/
def Core.freeLocks (k : Core) : List Nat := (upTo 64).filter (fun i => (Map.get none k.locks i).isNone)

/-- Register ranges, each as (destination, global, LO, HI), in the lowest free entries; without enough of them the
command is held. -/
def State.lockRanges (s : State) (core ctx pack tag : Nat) (rs : List (Bool × Bool × Nat × Nat)) : Res State :=
  let free := (s.core core).freeLocks
  if free.length < rs.length then .error .hold
  else .ok (s.modCore core (fun k => { k with
    locks := (free.zip rs).foldl (fun m x => Map.set none m x.1 (some
      { dest := x.2.1, glob := x.2.2.1, ctx := ctx, pack := pack, tag := tag, lo := x.2.2.2.1, hi := x.2.2.2.2 })) k.locks }))

/-- Free the entries of a command. -/
def State.unlock (s : State) (core tag : Nat) : State :=
  s.modCore core (fun k => { k with locks := k.locks.filter (fun e => match e.2 with | some l => l.tag != tag | none => true) })

/-! ## `cfence` (R316) -/

/-- The uncompleted commands of the kinds that a mask selects (R316). -/
def State.selected (s : State) (h : Here) (mask : BitVec 4) : List Nat :=
  let k := s.core h.pack.core
  let mine (pack warp : Nat) : Bool := pack == h.pid && warp == h.wi
  (if mask.getLsbD 0 then (k.copies.filter (fun c => mine c.pack c.warp)).map (fun c => tagId c.tag) else []) ++
  (if mask.getLsbD 1 then (k.nmcs.filter (fun c => mine c.pack c.warp)).map (fun c => tagId c.tag) else []) ++
  (if mask.getLsbD 2 then (s.colls.filter (fun c => mine c.pack c.warp)).map (fun c => tagId c.tag) else []) ++
  (if mask.getLsbD 3 then (h.warp.flight.filter (fun f => f.path == .fab && !f.done)).map (fun f => flightId f.id) else [])

/-! ## Units that a halt stops (R376, R377) -/

/-- The unit of a context (KIND, place) performs nothing more: the context is halted, or the unit has stopped. -/
def Context.unitStopped (x : Context) (kind place : Nat) : Bool :=
  match x.halt with
  | .clear => false
  | .halted => true
  | .raised us _ => us.any (fun u => u.kind == kind && u.place == place && u.stopped)

/-- A unit that a halt message has reached starts no new work (R376). -/
def Context.unitClosing (x : Context) (kind place : Nat) : Bool :=
  match x.halt with
  | .clear => false
  | .halted => true
  | .raised us _ => us.any (fun u => u.kind == kind && u.place == place && u.arrived)

/-! ## Signalling a completion -/

/-- The command's operation in flight on a path completes (R129). -/
def Warp.finishTag (w : Warp) (path : Path) (tag : Nat) : Warp :=
  Warp.settleCounters { w with flight := w.flight.map (fun f =>
    if f.path = path ∧ f.kind = .engine tag then { f with done := true } else f) }

/-- A barrier whose present phase an `nmc` or `cstep` delivers bytes to (R178). -/
def Barrier.widen (b : Barrier) (wide : Bool) : Barrier :=
  if wide then { b with wides := b.wides.filter (fun q => q != b.phase && decide ((b.phase - q).toNat < 2 ^ 31)) ++ [b.phase] } else b

/-- Bytes of the present phase are delivered (R267). -/
def Barrier.deliver (b : Barrier) (bytes : Nat) : Barrier := { b with txb := b.txb - bytes }

/-- Apply a completion to a pack that runs (R289): `none` where it must wait for a slot or for TXB. -/
def State.applyDone (s : State) (p : Pack) (d : HeldDone) : Option State :=
  match d.path with
  | some path => some (s.modWarp p.id d.warp (fun w => w.finishTag path d.tag))
  | none =>
    match targetKind d.target with
    | 1 =>
      match p.leashes[targetIndex d.target]? with
      | some l => if l.depth ≤ l.queued + l.held then none
                  else some (s.pushLeash p (targetIndex d.target) l d.handle d.wide)
      | none => some s
    | 2 =>
      let code := BitVec.ofNat 6 (targetIndex d.target)
      match s.barrier? p code with
      | some b => if b.txb - d.bytes < -(2 ^ 31 : Int) then none
                  else some (s.setBarrier p code (Barrier.check ((b.widen d.wide).deliver d.bytes)))
      | none => some s
    | _ => some s

/-- Completions held for a pack, applied in order as far as their targets take them. -/
def State.applyHeld (pid : Nat) : List HeldDone → State → State
  | [], s => s
  | d :: ds, s =>
    match s.pack? pid with
    | none => s
    | some p =>
      match s.applyDone p d with
      | some t => State.applyHeld pid ds (t.modPack pid (fun q => { q with heldDone := q.heldDone.erase d }))
      | none => State.applyHeld pid ds s

/-- The completion of a command (R156, R289): its locks are freed, and its target is signalled; `none` where the
signal waits in the engine. A saved pack's own targets are held for its resumption (R384). `wide`: the command is an `nmc` or a
`cstep` (R178). -/
def State.signal (s : State) (core ctx pid warp tag : Nat) (path : Option Path) (target handle : BitVec 64)
    (bytes : Nat) (wide : Bool := false) : Res (Option State) :=
  let s1 := s.unlock core tag
  let d : HeldDone := { tag := tag, target := target, handle := handle, bytes := bytes, path := path, warp := warp, wide := wide }
  if path.isNone ∧ targetKind target = 3 then do
    let t ← s1.lowerDep ctx (targetIndex target)
    .ok (some t)
  else
    match s1.pack? pid with
    | none => .ok (some s1)
    | some p =>
      if p.status = .saved then .ok (some (s1.modPack pid (fun q => { q with heldDone := q.heldDone ++ [d] })))
      else .ok (s1.applyDone p d)

/-- The path that a command with a completion target counts on (R130): kind 0 is the COPY counter. -/
def targetPath (t : BitVec 64) : Option Path := if targetKind t = 0 then some .copy else none

/-! ## Send allowance of an engine (R309) -/

/-- The key of an engine command among requesters. -/
def engineKey (core tag : Nat) : Nat := core * 2 ^ 48 + tag

/-- The core and the tag of a key, and the key of the fill of a row that a matrix command's key with a row stands for (R338). -/
def engineCore (k : Nat) : Nat := k / 2 ^ 48 % 2 ^ 16
def engineTag (k : Nat) : Nat := k % 2 ^ 48
def fillKey (core tag row : Nat) : Nat := (row + 1) * 2 ^ 64 + engineKey core tag

/-- The engine may send: units are reserved for it, or it stands at the head of the queue, or the queue is empty. -/
def engineSendable (e : Peer) (r : Requester) (units : Nat) : Bool :=
  decide (units + otherReserved e r ≤ e.allow) &&
  (reservedFor e r || e.queue.isEmpty || (match e.queue with | q :: _ => q.1 == r | [] => false))

/-- Spend an engine's units and leave the queue; a peer that cannot take them puts the engine in its queue. -/
def State.engineSend (s : State) (r : Requester) (needs : List (Nat × Nat)) : Except State State :=
  match needs.find? (fun n => !engineSendable (s.peer n.1) r n.2) with
  | some n => .error (s.joinQueue n.1 r n.2)
  | none => .ok (needs.foldl (fun t n =>
      let u := t.spend n.1 r n.2
      u.setPeer n.1 { u.peer n.1 with queue := (u.peer n.1).queue.filter (fun q => q.1 != r) }) s)

/-- An entry of the peer table with another STATE. -/
def withPeerState (e : BitVec 64) (state : Nat) : BitVec 64 :=
  (e &&& ~~~(BitVec.ofNat 64 (3 * 2 ^ 61))) ||| BitVec.ofNat 64 (state % 4 * 2 ^ 61)

/-- The peers as they stood when a request was sent that the loss of its peer has ended (R397): such a request is no new access. -/
def State.asSent (s : State) : State :=
  { s with peers := s.peers.map (fun p => (p.1,
      if p.2.gone then { p.2 with entry := withPeerState p.2.entry 2 ||| (1#64 <<< 63) } else p.2)) }

/-- The peers' entries as they stand in `s` again. -/
def State.peersAs (t s : State) : State :=
  { t with peers := t.peers.map (fun p => (p.1, { p.2 with entry := (s.peer p.1).entry })) }

/-- An event that takes the reply `.lost`: what was sent to a peer before its loss ends as in R397. -/
def State.whenLost (s : State) (reply : RemoteReply) (body : State → Host.Outcome State Fault Refusal) : Host.Outcome State Fault Refusal :=
  if reply = .lost then
    match body s.asSent with
    | .next t => .next (t.peersAs s)
    | o => o
  else body s

/-! ## Requests of engines to peers (R309, R396 to R399) -/

/-- Bytes at a peer join the request of their block, or make one (R396). -/
def addAsk (p va n : Nat) (write : Bool) : List Ask → List Ask
  | [] => [{ peer := p, va := va, len := n, bytes := n, write := write }]
  | a :: rest =>
    if a.peer = p ∧ a.va / 256 = va / 256 ∧ a.write = write then
      { a with va := min a.va va, len := max (a.va + a.len) (va + n) - min a.va va, bytes := a.bytes + n } :: rest
    else a :: addAsk p va n write rest

/-- The requests for chunks of bytes at peers, peer by peer: peer, address and length of each. -/
def asksOf (write : Bool) (chunks : List (Nat × Nat × Nat)) : List Ask :=
  let asks := chunks.foldl (fun acc c => addAsk c.1 c.2.1 c.2.2 write acc) []
  ((asks.map (fun a => a.peer)).eraseDups).flatMap (fun q => asks.filter (fun a => a.peer == q))

/-- How the request of a byte was answered: the data of a lost peer is poison (R397). -/
def askStatus (reply : RemoteReply) (asks : List Ask) (p va : Nat) (write : Bool) : LineStatus :=
  match reply with
  | .fabric => .fabric
  | .poison | .lost => .poison
  | .lines _ st => (match st.getD (asks.findIdx (fun a => a.peer == p && a.va / 256 == va / 256 && a.write == write)) .ok with
    | .lost => .poison
    | x => x)
  | _ => .ok

/-- The requests that go to a peer as one engine request: those in front, of up to `room` bytes in all (R309). -/
def askGroup (p : Nat) : Nat → List Ask → List Ask
  | _, [] => []
  | room, a :: rest => if a.peer = p ∧ a.bytes ≤ room then a :: askGroup p (room - a.bytes) rest else []

/-- The peer and the units of an engine request (R309): 256 bytes each. -/
def askUnits (g : List Ask) : Nat × Nat := ((g.headD { peer := 0, va := 0, len := 0, bytes := 0, write := false }).peer, ((g.map (fun a => a.bytes)).sum + 255) / 256)

/-- The requests of an engine that have no answer yet. -/
def State.askedOf (s : State) (r : Requester) : List Request := s.requests.filter (fun q => q.owner == r)

/-- An engine's requests are forgotten: the command has ended, or asks anew. -/
def State.dropAsks (s : State) (r : Requester) : State := s.closeRequests (fun _ => false) (fun q => q.owner == r)

/-- A turn of an engine command that asks peers for `asks`, `need` bytes of them data: they are charged and sent, one engine request of
up to 4 KiB in a turn (R309); with the answer to all of them, what the command does next. Plain requests that are no longer the
command's are asked anew; one that takes effect once is not (R186). -/
def State.askTurn (s : State) (r : Requester) (fctx : Nat) (cls : Ask → ReqClass) (asks : List Ask) (need : Nat) (reply : RemoteReply)
    (body : State → Host.Outcome State Fault Refusal) : Host.Outcome State Fault Refusal :=
  let out := s.askedOf r
  let key (a : Ask) : Nat × Nat × Nat := (a.peer, a.va, a.len)
  let stale := out.map (fun q => (q.peer, q.va, q.len)) ≠ (asks.take out.length).map key
  let answer (n : Nat) : Host.Outcome State Fault Refusal :=
    if !replySuits true need reply || !repliesTo n reply then .next s
    else body (s.closeRequests (answeredBy reply) (fun q => q.owner == r))
  if stale ∧ out.any (fun q => q.cls != .plain) = true then answer out.length
  else if stale then .next (s.dropAsks r)
  else match asks.drop out.length with
    | [] => if asks.isEmpty then (if reply = .none then body s else .next s) else answer asks.length
    | a :: rest =>
      if reply = .lost ∧ !out.isEmpty then answer asks.length
      else if reply ≠ .none ∨ (s.peer a.peer).noTag (cls a) = true then .next s
      else
        let g := askGroup a.peer 4096 (a :: rest)
        match s.engineSend r [askUnits g] with
        | .error t => .next t
        | .ok t => .next (g.foldl (fun u a => u.sendRequest r 0 (BitVec.ofNat 12 fctx) (cls a) a.peer a.va a.len 0 a.modes) t)

/-! ## Bytes that engines read and write -/

/-- A place in a space of a pack's addresses (R121) for an engine: a window or cluster address, or a translated global
one. -/
def State.enginePlace (s : State) (p : Pack) (x : Context) (space : Nat) (use : Use) (va n : Nat) :
    Res (Place × List TlbEntry) :=
  if space = 0 then do
    let (t, q) ← s.translate x use va
    .ok (q, [t])
  else match s.scratchPlace p space va n with
    | some q => .ok (q, [])
    | none => raiseAt .view va

/-- Engine writes leave no stale copy in the issuing core's L1 (R183, R178). -/
def State.dropL1 (s : State) (core : Nat) (p : Place) : State :=
  match p with
  | .dram pa => s.modCore core (fun k => k.dropLine (pa / 128))
  | _ => s

/-- Bytes that an engine writes for context `c`, with the poison of the data: a poisoned datum poisons every granule
that it touches. -/
def State.engineWrite (s : State) (c core : Nat) (bs : List StoreByte) (bad : Bool) : State :=
  bs.foldl (fun t b => t.dropL1 core b.place) (s.performFrom (dieOf core) c bs bad)

/-- Where a record slot begins in the park area of a context (R385), and the scratchpad image in it (R386). -/
def recordBase (x : Context) (slot : Nat) : Nat := (descPark x.desc + slot * (5 * 2 ^ 20)) % 2 ^ 64
def recScratch : Nat := 0x190000

/-- Bytes that a command writes in its pack's window (R306, R314): in the image of the record where the window is there
(R384). A park area that does not take them loses them. -/
def State.writeWindow (s : State) (pid off : Nat) (bs : List (BitVec 8)) : Res State :=
  match s.pack? pid with
  | none => .ok s
  | some p =>
    match p.record, s.ctx? p.ctx with
    | some r, some x =>
      if r.scrIn then do
        match ← caught (s.partWrite p.ctx x (recordBase x r.slot + recScratch + off) bs) with
        | .ok t => .ok t
        | .error _ => .ok s
      else .ok (inWindow s p)
    | _, _ => .ok (inWindow s p)
where
  inWindow (s : State) (p : Pack) : State :=
    s.writeAll (wholeBytes off ((upTo bs.length).map (fun i => .scratch p.core (p.scrBase + off + i))) bs)

end Sys2Proof.Machine
end

