-- ==== Sys2Proof/Machine/Copy.lean ====
section
/-! DEFINITION. Copy commands (R292 to R300): `tcopy`, `tgath`, `tscat`, `tred`, `tfill`, the segments that the copy
engine performs, faults diverted to the spill buffer and their replay (R158, R159, R291, R319, R320), and the signals
that wait in an engine (R267, R273). -/

namespace Sys2Proof.Machine

/-! ## The descriptor (R292) -/

def cdSbase (d : BitVec 1024) : Nat := recBits d 0x00 0 64
def cdDbase (d : BitVec 1024) : Nat := recBits d 0x08 0 64
def cdRop (d : BitVec 1024) : Nat := recBits d 0x10 32 4
def cdRaw (d : BitVec 1024) : Bool := recBits d 0x10 31 1 == 1
def cdSkip (d : BitVec 1024) : Bool := recBits d 0x10 30 1 == 1
def cdNdim (d : BitVec 1024) : Nat := recBits d 0x10 27 3
def cdDenc (d : BitVec 1024) : Nat := recBits d 0x10 12 4
def cdSenc (d : BitVec 1024) : Nat := recBits d 0x10 8 4
def cdDspace (d : BitVec 1024) : Nat := recBits d 0x10 4 2
def cdSspace (d : BitVec 1024) : Nat := recBits d 0x10 0 2
def cdAux (d : BitVec 1024) : Nat := recBits d 0x18 0 64
/-- EXTi as written, and the extent that the loop of dimension `i` runs over. -/
def cdExt (d : BitVec 1024) (i : Nat) : Nat := recBits d (0x20 + 4 * i) 0 32
def cdLoop (d : BitVec 1024) (i : Nat) : Nat := if i < cdNdim d then cdExt d i else 1
/-- SSTRi and DSTRi, `i` from 1 to 4. -/
def cdSstr (d : BitVec 1024) (i : Nat) : Int := signedOf 64 (recBits d (0x40 + 8 * (i - 1)) 0 64)
def cdDstr (d : BitVec 1024) (i : Nat) : Int := signedOf 64 (recBits d (0x60 + 8 * (i - 1)) 0 64)

/-- The number of elements of a command. -/
def cdElems (d : BitVec 1024) : Nat := ((upTo 5).map (cdLoop d)).foldl (fun a b => a * b) 1

/-- The width of an element in half bytes. -/
def halfBytes (enc : Nat) : Nat := encBits enc / 4

/-- The reserved bits of a descriptor, and fields that only other commands use (R292, R297, R298). `op` is FN. -/
def cdReserved (op : Nat) (d : BitVec 1024) : Bool :=
  recBits d 0x10 36 28 != 0 || recBits d 0x10 16 11 != 0 || recBits d 0x10 6 2 != 0 || recBits d 0x10 2 2 != 0 ||
  recBits d 0x34 0 96 != 0 ||
  (if op = 3 then decide (2 < cdRop d) else cdRop d != 0) ||
  (if op = 4 then cdSspace d != 0 || cdSenc d != 0 || cdSbase d != 0 || cdAux d / 2 ^ encBits (cdDenc d) != 0
   else op != 1 && op != 2 && cdAux d != 0) ||
  (op != 1 && op != 2 && cdSkip d) ||
  (upTo 5).any (fun i => decide (cdNdim d ≤ i) && cdExt d i != 0) ||
  [1, 2, 3, 4].any (fun i => decide (cdNdim d ≤ i) && (cdSstr d i != 0 || cdDstr d i != 0))

/-- The encodings that a converting copy takes (R295). -/
def convertible (e : Nat) : Bool := decide (e ≤ 8) || e == 12

/-- The encoding pair is one of R295, and for `tred` of R297. -/
def cdPair (op : Nat) (d : BitVec 1024) : Bool :=
  let a := cdSenc d
  let b := cdDenc d
  if op = 4 then decide (b ≤ 12)
  else if op = 3 then (b == 0 || b == 1 || b == 2 || b == 12) && convertible a && (b != 12 || (intRange a).isSome)
  else if a = b then decide (a ≤ 12) else convertible a && convertible b

/-- FMT of a descriptor, but for the overlap of its ranges (R293). -/
def cdBad (op : Nat) (d : BitVec 1024) : Bool :=
  let n := cdNdim d
  !(decide (1 ≤ n) && decide (n ≤ 5)) || cdReserved op d || !cdPair op d ||
  (upTo 5).any (fun i => decide (i < n) && cdExt d i == 0) || decide (2 ^ 36 < cdElems d) ||
  cdSspace d == 3 || cdDspace d == 3 ||
  ((op == 1 || op == 2) && (decide (n < 2) || decide (4096 < cdExt d 1)))

/-- What offends R293's MISALIGN on one side: its base, else the first stride that is no multiple of the element width. -/
def sideMisaligned (enc base : Nat) (str : Nat → Int) : Option Nat :=
  let w := encBits enc / 8
  if w = 0 then none
  else if base % w ≠ 0 then some base
  else ([1, 2, 3, 4].find? (fun i => str i % (w : Int) != 0)).map (fun i => intBits 64 (str i))

/-- MISALIGN of a descriptor (R293): XADDR; an odd extent of 4-bit elements has no address. -/
def cdMisaligned (op : Nat) (d : BitVec 1024) : Option Nat :=
  let nibbles (enc : Nat) : Bool := encBits enc == 4
  match (if op = 4 then none else sideMisaligned (cdSenc d) (cdSbase d) (cdSstr d)) with
  | some a => some a
  | none =>
    match sideMisaligned (cdDenc d) (cdDbase d) (cdDstr d) with
    | some a => some a
    | none =>
      if ((op != 4 && nibbles (cdSenc d)) || nibbles (cdDenc d)) && cdExt d 0 % 2 == 1 then some 0
      else if (op = 1 ∨ op = 2) ∧ cdAux d % 4 ≠ 0 then some (cdAux d) else none

/-- The index that makes a row be skipped (R296). -/
def skipIndex : Nat := 2 ^ 32 - 1

/-- The rows that a command touches on its indexed side. -/
def indexRows (d : BitVec 1024) (idx : List Nat) : List Nat := idx.filter (fun i => !(cdSkip d && i == skipIndex))

/-- The least range of one side (R156, R293): `rows` are the rows of dimension 1 where it is indexed. -/
def leastRange (d : BitVec 1024) (base enc : Nat) (str : Nat → Int) (rows : Option (List Nat)) : Int × Int :=
  let ends (i : Nat) : List Int :=
    match i, rows with
    | 1, some rs => rs.map (fun (j : Nat) => (j : Int) * str 1)
    | _, _ => [0, ((cdLoop d i : Int) - 1) * str i]
  let low (l : List Int) : Int := l.foldl min (l.headD 0)
  let high (l : List Int) : Int := l.foldl max (l.headD 0)
  let lo : Int := (base : Int) + ([1, 2, 3, 4].map (fun i => low (ends i))).sum
  let hi : Int := (base : Int) + ([1, 2, 3, 4].map (fun i => high (ends i))).sum +
    (((cdLoop d 0 * halfBytes enc + 1) / 2 : Nat) : Int)
  if rows = some [] then (lo, lo) else (lo, hi)

def srcRange (op : Nat) (d : BitVec 1024) (idx : List Nat) : Int × Int :=
  leastRange d (cdSbase d) (cdSenc d) (cdSstr d) (if op = 1 then some (indexRows d idx) else none)

def dstRange (op : Nat) (d : BitVec 1024) (idx : List Nat) : Int × Int :=
  leastRange d (cdDbase d) (cdDenc d) (cdDstr d) (if op = 2 then some (indexRows d idx) else none)

def rangesMeet (a b : Int × Int) : Bool := decide (a.1 < b.2) && decide (b.1 < a.2) && decide (a.1 < a.2) && decide (b.1 < b.2)

/-- VIEW of a range of a scratchpad space (R293): XADDR is the range's start where the range is not inside its window,
and the lowest byte that touches leash storage where it is (R275). -/
def State.rangeBad (s : State) (p : Pack) (space : Nat) (r : Int × Int) : Option (BitVec 64) :=
  if space = 0 ∨ r.1 = r.2 then none
  else if r.1 < 0 ∨ (s.scratchPlace p space r.1.toNat (r.2 - r.1).toNat).isNone = true then some (BitVec.ofInt 64 r.1)
  else (s.leashHit p space r.1.toNat (r.2 - r.1).toNat).map (fun a => BitVec.ofNat 64 a)

/-- The index array (R296), read at issue. -/
def State.readIndices (s : State) (h : Here) (op : Nat) (d : BitVec 1024) : Res (List Nat) :=
  if op ≠ 1 ∧ op ≠ 2 then .ok [] else
  let n := 4 * cdExt d 1
  let a := cdAux d
  if pktFree h.pack.pkt < a + n then raiseAt .view a else
  let pl : Place := .scratch h.pack.core (h.pack.scrBase + a)
  if s.iss.pre.writing pl n then .error .hold else
  match (upTo n).find? (fun i => s.badPlace (pl.plus i)) with
  | some i => s.raisePoison ((upTo n).map pl.plus) (a + i) 0
  | none => .ok ((upTo (cdExt d 1)).map (fun j => leNat ((upTo 4).map (fun i => s.readPlace (pl.plus (4 * j + i))))))

/-- The source and destination ranges overlap in one space (R293). -/
def cdOverlap (op : Nat) (d : BitVec 1024) (idx : List Nat) : Bool :=
  op != 4 && cdSspace d == cdDspace d && rangesMeet (srcRange op d idx) (dstRange op d idx)

/-- The checks of R293 in its order, and the indices; ranges that an unreadable index array leaves unknown overlap nothing. -/
def State.copyCheck (s : State) (h : Here) (op : Nat) (d : BitVec 1024) : Res (List Nat) :=
  let indices := s.readIndices h op d
  if (match indices with | .error .hold => true | _ => false) then .error .hold else
  if cdBad op d || (match indices with | .ok idx => cdOverlap op d idx | .error _ => false) then raise0 .fmt else
  match cdMisaligned op d with
  | some a => raiseAt .misalign a
  | none => do
    let idx ← indices
    let sr := srcRange op d idx
    let dr := dstRange op d idx
    match (if op = 4 then none else s.rangeBad h.pack (cdSspace d) sr) with
    | some a => .error (.raise .view a 0 false)
    | none =>
      match s.rangeBad h.pack (cdDspace d) dr with
      | some a => .error (.raise .view a 0 false)
      | none => .ok idx

/-- The destination of a command where it lies: the context's addresses, or a core's scratchpad. -/
def State.dstZone (s : State) (p : Pack) (op : Nat) (d : BitVec 1024) (idx : List Nat) : Nat × Nat × (Int × Int) :=
  let r := dstRange op d idx
  if cdDspace d = 0 then (0, p.ctx, r) else
  match s.scratchTarget p (cdDspace d) r.1.toNat with
  | some (q, off) => (1, q.core, ((q.scrBase + off : Nat) : Int), ((q.scrBase + off : Nat) : Int) + (r.2 - r.1))
  | none => (1, p.core, r)

/-- An earlier copy of the core has not completed and its destination overlaps (R179). -/
def State.copyOverlaps (s : State) (core : Nat) (z : Nat × Nat × (Int × Int)) : Bool :=
  (s.core core).copies.any (fun c => match s.pack? c.pack with
    | some q =>
      let y := s.dstZone q c.op.toNat c.desc c.idx
      y.1 == z.1 && y.2.1 == z.2.1 && rangesMeet y.2.2 z.2.2
    | none => false)

/-- The lock entries of a command (R299). -/
def copyLocks (op : Nat) (d : BitVec 1024) (idx : List Nat) : List (Bool × Bool × Nat × Nat) :=
  let entry (dest : Bool) (space : Nat) (r : Int × Int) : List (Bool × Bool × Nat × Nat) :=
    if space = 2 then [] else [(dest, space == 0, (BitVec.ofInt 64 r.1).toNat, (BitVec.ofInt 64 r.2).toNat)]
  (if op = 4 then [] else entry false (cdSspace d) (srcRange op d idx)) ++ entry true (cdDspace d) (dstRange op d idx)

/-- The window ranges that a copy word reads at issue: its descriptor and its index array (R288, R296). -/
def copyReads (off op : Nat) (d : BitVec 1024) : List (Nat × Nat) :=
  (off, 128) :: (if op = 1 ∨ op = 2 then [(cdAux d, 4 * cdExt d 1)] else [])

/-- Issue a copy command (R288 to R290, R293, R299): a release at pack scope (R177). -/
def issueCopy (op : BitVec 3) (ka kb kc : BitVec 6) (s : State) (h : Here) : Res State := do
  let bs ← s.block h (h.warp.kreg ka.toNat).toNat 128 64
  let target := h.warp.kreg kc.toNat
  targetCheck s h true target
  let d : BitVec 1024 := recOf 1024 bs
  let idx ← s.copyCheck h op.toNat d
  let n := h.pack.core
  if 32 ≤ (s.core n).copies.length ∨ s.copyOverlaps n (s.dstZone h.pack op.toNat d idx) = true then .error .hold else do
  releaseHold h
  let tag := (s.core n).seq
  let s0 ← s.lockRanges n h.pack.ctx h.pid tag (copyLocks op.toNat d idx)
  let s1 := s0.detectWindow h.pack (copyReads (h.warp.kreg ka.toNat).toNat op.toNat d)
  let s2 ← if targetKind target = 0 then s1.issueFlight h .copy (.engine tag) none none false else .ok s1
  let c : CopyCmd := { tag := tag, core := n, pack := h.pid, ctx := h.pack.ctx, warp := h.wi, pc := s.wordPc, op := op,
                       desc := d, idx := idx, target := target, handle := h.warp.kreg kb.toNat,
                       waits := h.warp.fenced 0, next := 0, written := 0, phase := .running, posted := [], segs := [],
                       watched := false }
  .ok (s2.modCore n (fun k => { k with seq := k.seq + 1, copies := k.copies ++ [c] }))

def execTcopy (ka kb kc : BitVec 6) (s : State) : Host.Outcome State Fault Refusal :=
  runWord (.tcopy ka kb kc) s (issueCopy 0 ka kb kc s)

def execTgath (ka kb kc : BitVec 6) (s : State) : Host.Outcome State Fault Refusal :=
  runWord (.tgath ka kb kc) s (issueCopy 1 ka kb kc s)

def execTscat (ka kb kc : BitVec 6) (s : State) : Host.Outcome State Fault Refusal :=
  runWord (.tscat ka kb kc) s (issueCopy 2 ka kb kc s)

def execTred (ka kb kc : BitVec 6) (s : State) : Host.Outcome State Fault Refusal :=
  runWord (.tred ka kb kc) s (issueCopy 3 ka kb kc s)

def execTfill (ka kb kc : BitVec 6) (s : State) : Host.Outcome State Fault Refusal :=
  runWord (.tfill ka kb kc) s (issueCopy 4 ka kb kc s)

/-! ## Elements (R294 to R297) -/

/-- The elements that move together: two where a side has 4-bit elements, so that whole bytes are written. -/
def CopyCmd.unit (c : CopyCmd) : Nat := if encBits (cdDenc c.desc) = 4 ∨ encBits (cdSenc c.desc) = 4 then 2 else 1

/-- The source and destination bytes of a unit, and the units of a segment of at most 4 KiB. -/
def CopyCmd.sourceBytes (c : CopyCmd) : Nat := c.unit * halfBytes (cdSenc c.desc) / 2
def CopyCmd.unitBytes (c : CopyCmd) : Nat := c.unit * halfBytes (cdDenc c.desc) / 2
def CopyCmd.segUnits (c : CopyCmd) : Nat := 4096 / c.unitBytes

/-- The tuple of element `n`, dimension 0 fastest. -/
def tupleOf (d : BitVec 1024) (n : Nat) : List Nat :=
  let e := cdLoop d
  [n % e 0, n / e 0 % e 1, n / (e 0 * e 1) % e 2, n / (e 0 * e 1 * e 2) % e 3, n / (e 0 * e 1 * e 2 * e 3) % e 4]

/-- Where an element is read and written: `zero`, its source row is all zero bits (R296); `keep`, its destination is
not written. -/
structure Element where
  src  : Nat
  dst  : Nat
  zero : Bool
  keep : Bool
  deriving DecidableEq, Repr

/-- Among the rows of a `tscat` that name one destination row, the one whose element stays; which one is not defined
(R296). -/
def CopyCmd.wins (c : CopyCmd) (n i1 : Nat) : Bool :=
  let k := c.idx.getD i1 0
  let rivals := (upTo c.idx.length).filter (fun j => c.idx.getD j 0 == k)
  let key := n - (n / cdLoop c.desc 0 % cdLoop c.desc 1 - rivals.headD 0) * cdLoop c.desc 0
  rivals.getD (Config.freeChoice (engineKey c.core c.tag * 2 ^ 64 + key) % max 1 rivals.length) 0 == i1

/-- Element `n` (R294); `n` is even where units hold two elements, so both lie in one row. -/
def CopyCmd.element (c : CopyCmd) (n : Nat) : Element :=
  let d := c.desc
  let t := tupleOf d n
  let i (j : Nat) : Nat := t.getD j 0
  let ix := c.idx.getD (i 1) 0
  let skip := cdSkip d && ix == skipIndex
  let j1 : Int := if c.op = 1 then ix else i 1
  let k1 : Int := if c.op = 2 then ix else i 1
  let addr (base enc : Nat) (r : Int) (str : Nat → Int) : Nat :=
    (BitVec.ofInt 64 ((base : Int) + (i 0 * halfBytes enc / 2 : Nat) + r * str 1 + (i 2 : Int) * str 2 +
      (i 3 : Int) * str 3 + (i 4 : Int) * str 4)).toNat
  { src := addr (cdSbase d) (cdSenc d) j1 (cdSstr d), dst := addr (cdDbase d) (cdDenc d) k1 (cdDstr d)
    zero := c.op == 1 && skip, keep := c.op == 2 && (skip || !c.wins n (i 1)) }

/-- The code of a converted element (R295). -/
def CopyCmd.convert (c : CopyCmd) (x : Nat) : Nat :=
  if cdSenc c.desc = cdDenc c.desc then x else encRound (cdDenc c.desc) (encVal (cdSenc c.desc) x)

/-- minimumNumber or maximumNumber of exact values (R100). -/
def pickVal (greatest : Bool) (x y : Val) : Val :=
  if x.isNan then y else if y.isNan then x
  else if greatest then (if belowVal x y then y else x) else (if belowVal y x then y else x)

/-- combine(d, s) of `tred` (R297): codes of DENC and of SENC. -/
def combineCode (d : BitVec 1024) (old x : Nat) : Nat :=
  let de := cdDenc d
  let se := cdSenc d
  if de = 12 then
    let a := intOf 12 old
    let b := intOf se x
    intBits 32 (match cdRop d with | 0 => a + b | 1 => min a b | _ => max a b)
  else
    let a := encVal de old
    let b := encVal se x
    encRound de (match cdRop d with
      | 0 => (addVal .rne a b).1
      | 1 => pickVal false a b
      | _ => pickVal true a b)

/-! ## A segment of a command (R294) -/

/-- What an engine holds while it performs a segment: the state, the command, its reads at peers and their reply, the peers' bytes that
are left, its writes at peers and their reply, whether it stops here, and the bytes that it writes, with their poison. -/
structure CopyRun where
  st     : State
  cmd    : CopyCmd
  asks   : List Ask := []
  reply  : RemoteReply := .none
  data   : List (BitVec 8) := []
  wasks  : List Ask := []
  wreply : RemoteReply := .none
  halt  : Bool := false
  wrote : List (StoreByte × Bool) := []

/-- Bytes that an engine writes, if any. -/
def CopyRun.put (r : CopyRun) (bs : List StoreByte) (bad : Bool) : CopyRun :=
  if bs.isEmpty then r else { r with st := r.st.engineWrite r.cmd.ctx r.cmd.core bs bad }

/-- A segment's writes are performed: a granule that takes a poisoned byte is poisoned, and one that they cover whole holds the poison
of its new bytes alone (R390). -/
def CopyRun.perform (r : CopyRun) : CopyRun :=
  let bads := ((r.wrote.filter (fun w => w.2)).map (fun w => granule w.1.place)).eraseDups
  let bytes (bad : Bool) : List StoreByte :=
    (r.wrote.filter (fun w => bads.contains (granule w.1.place) == bad)).map (fun w => w.1)
  { (r.put (bytes false) false).put (bytes true) true with wrote := [] }

/-- The chunks of a unit on one side: address and bytes. -/
def unitChunks (unit enc va : Nat) : List (Nat × Nat) :=
  if encBits enc = 4 then [(va, 1)] else (upTo unit).map (fun j => ((va + j * (encBits enc / 8)) % 2 ^ 64, encBits enc / 8))

/-- The codes of the elements that a unit's source bytes hold. -/
def unitCodes (unit enc : Nat) (bs : List (BitVec 8)) : List Nat :=
  if encBits enc = 4 then [leNat bs % 16, leNat bs / 16]
  else (upTo unit).map (fun j => leNat ((bs.drop (j * (encBits enc / 8))).take (encBits enc / 8)))

/-- The bytes of elements, in order. -/
def codeBytes (enc : Nat) (xs : List Nat) : List (BitVec 8) :=
  if encBits enc = 4 then [BitVec.ofNat 8 (xs.getD 0 0 % 16 + 16 * (xs.getD 1 0 % 16))]
  else xs.flatMap (fun x => leBytes (encBits enc / 8) x)

/-- The size of the page whose leaf, good or not, a walk meets (R132); 64 KiB, the smallest, where it meets none. -/
def State.leafSize (s : State) (va : Nat) : List (Nat × Nat × Nat) → Nat → Nat
  | [], _ => 65536
  | (shift, n, _) :: rest, table =>
    let e := BitVec.ofNat 64 (s.dram64 (table + 8 * (va / 2 ^ shift % 2 ^ n)))
    if e.getLsbD 56 then (if shift = 39 then 65536 else 2 ^ shift)
    else match rest with
      | [] => 65536
      | (_, _, size) :: _ => if nextOk e size then s.leafSize va rest (e.toNat / 256 % 2 ^ 40 * 256) else 65536

/-- The page of an address, present or not: its base and size (R320). -/
def State.pageSpan (s : State) (c va : Nat) : Nat × Nat :=
  match s.ctx? c with
  | some x => (match s.page x va with
    | .ok t => (t.base, t.size)
    | .error _ =>
      let n := s.leafSize (va % 2 ^ 57) walkLevels (descPtroot x.desc)
      (va / n * n, n))
  | none => (va / 65536 * 65536, 65536)

/-- The posted fault of an address's page, as the page was when it was posted, that the driver has not answered (R320). -/
def CopyCmd.postedAt (c : CopyCmd) (va : Nat) : Option Nat :=
  (c.posted.find? (fun q => decide (q.1 ≤ va) && decide (va < q.1 + q.2.1))).map (fun q => q.2.2)

/-- Post a fault; without a place in the queue the engine stalls and posts later (R373). `diverts`: a destination write that goes to
the spill buffer. -/
def CopyRun.post (r : CopyRun) (engine va : Nat) (cause : Cause) (write diverts : Bool) : Res CopyRun := do
  match ← r.st.postFault r.cmd.ctx (BitVec.ofNat 64 va) cause engine r.cmd.tag r.cmd.core write diverts with
  | none => .ok { r with halt := true }
  | some (t, fseq) =>
    let page := r.st.pageSpan r.cmd.ctx va
    let c1 := { r.cmd with posted := r.cmd.posted ++ [(page.1, page.2, fseq)] }
    .ok (if diverts then { r with st := t, cmd := c1 } else { r with st := t, cmd := { c1 with phase := .stalled fseq }, halt := true })

/-- A fault that stalls the command at an access: a page's is posted once until the driver answers (R320). -/
def CopyRun.stall (r : CopyRun) (va : Nat) (cause : Cause) (write : Bool) : Res CopyRun :=
  match r.cmd.postedAt va with
  | some fseq => .ok { r with cmd := { r.cmd with phase := .stalled fseq }, halt := true }
  | none => r.post 0 va cause write false

/-- The segments that the other commands of a die hold in its spill buffer (R158). -/
def State.otherSegs (s : State) (core tag : Nat) : Nat :=
  ((s.cores.filter (fun k => dieOf k.1 == dieOf core)).map (fun k =>
    ((k.2.copies.filter (fun c => k.1 != core || c.tag != tag)).map (fun c => c.segs.length)).sum)).sum

/-- Divert a byte to a segment that the command holds. -/
def CopyCmd.divert (c : CopyCmd) (va : Nat) (b : BitVec 8) (bad : Bool) : CopyCmd :=
  { c with segs := c.segs.map (fun g => if g.base = va / 4096 then { g with bytes := Map.set none g.bytes (va % 4096) (some (b, bad)) } else g) }

/-- Divert a chunk, with a new segment where its range has none (R158, R159). -/
def CopyRun.divert (r : CopyRun) (va : Nat) (bs : List (BitVec 8)) (bad : Bool) : CopyRun :=
  let have_ := r.cmd.segs.any (fun g => g.base == va / 4096)
  if !have_ && (decide (256 ≤ r.cmd.segs.length) || decide (16384 ≤ r.st.otherSegs r.cmd.core r.cmd.tag + r.cmd.segs.length)) then { r with halt := true }
  else
    let c1 := if have_ then r.cmd else
      { r.cmd with segs := r.cmd.segs ++ [{ base := va / 4096, order := r.st.spillSeq, bytes := [] }] }
    let s1 := if have_ then r.st else { r.st with spillSeq := r.st.spillSeq + 1 }
    { r with st := s1, cmd := (bs.zip (upTo bs.length)).foldl (fun c x => c.divert (va + x.2) x.1 bad) c1 }

/-- Watchpoints of engine accesses (R371): the hit is held in the issuing warp, once for each command. -/
def CopyRun.watch (r : CopyRun) (x : Context) (touches : List Touch) : CopyRun :=
  if r.cmd.watched then r else
  let hits := touches.flatMap (fun t => (upTo 16).filterMap (fun i => t.hit x i))
  match hits with
  | [] => r
  | a :: as =>
    { r with
      cmd := { r.cmd with watched := true }
      st := r.st.modWarp r.cmd.pack r.cmd.warp (fun w => w.hold
        { seq := r.st.flightSeq, cause := .watch, addr := BitVec.ofNat 64 (as.foldl min a), pc := r.cmd.pc, regs := [],
          kreg := none, waitPath := none, onRelease := false, batchCmd := none, onAny := true }) }

/-- Read the source bytes of a unit: the bytes and their poison, or the fault that a chunk meets. -/
def State.readChunks (s : State) (p : Pack) (x : Context) (space : Nat) (reply : RemoteReply) (asks : List Ask) :
    List (Nat × Nat) → List (BitVec 8) → Res (Except (Cause × Nat) (List (BitVec 8) × Bool × List (BitVec 8) × State))
  | [], data => .ok (.ok ([], false, data, s))
  | (va, n) :: rest, data => do
    match ← caught (s.enginePlace p x space .load va n) with
    | .error (c, _) => .ok (.error (c, va))
    | .ok (pl, ts) =>
      let remote := pl.peer?.isSome
      let st := match pl.peer? with | some q => askStatus reply asks q va false | none => .ok
      if st = .fabric then .ok (.error (.fabric, va)) else
      let s1 := (s.detectFrom (dieOf p.core) ((upTo n).map pl.plus)).cachePages p.ctx ts
      let bs := if remote then data.take n ++ List.replicate (n - data.length) 0
                else (upTo n).map (fun i => s.readPlace (pl.plus i))
      let bad := if remote then st == .poison else (upTo n).any (fun i => s.badFrom (dieOf p.core) (pl.plus i))
      match ← s1.readChunks p x space reply asks rest (if remote then data.drop n else data) with
      | .ok (bs2, bad2, d, t) => .ok (.ok (bs ++ bs2, bad || bad2, d, t))
      | .error e => .ok (.error e)

/-- What keeps a write from its home: the cause of its translation, or a peer that refuses it (R417). -/
def refusedWrite (reply : RemoteReply) (asks : List Ask) (va : Nat) :
    Except (Cause × BitVec 64) (Place × List TlbEntry) → Except Cause (Place × List TlbEntry)
  | .error (c, _) => .error c
  | .ok (pl, ts) => match pl.peer? with
    | some q => if askStatus reply asks q va true = .fabric then .error .fabric else .ok (pl, ts)
    | none => .ok (pl, ts)

/-- Bytes that the segment writes beside those before them find no room in a migrating page's slice (R194, R393). -/
def CopyRun.noRoom (r : CopyRun) (x : Context) (bs : List StoreByte) : Bool :=
  bs.any (fun b => b.place.isDram && r.st.migrating x b.va) && r.st.noRoom x (r.wrote.map (fun w => w.1) ++ bs)

/-- Write one chunk of a unit: at its home, or diverted (R291, R319, R320). A peer that refuses it is a fault too. In a
cluster space whose pack's window has moved or gone since issue, VIEW is posted and the bytes are diverted under their number; a
later write of the range is tried again: the model's choice (log entry 114). -/
def CopyRun.writeChunk (r : CopyRun) (p : Pack) (x : Context) (va : Nat) (bs : List (BitVec 8)) (bad : Bool) : Res CopyRun := do
  if r.halt then .ok r else
  let space := cdDspace r.cmd.desc
  if space = 0 ∧ r.cmd.segs.any (fun g => g.base == va / 4096) = true then .ok (r.divert va bs bad) else
  let place ← caught (r.st.enginePlace p x space .store va bs.length)
  match refusedWrite r.wreply r.wasks va place with
  | .error c =>
    if (r.cmd.postedAt va).isSome then .ok (r.divert va bs bad) else do
    let r1 ← r.post 0 va c true true
    .ok (if r1.halt then r1 else r1.divert va bs bad)
  | .ok (pl, ts) =>
    let bytes := rawBytes (cdRaw r.cmd.desc) (wholeBytes va ((upTo bs.length).map pl.plus) bs)
    if r.noRoom x bytes then .ok { r with halt := true }
    else .ok { r with st := r.st.cachePages p.ctx ts, wrote := r.wrote ++ bytes.map (fun b => (b, bad)) }

/-- Write the chunks of a unit. -/
def CopyRun.writeChunks (p : Pack) (x : Context) (bad : Bool) : List (Nat × Nat) → List (BitVec 8) → CopyRun → Res CopyRun
  | [], _, r => .ok r
  | (va, n) :: rest, bs, r => do CopyRun.writeChunks p x bad rest (bs.drop n) (← r.writeChunk p x va (bs.take n) bad)

/-- One element's read-modify-write at its home (R297): the element's address, its places, the core whose engine makes it, the code that
is combined, and whether it is poisoned. -/
def State.updateAt (s : State) (core c : Nat) (d : BitVec 1024) (va : Nat) (ps : List Place) (code : Nat) (bad : Bool) : State :=
  let old := leNat (ps.map s.homeByte)
  (s.detectFrom (dieOf core) ps).engineWrite c core (rawBytes (cdRaw d) (wholeBytes va ps (leBytes ps.length (combineCode d old code))))
    (bad || ps.any (s.homeBadFrom (dieOf core)))

/-- A command's updates stand in the queues of slices (R194): it has not completed. -/
def State.updatesHeld (s : State) (c : CopyCmd) : Bool :=
  (s.ctx? c.ctx).any (fun x => x.held.any (fun r => match r with
    | .agent (.update core tag _ _ _) _ _ => core == c.core && tag == c.tag
    | _ => false))

/-- The request of an element's update that a slice holds (R194). -/
def CopyCmd.heldUpdate (c : CopyCmd) (va : Nat) (pl : Place) (n code : Nat) (bad : Bool) : HeldReq :=
  .agent (.update c.core c.tag c.desc code bad) va (localPas ((upTo n).map pl.plus))

/-- One element's update of a `tred` (R297). On a migrating page it is held in its slice's queue (R194, R393). What a peer has acknowledged
already (`acked`) is not performed again. -/
def CopyRun.reduce (r : CopyRun) (p : Pack) (x : Context) (acked : Bool) (va n code : Nat) (bad : Bool) : Res CopyRun := do
  if r.halt then .ok r else
  let place ← caught (r.st.enginePlace p x (cdDspace r.cmd.desc) .atomic va n)
  match (if acked then refusedWrite .none [] va place else refusedWrite r.wreply r.wasks va place) with
  | .error c => if acked then .ok r else r.stall va c true
  | .ok (pl, ts) =>
    if pl.peer?.isSome then .ok r
    else if pl.isDram && r.st.migrating x va then
      let q := r.cmd.heldUpdate va pl n code bad
      .ok (if r.st.sliceFull q.lines then { r with halt := true } else { r with st := (r.st.holdReq p.ctx q).cachePages p.ctx ts })
    else .ok { r with st := (r.st.updateAt r.cmd.core r.cmd.ctx r.cmd.desc va ((upTo n).map pl.plus) code bad).cachePages p.ctx ts }

/-- The elements of a `tred` unit, after a check that no destination stops it, so that none is combined twice. -/
def CopyRun.reduceAll (p : Pack) (x : Context) (acked bad : Bool) : List (Nat × Nat × Nat) → CopyRun → Res CopyRun
  | [], r => .ok r
  | (va, n, code) :: rest, r => do CopyRun.reduceAll p x acked bad rest (← r.reduce p x acked va n code bad)

/-- The source chunks of a unit, and its destination chunks. -/
def CopyCmd.sources (c : CopyCmd) (n : Nat) : List (Nat × Nat) :=
  let e := c.element n
  if c.op = 4 ∨ e.zero = true then [] else unitChunks c.unit (cdSenc c.desc) e.src

def CopyCmd.targets (c : CopyCmd) (n : Nat) : List (Nat × Nat) :=
  let e := c.element n
  if e.keep then [] else unitChunks c.unit (cdDenc c.desc) e.dst

/-- A read overlaps an atomic that a slice holds, and waits until that has been performed (R194). -/
def CopyRun.behindAtomic (r : CopyRun) (p : Pack) (x : Context) (src : List (Nat × Nat)) : Bool :=
  x.held.any (fun q => match q with | .store _ _ => false | _ => true) &&
    src.any (fun k => match r.st.enginePlace p x (cdSspace r.cmd.desc) .load k.1 k.2 with
      | .ok (q, _) => r.st.atomicHeldAt ((upTo k.2).map q.plus)
      | .error _ => false)

/-- Read a unit, from element `n`: the codes of its elements, and their poison. A fault stalls the command. -/
def CopyRun.source (r : CopyRun) (p : Pack) (x : Context) (n : Nat) : Res (CopyRun × List Nat × Bool) := do
  let c := r.cmd
  let d := c.desc
  let src := c.sources n
  if r.behindAtomic p x src then .ok ({ r with halt := true }, [], false) else
  let touch (rd wr : Bool) (l : List (Nat × Nat)) : List Touch :=
    l.map (fun k => { lane := none, va := k.1, ixs := upTo k.2, rd := rd, wr := wr })
  match ← r.st.readChunks p x (cdSspace d) r.reply r.asks src r.data with
  | .error (cause, va) => do
    let r1 ← r.stall va cause false
    .ok ({ r1 with halt := true }, [], false)
  | .ok (bs, bad, data, s1) =>
    let r1 := ({ r with st := s1, data := data } : CopyRun).watch x
      ((if cdSspace d = 0 then touch true false src else []) ++ (if cdDspace d = 0 then touch (c.op == 3) true (c.targets n) else []))
    .ok (r1, if c.op = 4 then List.replicate c.unit (cdAux d)
      else if (c.element n).zero then List.replicate c.unit 0 else unitCodes c.unit (cdSenc d) bs, bad)

/-- The number of bytes that a unit writes counts once the whole unit is written (R289). The manual does not say whether the bytes of
a `tscat` row that loses to another row of one destination count: they do not (log entry 101). -/
def CopyRun.counted (r : CopyRun) (n : Nat) : CopyRun :=
  if r.halt then r else
    { r with cmd := { r.cmd with written := r.cmd.written + ((r.cmd.targets n).map (fun k => k.2)).sum } }

/-- Combine the elements of a unit of `tred` (R297). -/
def CopyRun.combineUnit (r : CopyRun) (p : Pack) (x : Context) (n : Nat) (codes : List Nat) (bad : Bool) : Res CopyRun := do
  let r1 ← CopyRun.reduceAll p x (r.cmd.acked.contains n) bad (((r.cmd.targets n).zip codes).map (fun k => (k.1.1, k.1.2, k.2))) r
  .ok (r1.counted n)

/-- Something keeps a read from being made: its fault, or a peer that refuses it. -/
def CopyRun.stopsRead (r : CopyRun) (p : Pack) (x : Context) (k : Nat × Nat) : Option (Option Cause) :=
  match r.st.enginePlace p x (cdSspace r.cmd.desc) .load k.1 k.2 with
  | .ok (q, _) => if q.peer?.any (fun n => askStatus r.reply r.asks n k.1 false == .fabric) then some (some .fabric) else none
  | .error (.raise c _ _ _) => some (some c)
  | .error _ => some none

/-- The updates of the units up to unit `n` find no room in the queues of slices for migrating pages (R194). -/
def CopyRun.noSlice (r : CopyRun) (p : Pack) (x : Context) (n : Nat) : Bool :=
  let ns := (upTo ((n - r.cmd.next) / r.cmd.unit + 1)).map (fun i => r.cmd.next + i * r.cmd.unit)
  r.st.sliceFull ((ns.flatMap r.cmd.targets).flatMap (fun k => match r.st.enginePlace p x (cdDspace r.cmd.desc) .atomic k.1 k.2 with
    | .ok (q, _) => if q.isDram && r.st.migrating x k.1 then (r.cmd.heldUpdate k.1 q k.2 0 false).lines else []
    | .error _ => []))

/-- Something keeps an update of unit `n` from being made: its fault, a peer that refuses it, or a migrating page whose slice has no
room. One that a peer has acknowledged has been made. -/
def CopyRun.stopsUpdate (r : CopyRun) (p : Pack) (x : Context) (n : Nat) (k : Nat × Nat) : Option (Option Cause) :=
  let acked := r.cmd.acked.contains n
  match r.st.enginePlace p x (cdDspace r.cmd.desc) .atomic k.1 k.2 with
  | .ok (q, _) =>
    if !acked && q.peer?.any (fun m => askStatus r.wreply r.wasks m k.1 true == .fabric) then some (some .fabric)
    else if q.isDram = true ∧ r.st.migrating x k.1 = true ∧ r.noSlice p x n = true then some none else none
  | .error (.raise c _ _ _) => if acked then none else some (some c)
  | .error _ => some none

/-- One unit of a command, from element `n`. -/
def CopyRun.unitAt (r : CopyRun) (p : Pack) (x : Context) (n : Nat) : Res CopyRun := do
  if r.halt then .ok r else
  let c := r.cmd
  let (r1, codes, bad) ← r.source p x n
  if r1.halt then .ok r1 else
  if c.op = 3 then
    match (c.targets n).findSome? (fun k => (r1.stopsUpdate p x n k).map (fun o => (k.1, o))) with
    | some (va, some cause) => r1.stall va cause true
    | some (_, none) => .ok { r1 with halt := true }
    | none => r1.combineUnit p x n codes bad
  else do
    let keep := c.op == 4 || (c.element n).zero
    let r2 ← CopyRun.writeChunks p x bad (c.targets n) (codeBytes (cdDenc c.desc) (if keep then codes else codes.map c.convert)) r1
    .ok (r2.counted n)

/-- Units in visiting order. -/
def CopyRun.inOrder (p : Pack) (x : Context) : Nat → CopyRun → Res CopyRun
  | 0, r => .ok r
  | k + 1, r =>
    if r.halt ∨ cdElems r.cmd.desc ≤ r.cmd.next then .ok r else do
    let r1 ← r.unitAt p x r.cmd.next
    CopyRun.inOrder p x k (if r1.halt then r1 else { r1 with cmd := { r1.cmd with next := r1.cmd.next + r1.cmd.unit } })

/-- Read units in visiting order. -/
def CopyRun.readUnits (p : Pack) (x : Context) : List Nat → CopyRun → Res (CopyRun × List (Nat × List Nat × Bool))
  | [], r => .ok (r, [])
  | n :: ns, r => do
    let (r1, codes, bad) ← r.source p x n
    let (r2, us) ← CopyRun.readUnits p x ns r1
    .ok (r2, (n, codes, bad) :: us)

/-- The updates of a segment of `tred` are performed in an order that is not defined (R297). -/
def CopyRun.anyOrder (p : Pack) (x : Context) : Nat → List (Nat × List Nat × Bool) → CopyRun → Res CopyRun
  | 0, _, r => .ok r
  | k + 1, us, r => do
    let (i, s1) := r.st.choose us.length
    match pickOut us i with
    | none => .ok r
    | some (u, rest) => do
      CopyRun.anyOrder p x k rest (← CopyRun.combineUnit { r with st := s1 } p x u.1 u.2.1 u.2.2)

/-- The elements at which the next units start, at most `limit` of them. -/
def CopyCmd.segment (c : CopyCmd) (limit : Nat) : List Nat :=
  (upTo (min limit ((cdElems c.desc - c.next) / c.unit))).map (fun i => c.next + i * c.unit)

/-- Chunks of one side that lie at peers: peer, address and length. A page is looked up once. -/
def State.chunksAtPeers (s : State) (p : Pack) (use : Use) (space : Nat) : Context → List (Nat × Nat) → List (Nat × Nat × Nat)
  | _, [] => []
  | x, k :: rest => match s.enginePlace p x space use k.1 k.2 with
    | .ok (q, ts) => (q.peer?.map (fun n => (n, k.1, k.2))).toList ++ s.chunksAtPeers p use space (ts.foldl Context.cachePage x) rest
    | .error _ => s.chunksAtPeers p use space x rest

/-- The same; without a peer there are none. -/
def State.peerChunks (s : State) (p : Pack) (x : Context) (use : Use) (space : Nat) (l : List (Nat × Nat)) : List (Nat × Nat × Nat) :=
  if s.peers.isEmpty then [] else s.chunksAtPeers p use space x l

/-- The chunks that units read at peers. -/
def State.srcChunks (s : State) (p : Pack) (x : Context) (c : CopyCmd) (ns : List Nat) : List (Nat × Nat × Nat) :=
  s.peerChunks p x .load (cdSspace c.desc) (ns.flatMap c.sources)

/-- The chunks that units write at peers. -/
def State.dstChunks (s : State) (p : Pack) (x : Context) (c : CopyCmd) (ns : List Nat) : List (Nat × Nat × Nat) :=
  s.peerChunks p x (if c.op = 3 then .atomic else .store) (cdDspace c.desc) (ns.flatMap c.targets)

/-- The units of the next segment: as many as make 4 KiB of destination, and where peers are concerned only as many as keep each
engine request within 4 KiB (R309). -/
def State.segLimit (s : State) (p : Pack) (x : Context) (c : CopyCmd) : Nat :=
  match s.srcChunks p x c (c.segment c.segUnits), s.dstChunks p x c (c.segment c.segUnits) with
  | [], [] => c.segUnits
  | _, _ => min c.segUnits (4096 / max 1 (max c.sourceBytes c.unitBytes))

/-- Something keeps unit `n` from being performed: its reads, or for `tred` its updates. -/
def CopyRun.stopsUnit (r : CopyRun) (p : Pack) (x : Context) (n : Nat) : Bool :=
  (r.cmd.op == 3 && (r.cmd.targets n).any (fun k => (r.stopsUpdate p x n k).isSome)) ||
    (r.cmd.sources n).any (fun k => (r.stopsRead p x k).isSome)

/-- A command's segment as it begins, with what its reads at peers have brought. -/
def CopyCmd.begun (c : CopyCmd) (s : State) : CopyRun :=
  let rd := c.read.getD ([], .none)
  { st := s, cmd := c, asks := rd.1, reply := rd.2, data := replyBytes rd.2 }

/-- The units whose writes at peers may be sent: those before the first that something stops, and of `tred` none that a peer has
acknowledged (R297). -/
def State.toSend (s : State) (p : Pack) (x : Context) (c : CopyCmd) (limit : Nat) : List Nat :=
  if (s.dstChunks p x c (c.segment limit)).isEmpty then [] else
  ((c.segment limit).takeWhile (fun n => !(c.begun s).stopsUnit p x n)).filter (fun n => !c.acked.contains n)

/-- Perform the next segment, of at most `limit` units. A segment of `tred` performs nothing past the first access that stops it. -/
def CopyRun.segment (r : CopyRun) (p : Pack) (x : Context) (limit : Nat) : Res CopyRun :=
  let ns := r.cmd.segment limit
  if r.cmd.op = 3 then
    match ns.find? (r.stopsUnit p x) with
    | some n =>
      if n = r.cmd.next then r.unitAt p x n
      else CopyRun.inOrder p x ((n - r.cmd.next) / r.cmd.unit) r
    | none => do
      let (r1, us) ← CopyRun.readUnits p x ns r
      let r2 ← CopyRun.anyOrder p x us.length us r1
      .ok (if r2.halt then r2 else { r2 with cmd := { r2.cmd with next := r2.cmd.next + ns.length * r2.cmd.unit } })
  else CopyRun.inOrder p x ns.length r

/-! ## Replay (R158) -/

/-- The segment allocated first: it is replayed next, once its page has no unanswered fault (R158). -/
def CopyCmd.replayable (c : CopyCmd) : Option SpillSeg :=
  (c.segs.foldl (fun acc g => match acc with
    | none => some g
    | some h => if g.order < h.order then some g else some h) (none : Option SpillSeg)).filter
    (fun g => (c.postedAt (g.base * 4096)).isNone)

/-- Write the bytes of a segment in ascending address; a fault is posted again, and the segment is kept (R320). The
base is a global address, for diverted bytes of a cluster space too: the model's choice (log entry 114). -/
def CopyRun.replay (p : Pack) (x : Context) (base : Nat) : Map (Option (BitVec 8 × Bool)) → CopyRun → Res CopyRun
  | [], r => .ok (if r.halt then r else { r with cmd := { r.cmd with segs := r.cmd.segs.filter (fun g => g.base != base) } })
  | (off, v) :: rest, r => do
    let va := base * 4096 + off
    match refusedWrite r.wreply r.wasks va (← caught (r.st.enginePlace p x 0 .store va 1)), v with
    | .error c, _ => do
      let r1 ← r.post 4 va c true true
      .ok { r1 with halt := true }
    | .ok (pl, ts), some (b, bad) =>
      let bytes := rawBytes (cdRaw r.cmd.desc) (wholeBytes va [pl] [b])
      if r.noRoom x bytes then .ok { r with halt := true }
      else CopyRun.replay p x base rest { r with
        st := r.st.cachePages p.ctx ts, wrote := r.wrote ++ bytes.map (fun y => (y, bad)) }
    | .ok _, none => CopyRun.replay p x base rest r

/-! ## Completion, and the events of the copy engine -/

def State.setCopy (s : State) (c : CopyCmd) : State :=
  s.modCore c.core (fun k => { k with copies := k.copies.map (fun d => if d.tag = c.tag then c else d) })

def State.dropCopy (s : State) (core tag : Nat) : State :=
  s.modCore core (fun k => { k with copies := k.copies.filter (fun d => d.tag != tag) })

/-- A command whose last write is performed completes: its locks are freed, then its target is signalled (R156). -/
def State.completeCopy (s : State) (c : CopyCmd) : Res State := do
  match ← s.signal c.core c.ctx c.pack c.warp c.tag (targetPath c.target) c.target c.handle c.written with
  | some t => .ok (t.dropCopy c.core c.tag)
  | none => .ok ((s.unlock c.core c.tag).setCopy { c with phase := .signal })

/-- Where a segment is done: the command goes on, or completes. -/
def CopyRun.close (r : CopyRun) : Res State :=
  let s := r.st.setCopy r.cmd
  if r.cmd.phase = .running ∧ r.cmd.segs = [] ∧ cdElems r.cmd.desc ≤ r.cmd.next ∧ s.updatesHeld r.cmd = false then s.completeCopy r.cmd else .ok s

/-- The command of a core that an event names, if it is one of the four that run (R290), is not held by a `cfence`
(R316), and no halt has stopped its engine (R376); with its pack and context. -/
def State.copyAt (s : State) (core tag : Nat) : Option (CopyCmd × Pack × Context) :=
  let live := (s.core core).copies.filter (fun c => c.phase != .signal && (c.phase != .stopped || !c.segs.isEmpty))
  match (live.take 4).find? (fun c => c.tag == tag) with
  | none => none
  | some c =>
    match s.pack? c.pack, s.ctx? c.ctx with
    | some p, some x =>
      if x.unitClosing 1 core || c.waits.any (s.uncompleted core c.pack c.warp) then none else some (c, p, x)
    | _, _ => none

/-- A segment has been performed: what it had asked of peers is done with. -/
def CopyRun.done (r : CopyRun) : CopyRun :=
  { r with cmd := { r.cmd with read := none, acked := r.cmd.acked.filter (fun n => decide (r.cmd.next ≤ n)) } }

/-- A segment of a command whose peer was lost while the command's requests stood out (R397): what it reads there is poison, what
it writes there is dropped, and the command goes on so until it completes. -/
def State.lostSegment (s : State) (c : CopyCmd) (p : Pack) (x : Context) : Res State := do
  let s0 := s.dropAsks (.engine (engineKey c.core c.tag))
  let r0 := c.begun s0
  let r ← ({ r0 with reply := if c.read.isSome then r0.reply else .lost, wreply := .lost } : CopyRun).segment p x (s0.segLimit p x c)
  let t ← r.perform.done.close
  .ok { t with
    agenda := if r.halt ∨ cdElems c.desc ≤ r.cmd.next then t.agenda else .copySegment c.core c.tag .lost :: t.agenda }

/-- Whole blocks of a command travel in their stored mode (R300). -/
def CopyCmd.wholeBlocks (c : CopyCmd) : Bool :=
  let d := c.desc
  decide (c.op.toNat ≤ 2) && cdSenc d == cdDenc d && cdSspace d == 0 && cdDspace d == 0 && cdSbase d % 256 == 0 && cdDbase d % 256 == 0 &&
    cdLoop d 0 * halfBytes (cdSenc d) / 2 % 256 == 0

/-- The stored mode of the block of local memory at an address (R147): raw in a page with COMP = 0, and where a line of it was last
stored raw; else the mode that the encoder of stepping B0 picks (R161). -/
def State.blockMode (s : State) (x : Context) (va : Nat) : BitVec 4 :=
  match s.translate x .load va with
  | .ok (t, .dram pa) =>
    if !leafComp t.leaf || Map.get false s.rawLines (pa / 128) || Map.get false s.rawLines (pa / 128 + 1) then 0
    else (compressBlock ((upTo 256).map (fun i => s.homeByte (.dram (pa + i))))).1
  | _ => 0

/-- A peer decodes a stored mode (R400): it expands the block itself; for another, the sender does (R153). -/
def Peer.decodes (e : Peer) (mode : BitVec 4) : Bool := mode == 0 || e.entry.getLsbD (17 + mode.toNat)

/-- A request of a command with the stored mode of the whole block that it carries (R300, R398). -/
def State.withModes (s : State) (x : Context) (c : CopyCmd) (ns : List Nat) (a : Ask) : Ask :=
  if !c.wholeBlocks || a.bytes ≠ 256 then a else
  match (ns.map c.element).find? (fun e => e.dst == a.va && !e.zero && !e.keep) with
  | some e =>
    let mode := if e.src % 256 = 0 then s.blockMode x e.src else 0
    { a with modes := [if (s.peer a.peer).decodes mode then mode else 0] }
  | none => a

/-- What the next work of a command asks of peers: its requests, and the bytes that their reply brings. A segment's reads come first, and
its writes once they are answered. -/
def State.copyAsks (s : State) (p : Pack) (x : Context) (c : CopyCmd) : List Ask × Nat :=
  match c.replayable with
  | some g => (asksOf true (s.peerChunks p x .store 0 (g.bytes.map (fun b => (g.base * 4096 + b.1, 1)))), 0)
  | none =>
    let limit := s.segLimit p x c
    let src := s.srcChunks p x c (c.segment limit)
    let reads := asksOf false src
    if !reads.isEmpty && (c.read.map (fun r => r.1)) != some reads then (reads, (src.map (fun k => k.2.2)).sum)
    else
      let ns := s.toSend p x c limit
      ((asksOf true (s.dstChunks p x c ns)).map (s.withModes x c ns), 0)

/-- A segment with the answer `reply` to its writes `wasks` at peers. A unit of `tred` whose updates the peers have acknowledged is
marked so, for a segment that stops before it (R297). -/
def State.copyRun (s : State) (p : Pack) (x : Context) (c : CopyCmd) (wasks : List Ask) (reply : RemoteReply) (limit : Nat) : Res State := do
  let acked := if c.op ≠ 3 then [] else (s.toSend p x c limit).filter (fun n =>
    let cs := s.dstChunks p x c [n]
    !cs.isEmpty && cs.all (fun k => askStatus reply wasks k.1 k.2.1 true != .fabric))
  let r0 := ({ c with acked := c.acked ++ acked } : CopyCmd).begun s
  let r ← ({ r0 with wasks := wasks, wreply := reply } : CopyRun).segment p x limit
  r.perform.done.close

/-- COPY_SEGMENT (R294): the replay of one diverted segment, or the next segment of the command. What it asks of peers is charged and
sent first (R309), and their answer comes with a later event. -/
def execCopySegment (core tag : Nat) (reply : RemoteReply) (s : State) : Host.Outcome State Fault Refusal :=
  s.whenLost reply (fun t => match t.copyAt core tag with
  | none => .next t
  | some (c, p, x) =>
    let g := c.replayable
    let (asks, need) := t.copyAsks p x c
    let limit := t.segLimit p x c
    let reading := asks.any (fun a => !a.write)
    if g.isNone ∧ (c.phase ≠ .running ∨ cdElems c.desc ≤ c.next) then t.eventOut ({ st := t, cmd := c } : CopyRun).close
    else if reply = .lost ∧ !asks.isEmpty ∧ asks.all (fun a => !(s.peer a.peer).gone) = true then .next t
    else if g.isNone ∧ reply = .lost then t.eventOut (t.lostSegment c p x)
    else
      let key := Requester.engine (engineKey core tag)
      let out := (t.askedOf key).map (fun q => ({ peer := q.peer, va := q.va, len := q.len, bytes := q.len, write := true, modes := q.cmode } : Ask))
      let cls (a : Ask) : ReqClass := if a.write ∧ g.isNone ∧ c.op = 3 then .once else .plain
      t.askTurn key (descFctx x.desc) cls asks need reply (fun u => u.eventOut (
        match g with
        | some y => do
          let r ← CopyRun.replay p x y.base y.bytes { st := u, cmd := c, wasks := asks, wreply := reply }
          r.perform.close
        | none =>
          if reading then
            let c1 := { c with read := some (asks, reply) }
            if (u.copyAsks p x c1).1.isEmpty then u.copyRun p x c1 [] .none limit else .ok (u.setCopy c1)
          else u.copyRun p x c (if out.isEmpty then asks else out) reply limit)))

end Sys2Proof.Machine
end

