-- ==== Sys2Proof/Machine/NearMem.lean ====
section
/-! DEFINITION. Near-memory commands (R301 to R306): `nmc`, and what the base-die agents do: NMX, NCAS, NENQ, NCHASE
and NFILL. -/

namespace Sys2Proof.Machine

/-! ## The command block (R301) -/

def nbOp (b : BitVec 512) : Nat := recBits b 0 0 4
def nbEnc (b : BitVec 512) : Nat := recBits b 0 4 4
def nbCnt (b : BitVec 512) : Nat := recBits b 0 8 8
def nbExpr (b : BitVec 512) : Nat := recBits b 0 16 22
def nbRes (b : BitVec 512) : Nat := recBits b 0 38 22
def nbDst (b : BitVec 512) : Nat := recBits b 8 0 64
def nbA (b : BitVec 512) (i : Nat) : Nat := recBits b (0x10 + 8 * i) 0 64

/-- An operation of an expression record (R303): OPC and its operands. -/
structure NmxOp where
  opc : Nat
  a   : Nat
  b   : Nat
  c   : Nat
  deriving DecidableEq, Repr

/-- The eight operations of a record, and its scalars. -/
def exprOps (e : BitVec 256) : List NmxOp :=
  (upTo 8).map (fun j =>
    let x := recBits e (16 + 2 * j) 0 16
    { opc := x / 2 ^ 12, a := x / 2 ^ 8 % 16, b := x / 2 ^ 4 % 16, c := x % 16 })
def exprScalars (e : BitVec 256) : List Nat := (upTo 4).map (fun i => recBits e (4 * i) 0 32)

/-- The operations before the first end. -/
def exprBody (e : BitVec 256) : List NmxOp := (exprOps e).takeWhile (fun o => o.opc != 0)

/-- The operands that an operation uses. -/
def NmxOp.operands (o : NmxOp) : List Nat := if o.opc = 4 then [o.a, o.b, o.c] else [o.a, o.b]

/-- The used inputs of an NMX command: those whose base is not zero (R302, log entry 9). -/
def usedStreams (b : BitVec 512) : List Nat := (upTo 4).filter (fun i => nbA b i != 0)

/-- The conditions on a record (R303), `used` being the used streams. -/
def exprOk (used : List Nat) (e : BitVec 256) : Bool :=
  let ops := exprOps e
  let n := (exprBody e).length
  n != 0 && (ops.drop n).all (fun o => o == { opc := 0, a := 0, b := 0, c := 0 }) &&
  (upTo n).all (fun j => match ops[j]? with
    | some o => decide (o.opc ≤ 7) && o.operands.all (fun x => decide (x < 8 + j) && (decide (4 ≤ x) || used.contains x)) &&
        (o.opc == 4 || o.c == 0) &&
        (o.opc != 7 || (decide (4 ≤ o.b) && decide (o.b < 8)))
    | none => false)

/-- NMCERR of a command block (R301, R302, R303). -/
def nmcBad (b : BitVec 512) (e : BitVec 256) : Bool :=
  let op := nbOp b
  let zero (l : List Nat) : Bool := l.all (fun i => nbA b i == 0)
  recBits b 0 60 4 != 0 || recBits b 0x30 0 128 != 0 || op == 0 || decide (6 ≤ op) ||
  (op != 1 && (nbExpr b != 0 || nbEnc b != 0)) ||
  (match op with
   | 1 => !(nbEnc b == 0 || nbEnc b == 2 || nbEnc b == 12) || !exprOk (usedStreams b) e || nbDst b % 256 != 0 ||
      (upTo 4).any (fun i => nbA b i % 256 != 0)
   | 2 => decide (3 < nbCnt b) || nbDst b % 8 != 0 || decide (32 < nbDst b % 32 + 8 * (nbCnt b + 1))
   | 3 => nbCnt b != 0 || nbDst b % 64 != 0 || !zero [1, 2, 3]
   | 4 => decide (63 < nbCnt b) || nbDst b % 8 != 0 || decide (1 < nbA b 3)
   | _ => nbDst b % 256 != 0 || !zero [1, 2, 3])

/-- The ranges that a command touches, each with its length and use, from its block (R302). -/
def nmcRanges (b : BitVec 512) : List (Nat × Nat × Use) :=
  let n := nbCnt b + 1
  match nbOp b with
  | 1 => (usedStreams b).map (fun i => (nbA b i, 256 * n, Use.load)) ++ [(nbDst b, 256 * n, .store)]
  | 2 => [(nbDst b, 8 * n, .store)]
  | 3 => [(nbDst b, 64, .store)]
  | 4 => [(nbDst b, 8, .load)]
  | _ => [(nbDst b, 256 * n, .store)]

/-- The lock entries (R301): those of the ranges, but for the nodes of a chase, and one for the result area. -/
def nmcLocks (b : BitVec 512) : List (Bool × Bool × Nat × Nat) :=
  (if nbOp b = 4 then [] else (nmcRanges b).map (fun r => (r.2.2 != .load, true, r.1, (r.1 + r.2.1) % 2 ^ 64))) ++
  [(true, false, nbRes b, nbRes b + 40)]

/-- The 8-byte words at a window offset, read at issue; a poisoned one raises POISON. -/
def State.windowWords (s : State) (h : Here) (off n : Nat) : Res (List (BitVec 64)) :=
  let p : Place := .scratch h.pack.core (h.pack.scrBase + off)
  if s.iss.pre.writing p (8 * n) then .error .hold else
  match (upTo (8 * n)).find? (fun i => s.badPlace (p.plus i)) with
  | some i => s.raisePoison ((upTo (8 * n)).map p.plus) (off + i) 0
  | none => .ok ((upTo n).map (fun j => BitVec.ofNat 64 (leNat ((upTo 8).map (fun i => s.readPlace (p.plus (8 * j + i)))))))

/-- The window ranges that an `nmc` word reads at issue (R301): its block, EXPR, and the expected words of NCAS. -/
def nmcReads (off : Nat) (b : BitVec 512) : List (Nat × Nat) :=
  (off, 64) :: ((if nbOp b = 1 then [(nbExpr b, 32)] else []) ++ (if nbOp b = 2 then [(nbRes b + 8, 8 * (nbCnt b + 1))] else []))

/-- `nmc` (R301): it orders none of the warp's earlier accesses (R177). -/
def execNmc (ka kb kc : BitVec 6) (s : State) : Host.Outcome State Fault Refusal :=
  runWord (.nmc ka kb kc) s (fun h => do
    let bs ← s.block h (h.warp.kreg ka.toNat).toNat 64 64
    let target := h.warp.kreg kc.toNat
    targetCheck s h false target
    let b : BitVec 512 := recOf 512 bs
    let isX := nbOp b == 1
    if nbRes b % 8 ≠ 0 then raiseAt .misalign (nbRes b) else
    if isX && nbExpr b % 32 != 0 then raiseAt .misalign (nbExpr b) else
    if !windowFree h.pack (nbRes b) 40 then raiseAt .view (nbRes b) else
    if isX && !windowFree h.pack (nbExpr b) 32 then raiseAt .view (nbExpr b) else do
    let ew ← if isX then s.windowWords h (nbExpr b) 4 else .ok []
    let e : BitVec 256 := recOf 256 (ew.flatMap (fun w => leBytes 8 w.toNat))
    if nmcBad b e then raise0 .nmcerr else do
    let expected ← if nbOp b = 2 then s.windowWords h (nbRes b + 8) (nbCnt b + 1) else .ok []
    let n := h.pack.core
    if 16 ≤ (s.core n).nmcs.length then .error .hold else do
    let tag := (s.core n).seq
    let s0 ← s.lockRanges n h.pack.ctx h.pid tag (nmcLocks b)
    let s1 := s0.detectWindow h.pack (nmcReads (h.warp.kreg ka.toNat).toNat b)
    let c : NmcCmd := { tag := tag, core := n, pack := h.pid, ctx := h.pack.ctx, warp := h.wi, pc := s.wordPc, block := b,
                        expr := e, expected := expected, fence := h.warp.nmFence, target := target,
                        handle := h.warp.kreg kb.toNat, waits := h.warp.fenced 1,
                        left := if nbOp b = 1 ∨ nbOp b = 5 then upTo (nbCnt b + 1) else [], bad := 0, phase := .running }
    .ok (s1.modCore n (fun k => { k with seq := k.seq + 1, nmcs := k.nmcs ++ [c] })))

/-! ## Where the ranges lie (R302) -/

/-- What the pages of a command's ranges say: a fault, ranges that break R302, local memory, or one peer. -/
inductive NmcHome where
  | fault (cause : Cause) (va : Nat)
  | foreign
  | loc
  | peer (p : Nat)
  deriving DecidableEq, Repr

/-- The first address of each page frame that a range touches. -/
def frameStarts (va n : Nat) : List Nat :=
  va :: (upTo ((va + n - 1) / 65536 - va / 65536)).map (fun i => ((va / 65536 + i + 1) * 65536) % 2 ^ 64)

/-- One address: its page's KIND, or its fault. -/
def State.nmcPage (s : State) (x : Context) (use : Use) (va : Nat) : Res NmcHome := do
  match ← caught (s.page x va) with
  | .error (c, _) => .ok (.fault c va)
  | .ok t =>
    if use = .store ∧ leafW t.leaf = false then .ok (.fault .prot va) else
    match leafKind t.leaf with
    | 0 => .ok .loc
    | 1 => .ok (if s.peerUsable x (leafPeer t.leaf) then .peer (leafPeer t.leaf) else .fault .fabric va)
    | _ => .ok .foreign

/-- Several homes as one: a fault comes first, then ranges that differ. -/
def joinHomes : List NmcHome → NmcHome
  | [] => .loc
  | [h] => h
  | h :: hs =>
    match h, joinHomes hs with
    | .fault c a, _ => .fault c a
    | _, .fault c a => .fault c a
    | a, b => if a = b then a else .foreign

def State.nmcHome (s : State) (x : Context) (rs : List (Nat × Nat × Use)) : Res NmcHome := do
  let hs ← (rs.flatMap (fun r => (frameStarts r.1 r.2.1).map (fun a => (a, r.2.2)))).mapM (fun a => s.nmcPage x a.2 a.1)
  .ok (joinHomes hs)

/-- The places of bytes in local pages. -/
def State.localPlaces (s : State) (x : Context) (va n : Nat) : Res (Except (Cause × BitVec 64) (List Place)) :=
  caught ((upTo n).mapM (fun i => do
    let t ← s.page x ((va + i) % 2 ^ 64)
    match pagePlace t ((va + i) % 2 ^ 64) with
    | some p => .ok p
    | none => raiseAt .fabric va))

/-! ## The expression (R303) -/

/-- Operand `x` of an operation: a stream, a scalar or an earlier result. -/
def operandOf {α : Type} (d : α) (streams scal res : List α) (x : Nat) : α :=
  if x < 4 then streams.getD x d else if x < 8 then scal.getD (x - 4) d else res.getD (x - 8) d

/-- A floating operation on exact values; `n` is the scalar of scale as an integer. -/
def nmxFloat (opc : Nat) (a b c : Val) (n : Int) : Val :=
  match opc with
  | 1 => (addVal .rne a b).1
  | 2 => (addVal .rne a b.neg).1
  | 3 => (mulVal a b).1
  | 4 => (addVal .rne (mulVal a b).1 c).1
  | 5 => pickVal false a b
  | 6 => pickVal true a b
  | _ => match a with | .num s m e => .num s m (e + n) | v => v

/-- An operation on INT32. -/
def nmxInt (opc : Nat) (a b c n : Int) : Int :=
  match opc with
  | 1 => a + b
  | 2 => a - b
  | 3 => a * b
  | 4 => a * b + c
  | 5 => min a b
  | 6 => max a b
  | _ => if 0 ≤ n then a * ((2 ^ (min n 32).toNat : Nat) : Int) else a / ((2 ^ (min (-n) 31).toNat : Nat) : Int)

/-- The result of an expression on floating streams: codes of ENC in, a code of ENC out. -/
def nmxFloats (enc : Nat) (scal streams : List Nat) : List NmxOp → List Nat → Nat
  | [], res => res.getLastD 0
  | o :: os, res =>
    let val (x : Nat) : Val :=
      if x < 4 then encVal enc (streams.getD x 0) else if x < 8 then fp32.decode (scal.getD (x - 4) 0)
      else fp32.decode (res.getD (x - 8) 0)
    let v := nmxFloat o.opc (val o.a) (val o.b) (val o.c) (signedOf 32 (scal.getD (o.b - 4) 0))
    nmxFloats enc scal streams os (res ++ [if os.isEmpty then encRound enc v else fp32.rne v])

/-- The result of an expression on INT32 streams. -/
def nmxInts (scal streams : List Int) : List NmxOp → List Int → Int
  | [], res => res.getLastD 0
  | o :: os, res =>
    let val (x : Nat) : Int := operandOf 0 streams scal res x
    let v := nmxInt o.opc (val o.a) (val o.b) (val o.c) (val o.b)
    nmxInts scal streams os (res ++ [signedOf 32 (intBits 32 v)])

/-- One output block from the blocks of the streams. -/
def nmxBlock (enc : Nat) (e : BitVec 256) (streams : List (List (BitVec 8))) : List (BitVec 8) :=
  let w := encBits enc / 8
  (upTo (256 / w)).flatMap (fun k =>
    let codes := streams.map (fun b => leNat ((b.drop (k * w)).take w))
    leBytes w (if enc = 12 then
        intBits 32 (nmxInts ((exprScalars e).map (fun x => signedOf 32 x)) (codes.map (fun x => signedOf 32 x)) (exprBody e) [])
      else nmxFloats enc (exprScalars e) codes (exprBody e) []))

/-! ## What the agents do -/

/-- The latest write that a command's reads see: the one that a near-memory fence of its warp covers (R182); a command that a
`cfence` held sees every write before its own turn (R316). -/
def NmcCmd.covered (c : NmcCmd) (s : State) : Nat := if c.waits.isEmpty then c.fence else s.wseq

/-- An agent reads a byte as some value that the byte has held at its home (R181): the latest one, or what it held before one of the
writes that come after write `fence`. -/
def State.agentByte (s : State) (fence : Nat) (p : Place) : BitVec 8 :=
  match p with
  | .dram pa =>
    match ((Map.get [] s.prev pa).filter (fun o => decide (fence < o.1))).map (fun o => o.2) with
    | [] => s.homeByte p
    | olds => (s.homeByte p :: olds).getD (Config.freeChoice ((s.fresh + 1) * 2 ^ 48 + pa) % (olds.length + 1)) 0
  | _ => s.readPlace p

/-- An agent writes bytes, in mode 0 (R153). -/
def State.agentWrite (s : State) (c core va : Nat) (ps : List Place) (bs : List (BitVec 8)) (bad : Bool) : State :=
  s.engineWrite c core (rawBytes true (wholeBytes va ps bs)) bad

def State.setNmc (s : State) (c : NmcCmd) : State :=
  s.modCore c.core (fun k => { k with nmcs := k.nmcs.map (fun d => if d.tag = c.tag then c else d) })

/-- A unit that a halt message has reached has done one more piece of work (R379), on issue port `port` where it is a
core's ports. -/
def State.countHalt (s : State) (c kind place port n : Nat) : State :=
  let more (u : HaltUnit) : HaltUnit := if u.kind = kind ∧ u.place = place ∧ u.arrived = true ∧ u.stopped = false then
      { u with done := (upTo (max u.done.length (port + 1))).map (fun i => u.done.getD i 0 + (if i = port then n else 0)) }
    else u
  s.modCtx c (fun x => match x.halt with
    | .raised us rs => { x with halt := .raised (us.map more) rs }
    | _ => x)

/-- The command ends (R306): STATUS and the results are written, its locks are freed, its target is signalled. Once a halt has reached
the agents no completion and no result area is written (R376). -/
def State.finishNmc (s : State) (c : NmcCmd) (status : Nat) (result : List (BitVec 8)) : Res State := do
  if (s.ctx? c.ctx).any (fun x => x.unitClosing 4 (dieOf c.core)) then .ok (s.setNmc { c with phase := .stopped }) else
  let s1 ← (s.dropAsks (.engine (engineKey c.core c.tag))).writeWindow c.pack (nbRes c.block) (leBytes 8 status ++ result)
  match ← s1.signal c.core c.ctx c.pack c.warp c.tag none c.target c.handle 0 true with
  | some t => .ok (t.modCore c.core (fun k => { k with nmcs := k.nmcs.filter (fun d => d.tag != c.tag) }))
  | none => .ok ((s1.unlock c.core c.tag).setNmc { c with phase := .signal })

/-- A fault stalls the command (R291). -/
def State.stallNmc (s : State) (c : NmcCmd) (cause : Cause) (va : Nat) (write : Bool) : Res State := do
  match ← s.postFault c.ctx (BitVec.ofNat 64 va) cause 1 c.tag c.core write false with
  | some (t, fseq) => .ok (t.setNmc { c with phase := .stalled fseq })
  | none => .ok s

/-- The command of a core that an event names, with its context: it runs, its operation is `op`, no `cfence` holds it, and
its agents have not stopped. -/
def State.nmcAt (s : State) (core tag op : Nat) : Option (NmcCmd × Context) :=
  match (s.core core).nmcs.find? (fun c => c.tag == tag && c.phase == .running && nbOp c.block == op) with
  | none => none
  | some c =>
    match s.ctx? c.ctx with
    | some x => if x.unitStopped 4 (dieOf core) || c.waits.any (s.uncompleted core c.pack c.warp) then none else some (c, x)
    | none => none

/-- The bitmap that names every block of a command. -/
def allBlocks (b : BitVec 512) : List (BitVec 8) := leBytes 32 (2 ^ (nbCnt b + 1) - 1)

/-- What an agent's work on a command comes to: nothing can be done now; the command ends with a STATUS and results; a
fault stalls it; or one output block has been performed. -/
inductive NmcWork where
  | wait
  | ended (status : Nat) (result : List (BitVec 8))
  | fault (cause : Cause) (va : Nat) (write : Bool)
  | block (b : Nat) (bad : Bool)
  deriving DecidableEq, Repr

/-- The bitmap so far, with a block's poison. -/
def badBlocks (old : BitVec 256) (b : Nat) (bad : Bool) : BitVec 256 := if bad then old ||| (1#256 <<< b) else old

/-- STATUS and bitmap of a command whose blocks have all been performed. -/
def blocksEnd (bad : BitVec 256) : Nat × List (BitVec 8) := (if bad = 0 then 0 else 1, leBytes 32 bad.toNat)

/-- An output block is performed; the last one ends the command with its bitmap. -/
def State.blockDone (s : State) (c : NmcCmd) (b : Nat) (bad : Bool) : Res State :=
  let c1 := { c with left := c.left.filter (fun i => i != b), bad := badBlocks c.bad b bad }
  if c1.left.isEmpty then s.finishNmc c1 (blocksEnd c1.bad).1 (blocksEnd c1.bad).2 else .ok (s.setNmc c1)

/-- A command of the part itself after an agent's work on it. -/
def NmcCmd.settle (c : NmcCmd) (r : State × NmcWork) : Res State :=
  let s := r.1.countHalt c.ctx 4 (dieOf c.core) 0 1
  match r.2 with
  | .wait => .ok r.1
  | .ended status result => s.finishNmc c status result
  | .fault cause va write => r.1.stallNmc c cause va write
  | .block b bad => s.blockDone c b bad

/-- A fault in a range of a command is a write fault. -/
def nmcWrites (b : BitVec 512) (va : Nat) : Bool :=
  (nmcRanges b).any (fun r => r.2.2 == .store && decide (r.1 ≤ va) && decide (va < r.1 + r.2.1))

/-- The bytes of results that follow a STATUS (R306). -/
def resultBytes (b : BitVec 512) (status : Nat) : Nat :=
  match nbOp b with
  | 2 => if status = 0 ∨ status = 2 then 8 * (nbCnt b + 1) else 0
  | 3 => if status = 0 ∨ status = 3 then 8 else 0
  | 4 => if status = 1 ∨ status = 5 ∨ status = 6 ∨ status = 7 then 16 else 0
  | _ => if status = 0 ∨ status = 1 then 32 else 0

/-- A command that travels to a peer (R302): it is sent once, as one request, to a peer that takes near-memory commands (R402); the
reply brings STATUS and the results. -/
def State.nmcRemote (s : State) (core tag : Nat) (c : NmcCmd) (x : Context) (q : Nat) (reply : RemoteReply) :
    Host.Outcome State Fault Refusal :=
  let key := Requester.engine (engineKey core tag)
  if (s.askedOf key).isEmpty && (s.peer q).entry.toNat / 2 ^ 14 % 16 == 0 then s.eventOut (s.finishNmc c 8 []) else
  if reply = .poison then .next s else
  s.askTurn key (descFctx x.desc) (fun _ => .nmc) [{ peer := q, va := nbDst c.block, len := 96, bytes := 96, write := true }] 40 reply (fun t =>
    t.eventOut (match reply with
      | .data bs =>
        let st := leNat (bs.take 8)
        t.finishNmc c st ((bs.drop 8).take (resultBytes c.block st))
      | .lost => t.finishNmc c 1 (if nbOp c.block = 1 ∨ nbOp c.block = 5 then allBlocks c.block else [])
      | _ => t.finishNmc c 8 []))

/-- An agent's turn at a command: its ranges are translated; what lies at a peer is performed there, and `body` performs local
work. -/
def State.nmcTurn (s : State) (core tag op : Nat) (reply : RemoteReply) (body : State → NmcCmd → Context → Res (State × NmcWork)) :
    Host.Outcome State Fault Refusal :=
  s.whenLost reply (fun t => match t.nmcAt core tag op with
  | none => .next t
  | some (c, x) =>
    match t.nmcHome x (nmcRanges c.block) with
    | .error e => t.eventOut (.error e)
    | .ok (.peer q) => t.nmcRemote core tag c x q (oneReply reply)
    | .ok home => t.eventOut (if reply ≠ .none then .ok t else match home with
      | .fault cause va => t.stallNmc c cause va (nmcWrites c.block va)
      | .loc => do c.settle (← body t c x)
      | _ => t.finishNmc c 8 []))

/-- NMX work (R303): an agent evaluates the expression on one output block. An error in its inputs makes the block poison (R304); an
older one in the output is written over whole (R390). -/
def nmxWork (s : State) (x : Context) (c : NmcCmd) (block : Nat) : Res (State × NmcWork) :=
  if !c.left.contains block then .ok (s, .wait) else do
  let used := usedStreams c.block
  let ins ← (upTo 4).mapM (fun i => if used.contains i then s.localPlaces x (nbA c.block i + 256 * block) 256 else .ok (.ok []))
  match ← s.localPlaces x (nbDst c.block + 256 * block) 256 with
  | .error _ => .ok (s, .wait)
  | .ok ps =>
    let srcs : List (List Place) := ins.map (fun r => match r with | .ok l => l | .error _ => [])
    let data := nmxBlock (nbEnc c.block) c.expr (srcs.map (fun l => l.map (s.agentByte (c.covered s))))
    if s.noRoom x (wholeBytes (nbDst c.block + 256 * block) ps data) ∨ s.atomicHeldAt srcs.flatten = true then .ok (s, .wait) else
    let bad := srcs.flatten.any (s.homeBadFrom (dieOf c.core))
    let s1 := (s.detectFrom (dieOf c.core) srcs.flatten).agentWrite c.ctx c.core (nbDst c.block + 256 * block) ps data bad
    .ok ({ s1 with fresh := s1.fresh + 1 }, .block block bad)

/-- NMX (R303). -/
def execNmx (core tag block : Nat) (reply : RemoteReply) (s : State) : Host.Outcome State Fault Refusal :=
  s.nmcTurn core tag 1 reply (fun t c x => nmxWork t x c block)

/-- NFILL work (R302): an agent fills one output block with the pattern. -/
def nfillWork (s : State) (x : Context) (c : NmcCmd) (block : Nat) : Res (State × NmcWork) :=
  if !c.left.contains block then .ok (s, .wait) else do
  match ← s.localPlaces x (nbDst c.block + 256 * block) 256 with
  | .error _ => .ok (s, .wait)
  | .ok ps =>
    let data := (List.replicate 32 (leBytes 8 (nbA c.block 0))).flatten
    if s.noRoom x (wholeBytes (nbDst c.block + 256 * block) ps data) then .ok (s, .wait) else
    .ok (s.agentWrite c.ctx c.core (nbDst c.block + 256 * block) ps data false, .block block false)

/-- NFILL (R302). -/
def execNfill (core tag block : Nat) (reply : RemoteReply) (s : State) : Host.Outcome State Fault Refusal :=
  s.nmcTurn core tag 5 reply (fun t c x => nfillWork t x c block)

/-- The 8-byte words of bytes. -/
def wordsOf (bs : List (BitVec 8)) : List Nat := (upTo (bs.length / 8)).map (fun i => leNat ((bs.drop (8 * i)).take 8))

/-- NCAS work (R302, R304): compare and swap up to four words indivisibly; a migrating page holds it (R393). -/
def ncasWork (s : State) (x : Context) (c : NmcCmd) : Res (State × NmcWork) := do
  let n := nbCnt c.block + 1
  match ← s.localPlaces x (nbDst c.block) (8 * n) with
  | .error _ => .ok (s, .wait)
  | .ok ps =>
    if s.migrating x (nbDst c.block) then .ok (s, .wait) else
    let s1 := s.detect ps
    if ps.any s.badPlace then .ok (s1, .ended 1 []) else
    let old := wordsOf (ps.map s1.homeByte)
    let bytes := old.flatMap (leBytes 8)
    if old = c.expected.map (fun e => e.toNat) then
      .ok (s1.agentWrite c.ctx c.core (nbDst c.block) ps ((upTo n).flatMap (fun i => leBytes 8 (nbA c.block i))) false, .ended 0 bytes)
    else .ok (s1, .ended 2 bytes)

/-- NCAS or NENQ on a migrating page joins the requests that its slice holds for the page (R194, R393), once. -/
def State.holdNear (s : State) (x : Context) (c : NmcCmd) (n : Nat) : State :=
  if x.held.any (fun r => match r with | .agent (.near core tag) _ _ => core == c.core && tag == c.tag | _ => false) then s else
  match s.localPlaces x (nbDst c.block) n with
  | .ok (.ok ps) =>
    let r : HeldReq := .agent (.near c.core c.tag) (nbDst c.block) (localPas ps)
    if s.sliceFull r.lines then s else s.holdReq c.ctx r
  | _ => s

/-- NCAS (R302). -/
def execNcas (core tag : Nat) (reply : RemoteReply) (s : State) : Host.Outcome State Fault Refusal :=
  s.nmcTurn core tag 2 reply (fun t c x =>
    if t.migrating x (nbDst c.block) then .ok (t.holdNear x c (8 * (nbCnt c.block + 1)), .wait) else ncasWork t x c)

/-- NENQ work (R305): enqueue the value indivisibly; a migrating header holds it. -/
def nenqWork (s : State) (x : Context) (c : NmcCmd) : Res (State × NmcWork) := do
  let dst := nbDst c.block
  match ← s.localPlaces x dst 64 with
  | .error _ => .ok (s, .wait)
  | .ok ps =>
    if s.migrating x dst then .ok (s, .wait) else
    let s1 := s.detect ps
    if ps.any s.badPlace then .ok (s1, .ended 1 []) else
    let bs := ps.map s1.homeByte
    let tail := leNat (bs.take 8)
    let head := leNat ((bs.drop 8).take 8)
    let caplog := leNat ((bs.drop 16).take 1)
    if 16 < caplog ∨ (bs.drop 17).any (fun b => b != 0) = true then .ok (s1, .ended 4 []) else
    if 2 ^ caplog ≤ (tail + 2 ^ 64 - head) % 2 ^ 64 then .ok (s1, .ended 3 (leBytes 8 tail)) else
    let slot := (dst + 64 + 8 * (tail % 2 ^ caplog)) % 2 ^ 64
    match ← s1.nmcHome x [(slot, 8, .store)] with
    | .fault cause va => .ok (s1, .fault cause va true)
    | .loc => do
      match ← s1.localPlaces x slot 8 with
      | .error _ => .ok (s1, .wait)
      | .ok qs =>
        if s.noRoom x (wholeBytes slot qs (leBytes 8 (nbA c.block 0))) then .ok (s, .wait) else
        let s2 := s1.agentWrite c.ctx c.core slot qs (leBytes 8 (nbA c.block 0)) false
        .ok (s2.agentWrite c.ctx c.core dst (ps.take 8) (leBytes 8 (tail + 1)) false, .ended 0 (leBytes 8 tail))
    | _ => .ok (s1, .ended 8 [])

/-- NENQ (R305). -/
def execNenq (core tag : Nat) (reply : RemoteReply) (s : State) : Host.Outcome State Fault Refusal :=
  s.nmcTurn core tag 3 reply (fun t c x =>
    if t.migrating x (nbDst c.block) then .ok (t.holdNear x c 64, .wait) else nenqWork t x c)

/-- How a chase goes on: it has ended with a STATUS at a node after some hops, or a fault stalls it. -/
inductive Chase where
  | ended (status node hops : Nat)
  | fault (cause : Cause) (va : Nat)
  deriving DecidableEq, Repr

/-- Read a word for a chase: its value, or how it ends the chase; and the state after the read. -/
def State.chaseWord (s : State) (x : Context) (fence va node hops : Nat) : Res (Except Chase Nat × State) := do
  match ← s.nmcHome x [(va, 8, .load)] with
  | .fault c a => .ok (.error (.fault c a), s)
  | .loc => do
    match ← s.localPlaces x va 8 with
    | .error _ => .ok (.error (.ended 8 node hops), s)
    | .ok ps => .ok (if ps.any s.homeBad then .error (.ended 1 node hops) else .ok (leNat (ps.map (s.agentByte fence))), s.detect ps)
  | _ => .ok (.error (.ended 8 node hops), s)

/-- Follow a list (R305): at most `left` more hops from node `p`. -/
def State.chase (x : Context) (c : NmcCmd) : Nat → Nat → Nat → State → Res (Chase × State)
  | 0, p, hops, s => .ok (.ended 7 p hops, s)
  | left + 1, p, hops, s => do
    if p % 8 ≠ 0 then .ok (.ended 8 p hops, s) else
    let a (i : Nat) : Nat := (p + nbA c.block i) % 2 ^ 64
    let (key, s1) ← if nbA c.block 3 = 1 then s.chaseWord x (c.covered s) (a 1) p hops else .ok (.ok (nbA c.block 2 + 2 ^ 64), s)
    match key with
    | .error e => .ok (e, s1)
    | .ok k =>
      if k = nbA c.block 2 then .ok (.ended 5 p hops, s1) else do
      let (next, s2) ← s1.chaseWord x (c.covered s1) (a 0) p hops
      match next with
      | .error e => .ok (e, s2)
      | .ok q => if q = 0 then .ok (.ended 6 p hops, s2) else State.chase x c left q (hops + 1) s2

/-- NCHASE work (R305): follow a list until FOUND, NULL or HOPS. -/
def nchaseWork (s : State) (x : Context) (c : NmcCmd) : Res (State × NmcWork) := do
  let (end_, t) ← State.chase x c (nbCnt c.block + 1) (nbDst c.block) 0 s
  match end_ with
  | .fault cause va => .ok (t, .fault cause va false)
  | .ended status node hops =>
    .ok ({ t with fresh := t.fresh + 1 }, .ended status (if status = 8 then [] else leBytes 8 node ++ leBytes 8 hops))

/-- NCHASE (R305). -/
def execNchase (core tag : Nat) (reply : RemoteReply) (s : State) : Host.Outcome State Fault Refusal :=
  s.nmcTurn core tag 4 reply (fun t c x => nchaseWork t x c)

end Sys2Proof.Machine
end

