-- ==== Sys2Proof/Machine/Fabric.lean ====
section
/-! DEFINITION. Remote accesses (R307, R308), the send allowance as a warp reads it (R310), `cfence` (R316), collective
steps and `cwait` (R311 to R315, R318), and the signals that wait in an engine (R267, R273). -/

namespace Sys2Proof.Machine

/-! ## `rld`, `rst`, `ratom` (R307) -/

/-- The address of a remote word: k[KB] plus the literal. -/
def remoteEa (h : Here) (kb : BitVec 6) : BitVec 64 :=
  h.warp.kreg kb.toNat + (match h.lit with | some p => p.signExtend 64 | none => 0)

/-- The checks of R307 in order, the charge, and the operation in flight: the peer comes from the page. A release waits for a store
that must be translated again (R192). -/
def remoteWord (s : State) (h : Here) (use : Use) (ea : BitVec 64) (acq rel : Option Scope) (kind : Nat → FlightKind) :
    Res State :=
  if ea.toNat % 8 ≠ 0 then raiseAt .misalign ea.toNat else do
  let (t, pl) ← s.translate h.ctx use ea.toNat
  match pl with
  | .peer p _ => do
    if rel.isSome then h.staleHold
    let s1 ← (s.cachePages h.pack.ctx [t]).charge [(p, 1)]
    s1.issueFlight h .fab (kind p) acq rel false (h.warp.fenced 3)
  | _ => raiseAt .prot ea.toNat

def execRld (ka kb : BitVec 6) (ord : BitVec 1) (s : State) : Host.Outcome State Fault Refusal :=
  runWord (.rld ka kb ord) s (fun h =>
    let ea := remoteEa h kb
    remoteWord s h .load ea none none (fun p => .rload ka p ea.toNat (ord == 1)))

/-- `rst`: with `.rel` a release at system scope that takes effect exactly once. -/
def execRst (ka kb : BitVec 6) (rel : BitVec 1) (s : State) : Host.Outcome State Fault Refusal :=
  runWord (.rst ka kb rel) s (fun h =>
    let ea := remoteEa h kb
    remoteWord s h .store ea none (if rel = 1 then some .system else none)
      (fun p => .rstore p ea.toNat (h.warp.kreg ka.toNat) (rel == 1)))

/-- `ratom`: an acquire and a release at system scope. -/
def execRatom (ka kb kc : BitVec 6) (op : BitVec 4) (s : State) : Host.Outcome State Fault Refusal :=
  runWord (.ratom ka kb kc op) s (fun h =>
    let ea := remoteEa h kb
    remoteWord s h .atomic ea (some .system) (some .system)
      (fun p => .ratomic ka p ea.toNat op (h.warp.kreg kc.toNat) (h.warp.kreg (kc.toNat + 1))))

/-! ## `alw`, `bralw` (R310) -/

/-- The allowance of a peer less any units reserved; an index that names no valid peer of the context raises FABRIC. -/
def allowanceOf (s : State) (h : Here) (p : Nat) : Res Nat :=
  let e := s.peer p
  if peerValid e && s.peerAdmitted h.ctx p then
    .ok (e.allow - (e.reserved.map (fun q => q.2)).sum)
  else raise0 .fabric

def execAlw (ka kb : BitVec 6) (s : State) : Host.Outcome State Fault Refusal :=
  runWord (.alw ka kb) s (fun h => do
    let a ← allowanceOf s h ((h.warp.kreg kb.toNat).toNat % 1024)
    done s (fun w => w.setK ka.toNat (BitVec.ofNat 64 a)))

def execBralw (ka : BitVec 6) (n : BitVec 10) (s : State) : Host.Outcome State Fault Refusal :=
  runWord (.bralw ka n) s (fun h => do
    let a ← allowanceOf s h ((h.warp.kreg ka.toNat).toNat % 1024)
    let off : BitVec 64 := match h.lit with | some p => p.signExtend 64 | none => 0
    done s (fun w => { w with pc := if n.toNat ≤ a then s.wordPc + (off <<< 2) else s.nextPc }))

/-! ## `cfence` (R316) -/

/-- `cfence`: later commands of the selected kinds wait for the uncompleted ones of now. -/
def execCfence (mask : BitVec 4) (s : State) : Host.Outcome State Fault Refusal :=
  runWord (.cfence mask) s (fun h =>
    done s (fun w => { w with cfences :=
      (w.cfences.filter (fun c => c.2.any (s.uncompleted h.pack.core h.pid h.wi))) ++ [(mask, s.selected h mask)] }))

/-! ## Collective steps (R311 to R314) -/

def cbSend (b : BitVec 512) : Nat := recBits b 0x00 0 64
def cbLocal (b : BitVec 512) : Nat := recBits b 0x08 0 64
def cbOut (b : BitVec 512) : Nat := recBits b 0x10 0 64
def cbPeer (b : BitVec 512) : Nat := recBits b 0x18 54 10
def cbLower (b : BitVec 512) : Bool := recBits b 0x18 53 1 == 1
def cbLast (b : BitVec 512) : Bool := recBits b 0x18 52 1 == 1
def cbRed (b : BitVec 512) : Nat := recBits b 0x18 48 4
def cbSenc (b : BitVec 512) : Nat := recBits b 0x18 44 4
def cbLenc (b : BitVec 512) : Nat := recBits b 0x18 40 4
def cbOenc (b : BitVec 512) : Nat := recBits b 0x18 36 4
def cbAcc (b : BitVec 512) : Nat := recBits b 0x18 32 4
def cbCount (b : BitVec 512) : Nat := recBits b 0x18 0 26
def cbStat (b : BitVec 512) : Nat := recBits b 0x20 32 22
def cbAfter (b : BitVec 512) : Nat := recBits b 0x20 16 16
def cbStep (b : BitVec 512) : Nat := recBits b 0x20 0 16

/-- FMT of a step block, but for a repeated step (R311). -/
def stepBad (b : BitVec 512) : Bool :=
  let red := cbRed b != 0
  recBits b 0x18 26 6 != 0 || recBits b 0x20 54 10 != 0 || recBits b 0x28 0 192 != 0 ||
  cbCount b == 0 || decide (4 ≤ cbRed b) || cbStep b == 0xFFFF || (!red && (cbLocal b != 0 || cbLenc b != 0)) ||
  !((cbAcc b == 0 && decide (cbSenc b ≤ 4) && decide (cbLenc b ≤ 4) && decide (cbOenc b ≤ 4)) ||
    (cbAcc b == 12 && cbSenc b == 12 && (!red || cbLenc b == 12) && cbOenc b == 12)) ||
  (!cbLast b && cbOenc b != cbAcc b)

def byteWidth (enc : Nat) : Nat := encBits enc / 8

/-- The ranges of a step: address, length, use. -/
def stepRanges (b : BitVec 512) : List (Nat × Nat × Use) :=
  let n := cbCount b
  [(cbSend b, n * byteWidth (cbSenc b), Use.load)] ++
  (if cbRed b = 0 then [] else [(cbLocal b, n * byteWidth (cbLenc b), .load)]) ++
  [(cbOut b, n * byteWidth (cbOenc b), .store)]

def State.setColl (s : State) (c : CollStep) : State :=
  { s with colls := s.colls.map (fun d => if d.id = c.id then c else d) }

/-- The offer or notice of a step's peer, if it has come. -/
def State.offerFor (s : State) (c : CollStep) : Option Offer :=
  s.offers.find? (fun o => o.peer == cbPeer c.block && o.ctx == c.ctx && o.step.toNat == cbStep c.block)

/-- What a step that ends with PREVFAIL or FOREIGN tells its peer (R314). -/
def State.noticeOf (s : State) (c : CollStep) : Notice :=
  { peer := cbPeer c.block, fctx := ((s.ctx? c.ctx).map (fun x => descFctx x.desc)).getD 0, step := BitVec.ofNat 16 (cbStep c.block) }

/-- A step ends (R314): its status word is written, its locks are freed, its target is signalled. What its peer has sent for it is
dropped, and where it ends before that has come (PREVFAIL, FOREIGN), so is what comes, and the peer is told. -/
def State.finishColl (s : State) (c : CollStep) (status : Nat) : Res State := do
  let s1 ← (s.dropAsks (.engine (engineKey c.core c.tag))).writeWindow c.pack (cbStat c.block) (leBytes 8 status)
  let e : CollEnd := { id := c.id, peer := cbPeer c.block, met := (status != 3 && status != 6) || (s.offerFor c).isSome, ctx := c.ctx,
                       die := c.die, pack := c.pack, warp := c.warp, step := BitVec.ofNat 16 (cbStep c.block), status := status }
  let s2 := { s1 with
    collLog := s1.collLog ++ [e]
    notices := if status = 3 ∨ status = 6 then s1.notices ++ [s1.noticeOf c] else s1.notices
    offers := match s1.offerFor c with | some o => s1.offers.erase o | none => s1.offers }
  match ← s2.signal c.core c.ctx c.pack c.warp c.tag none c.target c.handle 0 true with
  | some t => .ok { t with colls := t.colls.filter (fun d => d.id != c.id) }
  | none => .ok ((s2.unlock c.core c.tag).setColl { c with phase := .signal })

/-- A fault stalls the step where it stands (R291). -/
def State.stallColl (s : State) (c : CollStep) (cause : Cause) (va : Nat) (write : Bool) : Res State := do
  match ← s.postFault c.ctx (BitVec.ofNat 64 va) cause 2 c.tag c.core write false with
  | some (t, fseq) => .ok (t.setColl { c with phase := .stalled fseq, before := c.phase })
  | none => .ok s

/-- The pages of a step's ranges: a fault, a page that is not local, or all local (R312). -/
def State.collHome (s : State) (x : Context) (b : BitVec 512) : Res NmcHome := do
  let hs ← ((stepRanges b).flatMap (fun r => (frameStarts r.1 r.2.1).map (fun a => (a, r.2.2)))).mapM (fun a => do
    match ← caught (s.page x a.1) with
    | .error (c, _) => .ok (NmcHome.fault c a.1)
    | .ok t =>
      if leafKind t.leaf ≠ 0 then .ok .foreign
      else if a.2 = .store ∧ leafW t.leaf = false then .ok (.fault .prot a.1) else .ok .loc)
  .ok (joinHomes hs)

def State.dropOffer (s : State) (o : Offer) : State := { s with offers := s.offers.erase o }

/-- The requests that carry the next 4 KiB of SEND (R309, R312). -/
def CollStep.asks (c : CollStep) : List Ask :=
  let n := min 4096 (cbCount c.block * byteWidth (cbSenc c.block) - c.sent)
  (upTo ((n + 255) / 256)).map (fun i =>
    { peer := cbPeer c.block, va := cbSend c.block + c.sent + 256 * i, len := min 256 (n - 256 * i), bytes := min 256 (n - 256 * i),
      write := true })

/-- The bytes of a block of OUT, and those of its granules that the step covers whole. -/
def CollStep.outBlock (c : CollStep) (blk : Nat) : Nat × Nat :=
  let bytes := cbCount c.block * byteWidth (cbOenc c.block)
  (cbOut c.block + 256 * blk, min 256 (bytes - 256 * blk))

/-- An OUT block becomes poison (R313): its bytes stand as they are. -/
def State.poisonOut (s : State) (x : Context) (c : CollStep) (blk : Nat) : State :=
  let (va, n) := c.outBlock blk
  match s.localPlaces x va n with
  | .ok (.ok ps) => s.engineWrite c.ctx c.core (wholeBytes va ps (ps.map s.homeByte)) true
  | _ => s

/-- The granules of OUT that the step covers whole and whose old poison it clears: address and places. -/
def State.clearedOut (s : State) (x : Context) (c : CollStep) : List (Nat × List Place) :=
  let base := cbOut c.block
  (upTo (cbCount c.block * byteWidth (cbOenc c.block) / 32)).filterMap (fun g =>
    if c.bad.contains (g / 8) then none else
    match s.localPlaces x (base + 32 * g) 32 with
    | .ok (.ok ps) => if ps.any s.homeBad then some (base + 32 * g, ps) else none
    | _ => none)

/-- What clears old poison finds no room in a migrating page's slice (R194, R393). -/
def State.clearFull (s : State) (x : Context) (c : CollStep) : Bool :=
  s.sliceFull ((s.clearedOut x c).flatMap (fun g => if s.migrating x g.1 then HeldReq.lines (.store (wholeBytes g.1 g.2 (List.replicate 32 0)) false) else []))

/-- A step has written all of OUT: the poison that its granules held before it is cleared, but in blocks that it has poisoned (R313,
R390). -/
def State.settleOut (s : State) (x : Context) (c : CollStep) : State :=
  (s.clearedOut x c).foldl (fun t g => t.engineWrite c.ctx c.core (wholeBytes g.1 g.2 (g.2.map t.homeByte)) false) s

/-- A paired step goes on (R291, R312, R314): what it sends is translated again, part by part. it ends once every element is performed and every byte of SEND acknowledged; with nothing of
SEND unanswered it sends the next part, each request exactly once (R186), or waits for the allowance. -/
def State.pairedMove (s : State) (x : Context) (c : CollStep) : Option (Res State) :=
  let key := Requester.engine (engineKey c.core c.tag)
  if !(s.askedOf key).isEmpty then none
  else if c.asks.isEmpty then
    if c.got = cbCount c.block ∧ s.clearFull x c = false then some ((s.settleOut x c).finishColl c (if c.bad.isEmpty then 0 else 1)) else none
  else
    let e := s.peer (cbPeer c.block)
    if e.noTag .coll then none else
    match s.engineSend key [askUnits c.asks] with
    | .error t => if e.queue.any (fun q => q.1 == key) then none else some (.ok t)
    | .ok t =>
      let n := (c.asks.map (fun a => a.len)).sum
      match s.localPlaces x (cbSend c.block + c.sent) n with
      | .error e => some (.error e)
      | .ok (.error (cause, va)) => some (s.stallColl c cause va.toNat false)
      | .ok (.ok ps) =>
        let u := c.asks.foldl (fun v a => v.sendRequest key 0 (BitVec.ofNat 12 (descFctx x.desc)) .coll a.peer a.va a.len 0)
          (t.detectFrom c.die ps)
        some (.ok (u.setColl { c with sent := c.sent + n }))

/-- What a step does next without data (R312, R402), if anything. Its predecessors are all the steps of its context and die that AFTER
names and that were issued before it; whether the peer performs collective steps is read when the step offers itself. -/
def State.collMove (s : State) (c : CollStep) : Option (Res State) :=
  match s.ctx? c.ctx with
  | none => none
  | some x =>
    if x.unitClosing 3 c.die then none else
    let lost := (s.peer (cbPeer c.block)).gone
    match c.phase with
    | .waiting =>
      let isPred (die ctx step id : Nat) : Bool := cbAfter c.block != 0xFFFF && die == c.die && ctx == c.ctx && step == cbAfter c.block && decide (id < c.id)
      if c.waits.any (s.uncompleted c.core c.pack c.warp) ||
          s.colls.any (fun d => isPred d.die d.ctx (cbStep d.block) d.id) then none
      else some (do
        if s.collLog.any (fun e => isPred e.die e.ctx e.step.toNat e.id && decide (2 ≤ e.status)) then s.finishColl c 3
        else offerStep x c (lost || (s.peer (cbPeer c.block)).entry.toNat / 2 ^ 5 % 2 == 0))
    | .offered =>
      if lost then some (s.finishColl c 5) else
      match s.offerFor c with
      | none => none
      | some o =>
        let s1 := s.dropOffer o
        if o.abandon then some (s1.finishColl c 4)
        else if o.count ≠ cbCount c.block ∨ o.red.toNat ≠ cbRed c.block ∨ o.senc.toNat ≠ cbSenc c.block ∨ o.lower = cbLower c.block then
          some (s1.finishColl c 2)
        else some (.ok (s1.setColl { c with phase := .paired }))
    | .paired => if lost then some (s.finishColl c 5) else s.pairedMove x c
    | .stalled _ => if lost then some (s.finishColl c 5) else none
    | .signal => none
where
  offerStep (x : Context) (c : CollStep) (lost : Bool) : Res State := do
    match ← s.collHome x c.block with
    | .fault cause va => s.stallColl c cause va (decide (cbOut c.block ≤ va) && decide (va < cbOut c.block + cbCount c.block * byteWidth (cbOenc c.block)))
    | .loc => if lost then s.finishColl c 5 else .ok (s.setColl { c with phase := .offered })
    | _ => s.finishColl c 6

/-- Let steps move until none can. -/
def State.settleColl : Nat → State → Res State
  | 0, s => .ok s
  | n + 1, s =>
    match s.colls.findSome? s.collMove with
    | some r => do State.settleColl n (← r)
    | none => .ok s

/-- Enough moves for every step. -/
def State.settleSteps (s : State) : Res State := State.settleColl (4 * s.colls.length + 4) s

/-- `cstep` (R311): a release at device scope (R177). -/
def execCstep (ka kb kc : BitVec 6) (s : State) : Host.Outcome State Fault Refusal :=
  runWord (.cstep ka kb kc) s (fun h => do
    let bs ← s.block h (h.warp.kreg ka.toNat).toNat 64 64
    let target := h.warp.kreg kc.toNat
    targetCheck s h false target
    let b : BitVec 512 := recOf 512 bs
    if stepBad b ∨ s.colls.any (fun c => c.ctx == h.pack.ctx && cbPeer c.block == cbPeer b && cbStep c.block == cbStep b) = true then
      raise0 .fmt else
    match (stepRanges b).find? (fun r => r.1 % 256 != 0) with
    | some r => raiseAt .misalign r.1
    | none =>
    if cbStat b % 8 ≠ 0 then raiseAt .misalign (cbStat b) else
    if !s.peerUsable h.ctx (cbPeer b) then raise0 .fabric else
    if !windowFree h.pack (cbStat b) 8 then raiseAt .view (cbStat b) else do
    let n := h.pack.core
    if 16 ≤ (s.colls.filter (fun c => c.core == n)).length then .error .hold else do
    releaseHold h
    let tag := (s.core n).seq
    let s0 ← s.lockRanges n h.pack.ctx h.pid tag
      ((stepRanges b).map (fun r => (r.2.2 != .load, true, r.1, (r.1 + r.2.1) % 2 ^ 64)) ++ [(true, false, cbStat b, cbStat b + 8)])
    let s1 := s0.detectWindow h.pack [((h.warp.kreg ka.toNat).toNat, 64)]
    let c : CollStep := { id := s.flightSeq, tag := tag, die := dieOf n, core := n, pack := h.pid, ctx := h.pack.ctx, warp := h.wi,
                          pc := s.wordPc, block := b, target := target, handle := h.warp.kreg kb.toNat,
                          waits := h.warp.fenced 2, phase := .waiting, before := .waiting, got := 0, bad := [] }
    let s2 := s1.modCore n (fun k => { k with seq := k.seq + 1 })
    State.settleSteps { s2 with flightSeq := s2.flightSeq + 1, colls := s2.colls ++ [c] })

/-- `cwait` (R315): held until the warp's steps of a STEPID have completed, then the status of the latest; the acquire of
R178. -/
def execCwait (ka kb : BitVec 6) (s : State) : Host.Outcome State Fault Refusal :=
  runWord (.cwait ka kb) s (fun h =>
    let step := (h.warp.kreg ka.toNat).toNat % 65536
    if s.colls.any (fun c => c.pack == h.pid && c.warp == h.wi && cbStep c.block == step) then .error .hold else
    let mine := s.collLog.filter (fun e => e.pack == h.pid && e.warp == h.wi && e.step.toNat == step)
    let last := mine.foldl (fun acc e => match acc with
      | none => some e
      | some f => if f.id < e.id then some e else some f) (none : Option CollEnd)
    .ok ((s.acquireAt h.pack.core .device).setCur (fun w => w.setK kb.toNat (match last with
      | some e => BitVec.ofNat 64 e.status
      | none => BitVec.allOnes 64))))

/-! ## Events of collective steps -/

/-- What a peer sends for its step: it belongs to a local step that has ended before it came, which drops it, or it waits. -/
def State.takeOffer (s : State) (o : Offer) : State :=
  match s.collLog.findIdx? (fun e => !e.met && e.peer == o.peer && e.ctx == o.ctx && e.step == o.step) with
  | some i => { s with collLog := s.collLog.modify i (fun e => { e with met := true }) }
  | none => { s with offers := s.offers ++ [o] }

/-- CSTEP_PEER_OFFER (R312): a peer's offer is paired, or does not match, or waits for the local step. -/
def execCstepPeerOffer (peer : BitVec 10) (ctx : Nat) (step : BitVec 16) (count : Nat) (red senc : BitVec 4) (lower : Bool)
    (s : State) : Host.Outcome State Fault Refusal :=
  s.eventOut (s.takeOffer { peer := peer.toNat, ctx := ctx, step := step, abandon := false, count := count, red := red, senc := senc,
                            lower := lower }).settleSteps

/-- CSTEP_ABANDON_NOTICE (R314): the peer's step failed, so the local one ends with ABANDONED. -/
def execCstepAbandonNotice (peer : BitVec 10) (ctx : Nat) (step : BitVec 16) (s : State) : Host.Outcome State Fault Refusal :=
  s.eventOut (s.takeOffer { peer := peer.toNat, ctx := ctx, step := step, abandon := true, count := 0, red := 0, senc := 0,
                            lower := false }).settleSteps

/-- The result of one element (R313): `m` from LOCAL and `q` received, as codes. -/
def collElem (b : BitVec 512) (m q : Nat) : Nat :=
  if cbAcc b = 12 then
    let x := signedOf 32 m
    let y := signedOf 32 q
    intBits 32 (match cbRed b with | 0 => y | 1 => x + y | 2 => min x y | _ => max x y)
  else
    let x := encVal (cbLenc b) m
    let y := encVal (cbSenc b) q
    let (lo, hi) := if cbLower b then (x, y) else (y, x)
    let acc := fp32.rne (match cbRed b with
      | 0 => y
      | 1 => (addVal .rne lo hi).1
      | 2 => pickVal false lo hi
      | _ => pickVal true lo hi)
    if cbOenc b = 0 then acc else encRound (cbOenc b) (fp32.decode acc)

/-- The places of an element of a range in local pages. -/
def State.elemPlaces (s : State) (x : Context) (base w e : Nat) : Res (List Place) := do
  match ← s.localPlaces x (base + e * w) w with
  | .ok ps => .ok ps
  | .error (c, a) => .error (.raise c a 0 false)

/-- Combine one received element with LOCAL and write it to OUT. -/
def State.collElemAt (s : State) (x : Context) (c : CollStep) (e q : Nat) (bad : Bool) : Res (State × Bool) := do
  let b := c.block
  let out ← s.elemPlaces x (cbOut b) (byteWidth (cbOenc b)) e
  let ins : List Place ← if cbRed b = 0 then .ok [] else s.elemPlaces x (cbLocal b) (byteWidth (cbLenc b)) e
  let r := collElem b (leNat (ins.map s.readPlace)) q
  .ok ((s.detectFrom c.die ins).engineWrite c.ctx c.core (wholeBytes (cbOut b + e * byteWidth (cbOenc b)) out (leBytes (byteWidth (cbOenc b)) r)) false,
    bad || ins.any (s.badFrom c.die))

/-- Received elements in order; one that is poisoned, or whose operand is, makes its OUT block poison at once (R313). -/
def State.collElems (x : Context) (bad : Bool) : List Nat → CollStep → State → Res (CollStep × State)
  | [], c, s => .ok (c, s)
  | q :: qs, c, s => do
    let (s1, pois) ← s.collElemAt x c c.got q bad
    let blk := c.got * byteWidth (cbOenc c.block) / 256
    let first := pois && !c.bad.contains blk
    State.collElems x bad qs { c with got := c.got + 1, bad := if first then c.bad ++ [blk] else c.bad }
      (if first then s1.poisonOut x c blk else s1)

/-- A migrating OUT range has no room for the writes of `n` elements that arrive, each with that of its block as poison (R194,
R393). -/
def State.outFull (s : State) (x : Context) (c : CollStep) (n : Nat) : Bool :=
  let w := byteWidth (cbOenc c.block)
  let lines (va k : Nat) : List Nat := match s.localPlaces x va k with
    | .ok (.ok ps) => if s.migrating x va then HeldReq.lines (.store (wholeBytes va ps (List.replicate k 0)) false) else []
    | _ => []
  let es := (upTo n).map (fun i => c.got + i)
  s.sliceFull (es.flatMap (fun e => lines (cbOut c.block + e * w) w) ++
    ((es.map (fun e => e * w / 256)).eraseDups).flatMap (fun b => lines (c.outBlock b).1 (c.outBlock b).2))

/-- A delivery that has been answered: the target keeps the reply (R186, R399). -/
def State.keepReply (s : State) (e : ReplyEntry) : State := { s with answered := some e, replies := s.replies ++ [e] }

/-- The local context with a fabric context number. -/
def State.byFctx (s : State) (fctx : Nat) : Option (Nat × Context) :=
  (upTo 16).findSome? (fun c => match s.ctx? c with
    | some x => if descFctx x.desc = fctx then some (c, x) else none
    | none => none)

/-- The bytes of a delivery, and whether they are poison (R153, R313): a block in a stored mode is expanded, and one that does not
decode is poison, its bytes being no values that a rule gives (log entry 118). -/
def deliveryBytes (d : Delivery) (fresh : Nat) : List (BitVec 8) × Bool :=
  if d.cmode = 0 then (d.bytes, false) else
  match expandBlock d.cmode d.bytes with
  | some ys => (ys, false)
  | none => ((upTo 256).map (fun i => BitVec.ofNat 8 (Config.freeChoice (fresh + i))), true)

/-- Elements of a delivery that a paired step receives, and the part's reply. -/
def State.takeElements (s : State) (x : Context) (c : CollStep) (bytes : List (BitVec 8)) (bad : Bool) (entry : ReplyEntry) : Res State := do
  let w := byteWidth (cbSenc c.block)
  let n := bytes.length / w
  match ← s.collHome x c.block with
  | .fault cause va => s.stallColl c cause va false
  | .loc => do
    let (c1, t) ← State.collElems x bad ((upTo n).map (fun i => leNat ((bytes.drop (i * w)).take w))) c s
    ((t.setColl c1).keepReply entry).settleSteps
  | _ => .ok s

/-- A delivery of elements (R313, R396, R398, R399): performed once, in the context that its FCTX names, by the step `id` that its
sender is the peer of; one that no context takes is answered FABRIC. The manual gives no reply to one that no step takes: it has
none. -/
def State.deliverElements (s0 : State) (id : Nat) (d : Delivery) (poisoned : Bool) : Host.Outcome State Fault Refusal :=
  let s : State := { s0 with replies := s0.replies.filter (fun r => !(r.src == d.src.toNat && d.retired.contains r.tag)) }
  let entry (a : Answer) : ReplyEntry := { src := d.src.toNat, tag := d.tag, reply := a }
  if 256 < d.bytes.length then .next s0 else
  match s.replies.find? (fun r => r.src == d.src.toNat && r.tag == d.tag) with
  | some r => .next { s with answered := some r }
  | none =>
    if 16384 ≤ s.replies.length then .next ({ s with answered := some (entry .retry) }.bumpRas 0x3048) else
    match s.byFctx d.fctx.toNat with
    | none => .next (s.keepReply (entry .fabric))
    | some (ctx, x) =>
      let (bytes, undecoded) := deliveryBytes d s.fresh
      match s.colls.find? (fun c => c.id == id && c.ctx == ctx && cbPeer c.block == d.src.toNat && c.phase == .paired) with
      | none => .next s0
      | some c =>
        let w := byteWidth (cbSenc c.block)
        if x.unitClosing 3 c.die = true ∨ bytes.length % w ≠ 0 ∨ cbCount c.block < c.got + bytes.length / w ∨
            s.outFull x c (bytes.length / w) = true then .next s0
        else
          let s1 := if undecoded then { s with fresh := s.fresh + 256 }.countUe 0x3008 else s
          s0.eventOut (s1.takeElements x c bytes (poisoned || undecoded) (entry (.data [])))

/-- CSTEP_DATA_ARRIVAL (R313, R314): elements arrive in a delivery of at most 256 bytes; `tag` is the step's identity, and `last` says
that what the step has sent is acknowledged. -/
def execCstepDataArrival (tag : Nat) (data : Delivery) (poisoned last : Bool) (s : State) :
    Host.Outcome State Fault Refusal :=
  let acked := match s.colls.find? (fun c => c.id == tag) with
    | some c => if last then s.closeRequests (fun _ => true) (fun q => q.owner == Requester.engine (engineKey c.core c.tag)) else s
    | none => s
  if data.bytes = [] then acked.eventOut acked.settleSteps else acked.deliverElements tag data poisoned

/-! ## Signals that wait (R267, R273) -/

/-- Try again to signal the completion of a command whose target is of a kind. -/
def State.signalAgain (s : State) (core tag kind : Nat) : Res State :=
  let k := s.core core
  match k.copies.find? (fun c => c.tag == tag && c.phase == .signal && targetKind c.target == kind) with
  | some c => s.completeCopy c
  | none =>
    match k.nmcs.find? (fun c => c.tag == tag && c.phase == .signal && targetKind c.target == kind) with
    | some c => do
      match ← s.signal core c.ctx c.pack c.warp tag none c.target c.handle 0 true with
      | some t => .ok (t.modCore core (fun k => { k with nmcs := k.nmcs.filter (fun d => d.tag != tag) }))
      | none => .ok s
    | none =>
      match s.colls.find? (fun c => c.core == core && c.tag == tag && c.phase == .signal && targetKind c.target == kind) with
      | some c => do
        match ← s.signal core c.ctx c.pack c.warp tag none c.target c.handle 0 true with
        | some t => State.settleSteps { t with colls := t.colls.filter (fun d => d.id != c.id) }
        | none => .ok s
      | none =>
        -- a completion that came while its pack was saved, and had no room at the resume (R384)
        match s.packs.find? (fun p => p.core == core && p.status == .running &&
            p.heldDone.any (fun d => d.tag == tag && d.path.isNone && targetKind d.target == kind)) with
        | some p => .ok (State.applyHeld p.id (p.heldDone.filter (fun d => d.tag == tag)) s)
        | none => .ok s

/-- ENGINE_LEASH_PUSH (R273): a push that waited for a slot is performed, and the command completes. -/
def execEngineLeashPush (core tag : Nat) (s : State) : Host.Outcome State Fault Refusal :=
  s.eventOut (s.signalAgain core tag 1)

/-- ENGINE_BARRIER_DELIVERY (R267): a delivery that waited for TXB is made, and the command completes. -/
def execEngineBarrierDelivery (core tag : Nat) (s : State) : Host.Outcome State Fault Refusal :=
  s.eventOut (s.signalAgain core tag 2)

end Sys2Proof.Machine
end

