-- ==== Sys2Proof/Machine/Matrix.lean ====
section
/-! DEFINITION. Matrix words as they issue (R321 to R335, R340 to R350) and the tile words `trd` and `twr` (R254). -/

namespace Sys2Proof.Machine

/-! ## Format blocks (R110, R111) -/

def fbTscale (b : BitVec 128) : Nat := recBits b 0x00 0 32
def fbScl (b : BitVec 128) : Nat := recBits b 0x04 0 22
def fbZp (b : BitVec 128) : Nat := recBits b 0x08 0 22
def fbHasZp (b : BitVec 128) : Bool := recBits b 0x0C 10 1 == 1
def fbSfmt (b : BitVec 128) : Nat := recBits b 0x0C 8 2
def fbBlen (b : BitVec 128) : Nat := recBits b 0x0C 4 3
def fbEnc (b : BitVec 128) : Nat := recBits b 0x0C 0 4

/-- The block length; 0 where the operand is unscaled. -/
def fbBlock (b : BitVec 128) : Nat := if fbBlen b = 0 then 0 else 8 * 2 ^ fbBlen b

/-- The width of a scale in bytes. -/
def fbScaleBytes (b : BitVec 128) : Nat := if fbSfmt b = 2 then 2 else 1

/-- A block that R110 and R111 allow in a window of `win` bytes. -/
def fmtBlockOk (win : Nat) (b : BitVec 128) : Bool :=
  let enc := fbEnc b
  recBits b 0x04 22 10 == 0 && recBits b 0x08 22 10 == 0 && recBits b 0x0C 11 21 == 0 && recBits b 0x0C 7 1 == 0 &&
  fbScl b % 16 == 0 && fbZp b % 16 == 0 &&
  (if fbSfmt b = 0 then fbScl b == 0 else decide (fbScl b < win)) && (if fbHasZp b then decide (fbZp b < win) else fbZp b == 0) &&
  (match fbSfmt b with
   | 0 => fbBlen b == 0 && !fbHasZp b && [1, 2, 3, 4, 6, 7, 8].contains enc
   | 1 => (fbBlen b == 1 || fbBlen b == 2) && !fbHasZp b && [3, 4, 5, 6].contains enc
   | 2 => (fbBlen b == 2 || fbBlen b == 3 || fbBlen b == 4) && [6, 7, 8].contains enc
   | _ => false)

/-! ## Tiles (R322, R323) -/

/-- XINFO with the index of a tile (R361). -/
def tileInfo (n : Nat) : BitVec 64 := BitVec.ofNat 64 (n * 2 ^ 24)

/-- The physical tile of the pack's tile `n`, and its state: an index at or above TILES raises REGRANGE; a tile tagged to
another pack raises TILEOWN; one tagged to none is in the state of R322 and becomes the pack's. -/
def State.tileOf (s : State) (p : Pack) (n : Nat) : Res (Nat × TileState) :=
  match p.tiles[n]? with
  | none => raise0 .regrange
  | some phys =>
    let t := (s.core p.core).tiles.getD phys {}
    match t.owner with
    | none => .ok (phys, {})
    | some (q, _) => if q = p.id then .ok (phys, t.state) else .error (.raise .tileown 0 (tileInfo n) false)

/-- Write a physical tile of a core and tag it. -/
def State.setTile (s : State) (core phys : Nat) (t : Tile) : State :=
  s.modCore core (fun k => { k with tiles := (upTo 8).map (fun i => if i = phys then t else k.tiles.getD i {}) })

def State.putTile (s : State) (p : Pack) (n phys : Nat) (t : TileState) : State :=
  s.setTile p.core phys { owner := some (p.id, n), state := t }

/-- The stored scale of a tile as a factor: 1.0 where it holds none. -/
def TileState.factor (t : TileState) : Nat := if t.tset then t.t.toNat else 0x3F800000

def TileState.word (t : TileState) (i : Nat) : Nat := (Map.get 0 t.words i).toNat

/-- An uncorrectable error of a word. -/
def Strike.fatal : Option Strike → Bool
  | some .hbm | some .sram | some .link => true
  | _ => false

/-- The poison of a word, as a read finds it (R390, R392). -/
def TileState.bad (t : TileState) (i : Nat) : Bool := Map.get false t.poison i || Strike.fatal (Map.get none t.strikes i)

/-- A tile some of whose words have been read: their errors are found (R392). -/
def TileState.found (t : TileState) (reads : Nat → Bool) : TileState :=
  { t with
    strikes := t.strikes.filter (fun e => !reads e.1)
    poison := Map.setAll false t.poison ((t.strikes.filter (fun e => reads e.1 && Strike.fatal e.2)).map (fun e => (e.1, true))) }

/-- What a read of words of a tile finds is counted (R412). -/
def State.countTile (s : State) (t : TileState) (reads : Nat → Bool) : State :=
  s.countSram ((t.strikes.filter (fun e => reads e.1)).map (fun e => e.2))


/-- RNE(word × t) (R115). -/
def TileState.scaled (t : TileState) (i : Nat) : Nat :=
  fp32.rne (mulVal (fp32.decode (t.word i)) (fp32.decode t.factor)).1

/-- A file of 16,384 words from a function, in canonical form. -/
def wordsFrom {α : Type} [DecidableEq α] (d : α) (f : Nat → α) : Map α :=
  (upTo 16384).filterMap (fun i => if f i = d then none else some (i, f i))

/-! ## The control fields (R330, R347, R350) -/

def mcAnoff (c : BitVec 64) : Nat := bits c.toNat 63 53
def mcAkoff (c : BitVec 64) : Nat := bits c.toNat 52 41
def mcAslot (c : BitVec 64) : Nat := bits c.toNat 40 37
def mcAden (c : BitVec 64) : Bool := c.getLsbD 36
def mcAcc (c : BitVec 64) : Nat := bits c.toNat 35 34
def mcFmtb (c : BitVec 64) : Nat := bits c.toNat 33 30
def mcFmta (c : BitVec 64) : Nat := bits c.toNat 29 26
def mcShape (c : BitVec 64) : Nat := bits c.toNat 25 24
def mcKstep (c : BitVec 64) : Nat := 32 * (bits c.toNat 23 12 + 1)
def mcSteps (c : BitVec 64) : Nat := bits c.toNat 11 0 + 1

/-- M and N of a shape (R322). -/
def shapeM (sh : Nat) : Nat := match sh with | 0 => 128 | 1 => 64 | _ => 256
def shapeN (sh : Nat) : Nat := match sh with | 0 => 128 | 1 => 256 | _ => 64

/-- The accumulator is INT32: both operands are unscaled integers (R116). -/
def intTile (fA fB : BitVec 128) : Bool :=
  let f (b : BitVec 128) : Bool := fbSfmt b == 0 && (intRange (fbEnc b)).isSome
  f fA && f fB

/-- RNE(tA × tB) (R115). -/
def tensorScale (fA fB : BitVec 128) : Nat := fp32.rne (mulVal (fp32.decode (fbTscale fA)) (fp32.decode (fbTscale fB))).1

def mvCount (c : BitVec 64) : Nat := bits c.toNat 45 32 + 1
def mvPitch (c : BitVec 64) : Nat := bits c.toNat 31 8
def mvShape (c : BitVec 64) : Nat := bits c.toNat 5 4
def mvEnc (c : BitVec 64) : Nat := bits c.toNat 3 0

/-- The width of a moved element in half bytes: Complex FP32 moves as FP32. -/
def moveHalf (enc : Nat) : Nat := if enc = 11 then 8 else halfBytes enc

/-- The words a move takes, and the byte span of its rows: row offset and length. -/
def mvWords (c : BitVec 64) : Nat := if mvShape c = 3 then mvCount c else 16384
def mvRows (c : BitVec 64) : List (Nat × Nat) :=
  if mvShape c = 3 then [(0, (mvCount c * moveHalf (mvEnc c) + 1) / 2)]
  else (upTo (shapeM (mvShape c))).map (fun m => (m * mvPitch c, shapeN (mvShape c) * moveHalf (mvEnc c) / 2))
def mvSpan (c : BitVec 64) : Nat := ((mvRows c).map (fun r => r.1 + r.2)).foldl max 0

def ffLast (p : BitVec 64) : Nat := bits p.toNat 61 58
def ffFirst (p : BitVec 64) : Nat := bits p.toNat 57 54
def ffOord (p : BitVec 64) : Bool := p.getLsbD 53
def ffIord (p : BitVec 64) : Bool := p.getLsbD 52
def ffScale (p : BitVec 64) : Nat := bits p.toNat 51 50
def ffDir (p : BitVec 64) : Bool := p.getLsbD 49
def ffN (p : BitVec 64) : Nat := bits p.toNat 12 0
def ffFrow (r : BitVec 64) : Nat := bits r.toNat 25 13
def ffRows (r : BitVec 64) : Nat := bits r.toNat 12 0

/-- The radix codes, and the radices of the stages (R350). -/
def ffCodes (p : BitVec 64) : List Nat := (upTo 12).map (fun i => bits p.toNat (15 + 3 * i) (13 + 3 * i))
def radixOf (code : Nat) : Nat := match code with | 1 => 2 | 2 => 3 | 3 => 4 | 4 => 5 | _ => 8
def ffRadices (p : BitVec 64) : List Nat := ((ffCodes p).takeWhile (fun c => c != 0)).map radixOf

/-- FMT of a plan, but for the tile's KIND and TSET (R350). -/
def ffBad (p r : BitVec 64) : Bool :=
  let rs := ffRadices p
  let s := rs.length
  bits p.toNat 63 62 != 0 || bits r.toNat 63 26 != 0 || ffScale p == 3 || (ffCodes p).any (fun c => decide (5 < c)) ||
  s == 0 || ((ffCodes p).drop s).any (fun c => c != 0) ||
  rs.foldl (fun a b => a * b) 1 != ffN p || decide (ffN p < 2) || decide (4096 < ffN p) ||
  ffFirst p == 0 || decide (s < ffFirst p) || decide (ffLast p < ffFirst p) || decide (s < ffLast p) ||
  (ffScale p == 1 && rs.any (fun x => x == 3 || x == 5)) || ffRows r == 0 ||
  decide (8192 < (ffFrow r + ffRows r) * ffN p)

/-! ## What the tile will be (R324) -/

/-- What a command leaves of KIND, TSET and T. -/
def MatCmd.leaves (c : MatCmd) (t : TileState) : TileState :=
  match c.op with
  | .mloop | .mstep =>
    if intTile c.fA c.fB then { t with kind := 2 }
    else { t with kind := 1, tset := true, t := BitVec.ofNat 32 (tensorScale c.fA c.fB) }
  | .mzero => { t with kind := 0, tset := false, t := 0 }
  | .mtld => { t with kind := if (intRange (mvEnc c.ctl)).isSome then 2 else 1, tset := false }
  | .mtst => t
  | .mfft | .mtwid => { t with kind := 1, tset := false }

/-- The uncompleted commands of a pack that name its tile `n`, in issue order. -/
def State.tileCmds (s : State) (p : Pack) (n : Nat) : List MatCmd :=
  (s.core p.core).mats.filter (fun c => c.pack == p.id && c.tile == n)

/-- The KIND, TSET and T that the issued commands will leave. -/
def State.futureTile (s : State) (p : Pack) (n : Nat) (t : TileState) : TileState :=
  (s.tileCmds p n).foldl (fun u c => c.leaves u) t

/-! ## Issue (R327, R329) -/

/-- The least of the offending offsets. -/
def leastOf (l : List Nat) : Option Nat := l.foldl (fun acc x => minIx acc (some x)) none

/-- The operand ranges of `mloop` and `mstep` over all steps (R331): base and bytes of each step for A and for B. -/
def MatCmd.stepBases (c : MatCmd) (b : Bool) : List Nat :=
  (upTo c.steps).map (fun s => ((if b then c.b else c.a).toNat + s * (if b then c.b1 else c.a1).toNat) % 2 ^ 64)

def MatCmd.stepBytes (c : MatCmd) (b : Bool) : Nat :=
  let rows := if b then shapeN (mcShape c.ctl) else shapeM (mcShape c.ctl)
  rows * mcKstep c.ctl * halfBytes (fbEnc (if b then c.fB else c.fA)) / 2

/-- The scale and zero-point arrays of an operand: offset and bytes over all steps (R332). -/
def MatCmd.arrays (c : MatCmd) (b : Bool) : List (Nat × Nat) :=
  let f := if b then c.fB else c.fA
  let rows := if b then shapeN (mcShape c.ctl) else shapeM (mcShape c.ctl)
  if fbSfmt f = 0 then [] else
  let n := c.steps * rows * (mcKstep c.ctl / fbBlock f)
  (fbScl f, n * fbScaleBytes f) :: (if fbHasZp f then [(fbZp f, n)] else [])

/-- The slower of two element widths, in bits (R6, R112). -/
def slowerBits (fA fB : BitVec 128) : Nat := max (encBits (fbEnc fA)) (encBits (fbEnc fB))

/-- A step is too long (R333): its MACs against 2,048 cycles of the rate. -/
def stepTooLong (nbv : Nat) (c : MatCmd) : Bool :=
  let rate := 512000 * 4 / slowerBits c.fA c.fB / (if nbv = 1 then 2 else 1)
  decide (2048 * rate < 16384 * mcKstep c.ctl)

/-- FMT of `mloop` and `mstep` (R330, R332 to R334, R112), `t` being the tile as earlier commands will leave it. -/
def loopBad (p : Pack) (t : TileState) (c : MatCmd) : Bool :=
  let k := c.ctl
  let ok (e : Nat) : Bool := (p.fmt.getD e none).isSome
  let int := intTile c.fA c.fB
  mcShape k == 3 || decide (2 ≤ mcAcc k) || mcAslot k == 15 ||
  (!mcAden k && (mcAslot k != 0 || mcAkoff k != 0 || mcAnoff k != 0)) ||
  (c.op == .mstep && mcSteps k != 1) || !ok (mcFmta k) || !ok (mcFmtb k) || (mcAden k && int) ||
  [c.fA, c.fB].any (fun f => fbBlock f != 0 && mcKstep k % fbBlock f != 0) || stepTooLong (pktNbv p.pkt) c ||
  (mcAcc k == 1 && t.kind != 0 && t.kind != (if int then 2 else 1)) ||
  (mcAcc k == 1 && !int && t.kind == 1 && t.tset && t.t.toNat != tensorScale c.fA c.fB) ||
  (c.arrays false ++ c.arrays true).any (fun a => decide (pktWindow p.pkt < a.1 + a.2))

/-- FMT of `mtld` and `mtst` (R347 to R349). -/
def moveBad (store : Bool) (t : TileState) (c : BitVec 64) : Bool :=
  let enc := mvEnc c
  let float := decide (enc ≤ 5) || enc == 11
  let int := enc == 12 || enc == 6 || enc == 7
  bits c.toNat 63 46 != 0 || bits c.toNat 7 6 != 0 ||
  (if mvShape c = 3 then mvPitch c != 0 else mvCount c != 1 || decide (2 * mvPitch c < shapeN (mvShape c) * moveHalf enc)) ||
  (moveHalf enc == 1 && mvWords c % 2 == 1) ||
  (if store then !((float && t.kind != 2) || (int && t.kind != 1)) else !(float || int))

/-- Orders 3 to 6 of R329 for a command on a tile that will be `t`. XADDR of order 5 is the start of the offending range that starts
lowest, also where only its end leaves the window: the model's reading (log entry 40). -/
def matCheck (p : Pack) (t : TileState) (adrv : Nat) (c : MatCmd) : Res Unit :=
  let free := pktFree p.pkt
  let outside (r : Nat × Nat) : Bool := decide (free < r.1 + r.2)
  match c.op with
  | .mloop | .mstep =>
    if loopBad p t c then raise0 .fmt else
    let bases := c.stepBases false ++ c.stepBases true
    match leastOf (bases.filter (fun a => a % 16 != 0)) with
    | some a => raiseAt .misalign a
    | none =>
      let spans := (c.stepBases false).map (fun a => (a, c.stepBytes false)) ++ (c.stepBases true).map (fun a => (a, c.stepBytes true)) ++
        c.arrays false ++ c.arrays true ++ (if mcAden c.ctl then [(adrv, 2 * shapeM (mcShape c.ctl))] else [])
      match leastOf ((spans.filter outside).map (fun r => r.1)) with
      | some a => raiseAt .view a
      | none => if mcAden c.ctl && pktAdaptt p.pkt == 0 then raise0 .adapt else .ok ()
  | .mtld | .mtst =>
    if moveBad (c.op == .mtst) t c.ctl then raise0 .fmt else
    match leastOf (((mvRows c.ctl).map (fun r => c.a.toNat + r.1)).filter (fun a => a % 16 != 0)) with
    | some a => raiseAt .misalign a
    | none => if outside (c.a.toNat, mvSpan c.ctl) then raiseAt .view c.a.toNat else .ok ()
  | .mfft => if ffBad c.a c.a1 || t.kind == 2 || t.tset then raise0 .fmt else .ok ()
  | .mtwid => if c.a.toNat = 0 ∨ 4096 < c.a.toNat then raise0 .fmt else .ok ()
  | .mzero => .ok ()

/-- The least range of step bases and bytes. -/
def coverAll (bases : List Nat) (n : Nat) : Nat × Nat :=
  (bases.foldl min (bases.headD 0), bases.foldl max 0 + n)

/-- The lock entries of a command (R331, R332, R348, R349). -/
def MatCmd.ranges (c : MatCmd) : List (Bool × Bool × Nat × Nat) :=
  let src (r : Nat × Nat) : Bool × Bool × Nat × Nat := (false, false, r.1, r.2)
  match c.op with
  | .mloop | .mstep =>
    src (coverAll (c.stepBases false) (c.stepBytes false)) :: src (coverAll (c.stepBases true) (c.stepBytes true)) ::
      (c.arrays false ++ c.arrays true).map (fun a => src (a.1, a.1 + a.2))
  | .mtld => [(false, false, c.a.toNat, c.a.toNat + mvSpan c.ctl)]
  | .mtst => [(true, false, c.a.toNat, c.a.toNat + mvSpan c.ctl)]
  | _ => []

/-- A byte of the pack's window. -/
def State.windowByte (s : State) (p : Pack) (off : Nat) : BitVec 8 := (s.core p.core).scratch.read (p.scrBase + off)

/-- The differing bits between neighbours of a sample, and its byte pairs (R342). -/
def toggles (bs : List (BitVec 8)) : Nat × Nat :=
  let pairs := bs.zip (bs.drop 1)
  ((pairs.map (fun x => ((upTo 8).filter (fun i => (x.1 ^^^ x.2).getLsbD i)).length)).sum, pairs.length)

/-- W and D of a command (R342). -/
def State.workOf (s : State) (p : Pack) (c : MatCmd) : Nat × Nat :=
  match c.op with
  | .mloop | .mstep =>
    let smp (b : Bool) : List (BitVec 8) :=
      (upTo (min 4096 (c.stepBytes b))).map (fun i => s.windowByte p (((c.stepBases b).headD 0) + i))
    let (t1, n1) := toggles (smp false)
    let (t2, n2) := toggles (smp true)
    let f := match slowerBits c.fA c.fB with | 4 => 1 | 8 => 2 | _ => 4
    (c.steps * 16 * mcKstep c.ctl * f, min 255 (256 * (t1 + t2) / max 1 (8 * (n1 + n2))))
  | .mfft => (8 * ffRows c.a1 * ffN c.a * (ffLast c.a - ffFirst c.a + 1), 64)
  | .mtld | .mtst => (1024, 64)
  | _ => (512, 64)

/-- E of W and D (R342). -/
def estimate (w d : Nat) : Nat := (w * (64 + d) + 63) / 64

/-- Issue a matrix command (R327, R329): a release at pack scope (R324, R177). `mk` gives the command but for its
identity and work. Identifiers are read as they stand: a poisoned one raises nothing and poisons no row, which is the model's choice
(log entry 116). -/
def issueMat (s : State) (h : Here) (n : BitVec 3) (op : MatOp) (a a1 b b1 ctl : BitVec 64) (steps : Nat) : Res State := do
  let p := h.pack
  if 4 ≤ ((s.core p.core).mats.filter (fun c => c.pack == h.pid && c.warp == h.wi)).length then .error .hold else do
  let (phys, t) ← s.tileOf p n.toNat
  let fmt (e : Nat) : BitVec 128 := (p.fmt.getD e none).getD 0
  let loop := op == .mloop || op == .mstep
  let adrv := h.warp.adrv.toNat
  let c0 : MatCmd :=
    { tag := (s.core p.core).seq, core := p.core, pack := h.pid, ctx := p.ctx, warp := h.wi, pc := s.wordPc, op := op,
      tile := n.toNat, a := a, a1 := a1, b := b, b1 := b1, ctl := ctl,
      fA := if loop then fmt (mcFmta ctl) else 0, fB := if loop then fmt (mcFmtb ctl) else 0, ids := [],
      no := h.warp.mathSeq + 1, steps := steps, stepsDone := 0, charge := 0, passed := 0, batch := none }
  matCheck p (s.futureTile p n.toNat t) adrv c0
  releaseHold h
  let idAt (m : Nat) : BitVec 16 := BitVec.ofNat 16 (leNat [s.windowByte p (adrv + 2 * m), s.windowByte p (adrv + 2 * m + 1)])
  let ids := if loop && mcAden ctl then (upTo (shapeM (mcShape ctl))).map idAt else []
  let c1 := { c0 with ids := ids }
  let (w, d) := s.workOf p c1
  let e := estimate w d
  let c := { c1 with charge := (e + steps - 1) / max 1 steps }
  let s0 ← (s.putTile p n.toNat phys t).lockRanges p.core p.ctx h.pid c.tag c.ranges
  let s1 := if ids.isEmpty then s0 else s0.detectWindow p [(adrv, 2 * ids.length)]
  let s2 ← s1.issueFlight h .math (.engine c.tag) none none false
  .ok ((s2.modCore p.core (fun k => { k with seq := k.seq + 1, mats := k.mats ++ [c] })).setCur (fun v => { v with
    mathSeq := v.mathSeq + 1
    lastEst := BitVec.ofNat 64 (2 ^ 40 + d * 2 ^ 32 + min e (2 ^ 32 - 1)) }))

def execMloop (ka kb kc : BitVec 6) (t : BitVec 3) (s : State) : Host.Outcome State Fault Refusal :=
  runWord (.mloop ka kb kc t) s (fun h =>
    let w := h.warp
    issueMat s h t .mloop (w.kreg ka.toNat) (w.kreg (ka.toNat + 1)) (w.kreg kb.toNat) (w.kreg (kb.toNat + 1))
      (w.kreg kc.toNat) (mcSteps (w.kreg kc.toNat)))

def execMstep (ka kb kc : BitVec 6) (t : BitVec 3) (s : State) : Host.Outcome State Fault Refusal :=
  runWord (.mstep ka kb kc t) s (fun h =>
    let w := h.warp
    issueMat s h t .mstep (w.kreg ka.toNat) 0 (w.kreg kb.toNat) 0 (w.kreg kc.toNat) 1)

def execMzero (t : BitVec 3) (s : State) : Host.Outcome State Fault Refusal :=
  runWord (.mzero t) s (fun h => issueMat s h t .mzero 0 0 0 0 0 1)

def execMtld (ka kb : BitVec 6) (t : BitVec 3) (s : State) : Host.Outcome State Fault Refusal :=
  runWord (.mtld ka kb t) s (fun h => issueMat s h t .mtld (h.warp.kreg ka.toNat) 0 0 0 (h.warp.kreg kb.toNat) 1)

def execMtst (ka kb : BitVec 6) (t : BitVec 3) (s : State) : Host.Outcome State Fault Refusal :=
  runWord (.mtst ka kb t) s (fun h => issueMat s h t .mtst (h.warp.kreg ka.toNat) 0 0 0 (h.warp.kreg kb.toNat) 1)

def execMfft (ka : BitVec 6) (t : BitVec 3) (s : State) : Host.Outcome State Fault Refusal :=
  runWord (.mfft ka t) s (fun h =>
    let p := h.warp.kreg ka.toNat
    issueMat s h t .mfft p (h.warp.kreg (ka.toNat + 1)) 0 0 0 (ffLast p + 1 - ffFirst p))

def execMtwid (ka : BitVec 6) (t : BitVec 3) (s : State) : Host.Outcome State Fault Refusal :=
  runWord (.mtwid ka t) s (fun h => issueMat s h t .mtwid (h.warp.kreg ka.toNat) 0 0 0 0 1)

/-! ## The words that act at issue -/

/-- `mfmt` (R326). -/
def execMfmt (ka kb : BitVec 6) (s : State) : Host.Outcome State Fault Refusal :=
  runWord (.mfmt ka kb) s (fun h => do
    let off := (h.warp.kreg ka.toNat).toNat
    let bs ← s.block h off 16 16
    let b : BitVec 128 := recOf 128 bs
    if !fmtBlockOk (pktWindow h.pack.pkt) b then .error (.raise .fmt (h.warp.kreg ka.toNat) 0 false)
    else .ok ((s.detectWindow h.pack [(off, 16)]).modPack h.pid (fun p => { p with fmt := p.fmt.set ((h.warp.kreg kb.toNat).toNat % 16) (some b) })))

/-- `madr` (R335). -/
def execMadr (ka : BitVec 6) (s : State) : Host.Outcome State Fault Refusal :=
  runWord (.madr ka) s (fun h =>
    let x := (h.warp.kreg ka.toNat).toNat
    if x % 2 = 1 then raiseAt .misalign x
    else if pktWindow h.pack.pkt ≤ x then raiseAt .view x
    else done s (fun w => { w with adrv := h.warp.kreg ka.toNat }))

/-- `mcfg` (R340): held until the pack's earlier matrix commands have completed. -/
def execMcfg (ka kb : BitVec 6) (s : State) : Host.Outcome State Fault Refusal :=
  runWord (.mcfg ka kb) s (fun h =>
    let f := (h.warp.kreg ka.toNat).toNat
    let table := pktAdaptt h.pack.pkt
    let id := (h.warp.kreg kb.toNat).extractLsb' 0 16
    if 2 ≤ f then raise0 .fmt
    else if (s.core h.pack.core).mats.any (fun c => c.pack == h.pid) then .error .hold
    else .ok (s.modCtx h.pack.ctx (fun x => { x with
      adCache := x.adCache.filter (fun e => e.table != table || (f == 1 && e.id != id)) })))

/-- `mbatch` (R341): close the warp's commands since the last one into a batch. -/
def execMbatch (ka : BitVec 6) (s : State) : Host.Outcome State Fault Refusal :=
  runWord (.mbatch ka) s (fun h =>
    let b := h.warp.batch
    let close (c : MatCmd) : MatCmd :=
      if c.pack = h.pid ∧ c.warp = h.wi ∧ c.batch = none then { c with batch := some b } else c
    .ok ((s.modCore h.pack.core (fun k => { k with mats := k.mats.map close })).setCur (fun w =>
      { w.setK ka.toNat b with
        batch := b + 1
        pending := w.pending.map (fun f => if f.mathNo.isSome ∧ f.batchCmd = none then { f with batchCmd := some b.toNat } else f) })))

/-- `mwait` (R341): blocks until the batches up to a number have completed; an ADAPT that they have left pending is then raised (R339),
or the oldest of all where older faults are pending beside it (R417, log entry 29). -/
def execMwait (ka : BitVec 6) (s : State) : Host.Outcome State Fault Refusal :=
  runWord (.mwait ka) s (fun h =>
    let n := h.warp.kreg ka.toNat
    let waits := (s.core h.pack.core).mats.any (fun c => c.pack == h.pid && c.warp == h.wi &&
      (match c.batch with | some b => b.ule n | none => false))
    if waits then .error (.block (.mwait n))
    else if h.warp.pending.any (fun f => f.batchCmd.any (fun b => decide (b ≤ n.toNat))) then
      match h.warp.pending with
      | f :: _ => raisePending f
      | [] => done s id
    else done s id)

/-- `mest` (R343). -/
def execMest (ka : BitVec 6) (s : State) : Host.Outcome State Fault Refusal :=
  runWord (.mest ka) s (fun h => done s (fun w => w.setK ka.toNat h.warp.lastEst))

/-! ## `trd` and `twr` (R254) -/

/-- The tile words of a size, and the registers that hold them. -/
def tileWords (size : BitVec 3) : Nat := match size.toNat with | 0 => 4 | 1 => 2 | 2 => 1 | 3 => 2 | _ => 4

/-- The first word of each active lane, with the checks of items 4 and 5. Which cause is reported where lanes raise both MISALIGN and
VIEW is not given: here MISALIGN comes first, as in R135's order of checks (log entry 99). -/
def tileLanes (h : Here) (n : Nat) (size : BitVec 3) (off : BitVec 8) (locked : Bool) : Res (List (Nat × Nat)) :=
  let k := tileWords size
  let check (l : Nat) : LaneTry Nat :=
    let e := elementOf h off l
    let x := intBits 64 (4 * e + (n * 65536 : Nat))
    if e % (k : Int) ≠ 0 then laneFail 1 .misalign x
    else if e < 0 ∨ 16384 < e + (k : Int) then laneFail 2 .view x
    else if locked then laneFail 3 .lockhit x
    else .ok e.toNat
  allLanes ((lanesOf h.warp.exec).map (fun l => (l, check l)))

/-- `trd`: the words as they stand at issue come with the reply. -/
def execTrd (data : BitVec 7) (off : BitVec 8) (t size : BitVec 3) (s : State) : Host.Outcome State Fault Refusal :=
  runWord (.trd data off t size) s (fun h => do
    let p := h.pack
    let n := t.toNat
    let (phys, ts) ← s.tileOf p n
    let cmds := s.tileCmds p n
    if size.toNat ≤ 1 ∧ (s.futureTile p n ts).kind = 2 then raise0 .fmt else do
    let lanes ← tileLanes h n size off (cmds.any (fun c => c.op != .mtst))
    let k := tileWords size
    let val (i : Nat) : Nat := if ts.kind = 2 then ts.word i else ts.scaled i
    let narrow (i : Nat) : Nat := match size.toNat with
      | 0 => e4m3.rne (fp32.decode (val i))
      | 1 => bf16.rne (fp32.decode (val i))
      | _ => val i
    let reg (e j : Nat) : BitVec 32 := match size.toNat with
      | 0 => BitVec.ofNat 32 ((upTo 4).map (fun i => narrow (e + i) * 2 ^ (8 * i))).sum
      | 1 => BitVec.ofNat 32 ((upTo 2).map (fun i => narrow (e + i) * 2 ^ (16 * i))).sum
      | _ => BitVec.ofNat 32 (narrow (e + j))
    let count := if size.toNat ≤ 1 then 1 else k
    let regs := lanes.flatMap (fun le => (upTo count).map (fun j => ((data.toNat + j) * 32 + le.1, reg le.2 j)))
    let bad := lanes.flatMap (fun le => if (upTo k).any (fun i => ts.bad (le.2 + i)) then
      (upTo count).map (fun j => (data.toNat + j) * 32 + le.1) else [])
    let reads (i : Nat) : Bool := lanes.any (fun le => decide (le.2 ≤ i) && decide (i < le.2 + k))
    ((s.countTile ts reads).putTile p n phys (ts.found reads)).issueFlight h .laneLd (.tileLoad regs bad) none none false)

/-- `twr`: a CLEAN tile becomes FP32 with TSET 0. Of two lanes that name the same word, of which the manual says nothing, the
highest-numbered one's value remains, as R146 has it for stores (log entry 102). -/
def execTwr (data : BitVec 7) (off : BitVec 8) (t size : BitVec 3) (s : State) : Host.Outcome State Fault Refusal :=
  runWord (.twr data off t size) s (fun h => do
    let p := h.pack
    let n := t.toNat
    let (phys, ts) ← s.tileOf p n
    let cmds := s.tileCmds p n
    if size.toNat ≤ 1 ∧ (s.futureTile p n ts).kind = 2 then raise0 .fmt else do
    let lanes ← tileLanes h n size off (!cmds.isEmpty)
    let k := tileWords size
    let word (l i : Nat) : BitVec 32 := match size.toNat with
      | 0 => BitVec.ofNat 32 (fp32.rne (e4m3.decode ((h.warp.vreg data.toNat l).toNat / 2 ^ (8 * i) % 256)))
      | 1 => BitVec.ofNat 32 (fp32.rne (bf16.decode ((h.warp.vreg data.toNat l).toNat / 2 ^ (16 * i) % 65536)))
      | _ => h.warp.vreg (data.toNat + i) l
    let ws := lanes.flatMap (fun le => (upTo k).map (fun i => (le.2 + i, word le.1 i)))
    let ts1 := if ts.kind = 0 then { ts with kind := 1, tset := false } else ts
    let ts2 := { ts1 with
      words := Map.setAll 0 ts1.words ws
      poison := Map.setAll false ts1.poison (ws.map (fun w => (w.1, false)))
      strikes := ts1.strikes.filter (fun e => !ws.any (fun w => w.1 == e.1)) }
    ((s.putTile p n phys ts2).markLanes (lanes.foldl (fun m le => m ||| (1#32 <<< le.1)) 0)).issueFlight h .laneSt .tileStore none none false)

end Sys2Proof.Machine
end

