-- ==== Sys2Proof/Machine/Special.lean ====
section
/-! DEFINITION. The special functions (R108, R109) and the trigonometric constants of the matrix engine (R346,
R353, R354). Reciprocal, reciprocal square root and square root are correctly rounded. The four others are a free
value (`Config.approxBits`) kept within the bound of R108 of a fixed-point evaluation with 240 fraction bits, log
entry 7; where the free value breaks the bound, the evaluation's nearest FP32 value stands for it. -/

namespace Sys2Proof.Machine

/-- The number of fraction bits of the fixed-point evaluations. -/
def fixP : Nat := 240
def fixOne : Int := (2 ^ fixP : Nat)

/-- The integer square root by bits, from bit `n - 1` downwards. -/
def isqrtFrom (x : Nat) : Nat → Nat → Nat
  | 0, r => r
  | n + 1, r => let t := r + 2 ^ n; isqrtFrom x n (if t * t ≤ x then t else r)

/-- 1 when a remainder is left, to be appended below a quotient that is then rounded. -/
def stickyBit (b : Bool) : Nat := if b then 1 else 0

/-- 1/x, correctly rounded (R108, R109). -/
def specRcp (mode : Mode) (a : Nat) : Nat × BitVec 5 :=
  match fp32.decode a with
  | .nan s => fp32.round mode (.nan s)
  | .inf n => (fp32.sign n, 0)
  | .num n m e =>
    if m = 0 then (fp32.sign n + fp32.infCode, flagDZ) else
    let q := 2 ^ 64 / m
    fp32.round mode (.num n (2 * q + stickyBit (2 ^ 64 % m != 0)) (-65 - e))

/-- √x, correctly rounded. -/
def specSqrt (mode : Mode) (a : Nat) : Nat × BitVec 5 :=
  match fp32.decode a with
  | .nan s => fp32.round mode (.nan s)
  | .inf n => if n then (fp32.nan, flagNV) else (fp32.infCode, 0)
  | .num n m e =>
    if m = 0 then (fp32.sign n, 0) else
    if n then (fp32.nan, flagNV) else
    let (m1, e1) := if e % 2 = 0 then (m, e) else (2 * m, e - 1)
    let x := m1 * 2 ^ 64
    let r := isqrtFrom x 48 0
    fp32.round mode (.num false (2 * r + stickyBit (r * r != x)) (e1 / 2 - 33))

/-- 1/√x, correctly rounded. -/
def specRsq (mode : Mode) (a : Nat) : Nat × BitVec 5 :=
  match fp32.decode a with
  | .nan s => fp32.round mode (.nan s)
  | .inf n => if n then (fp32.nan, flagNV) else (0, 0)
  | .num n m e =>
    if m = 0 then (fp32.sign n + fp32.infCode, flagDZ) else
    if n then (fp32.nan, flagNV) else
    let (m1, e1) := if e % 2 = 0 then (m, e) else (2 * m, e - 1)
    let x := 2 ^ 128 / m1
    let r := isqrtFrom x 66 0
    fp32.round mode (.num false (2 * r + stickyBit (r * r != x || 2 ^ 128 % m1 != 0)) (-65 - e1 / 2))

/-! ## Fixed-point series -/

/-- Σ z^(2k+1) / (2k+1), with alternating signs when `alt`, over the first `n` terms; `p` is z^(2k+1) and `k` the index. -/
def oddSeries (alt : Bool) (z2 : Int) : Nat → Nat → Int → Int
  | 0, _, _ => 0
  | n + 1, k, p =>
    let t := p / (2 * k + 1 : Nat)
    (if alt ∧ k % 2 = 1 then -t else t) + oddSeries alt z2 n (k + 1) (p * z2 / fixOne)

/-- Σ t^k / k! over k = 0 .. n - 1, from the term `p` with index `k`. -/
def expSeries (t : Int) : Nat → Nat → Int → Int
  | 0, _, _ => 0
  | n + 1, k, p => p + expSeries t n (k + 1) (p * t / fixOne / (k + 1 : Nat))

/-- Σ (-1)^j t^(2j+i) / (2j+i)!: the sine for i = 1, the cosine for i = 0. -/
def trigSeries (t2 : Int) : Nat → Nat → Int → Int
  | 0, _, _ => 0
  | n + 1, i, p => p - trigSeries t2 n (i + 2) (p * t2 / fixOne / ((i + 1) * (i + 2) : Nat))

/-- ln 2 = 2 artanh(1/3). -/
def ln2Fix : Int := 2 * oddSeries false (fixOne / 9) 84 0 (fixOne / 3)

/-- π = 16 arctan(1/5) - 4 arctan(1/239). -/
def piFix : Int :=
  16 * oddSeries true (fixOne / 25) 58 0 (fixOne / 5) - 4 * oddSeries true (fixOne / 57121) 20 0 (fixOne / 239)

/-- sin and cos of 2π r, for r = d / 2^240 turns with |d| at most an eighth of a turn. -/
def trigSmall (d : Int) : Int × Int :=
  let t := 2 * piFix * d / fixOne
  let t2 := t * t / fixOne
  (trigSeries t2 32 1 t, trigSeries t2 32 0 fixOne)

/-- sin and cos of 2π r, for r = d / 2^240 turns, 0 ≤ r < 1. -/
def trigTurn (d : Nat) : Int × Int :=
  let q := (8 * d + 2 ^ fixP) / 2 ^ (fixP + 1)
  let (sn, cs) := trigSmall ((d : Int) - q * 2 ^ (fixP - 2))
  match q % 4 with
  | 0 => (sn, cs) | 1 => (cs, -sn) | 2 => (-sn, -cs) | _ => (-cs, sn)

/-- A fixed-point number scaled by 2^x as a value. -/
def fixVal (a : Int) (x : Int) : Val := .num (decide (a < 0)) a.natAbs (x - fixP)

/-- A trigonometric constant cos or sin (2π j/N), rounded with RNE from its exact value; an exact zero is +0
(R346). -/
def trigConst (sine : Bool) (j n : Nat) : BitVec 32 :=
  let r := (j % n) * 2 ^ fixP / n
  if 4 * (j % n) % n = 0 then
    let q := 4 * (j % n) / n
    let c : Nat := match (if sine then q else q + 1) % 4 with
      | 1 => 0x3F800000 | 3 => 0xBF800000 | _ => 0
    BitVec.ofNat 32 c
  else
    let (sn, cs) := trigTurn r
    BitVec.ofNat 32 (fp32.rne (fixVal (if sine then sn else cs) 0))

/-! ## The approximate functions -/

/-- A code lies within two units in the last place of a value (R108), or within 2^-22 of it when `abs` holds. The
unit is taken in the binade of the value correctly rounded. -/
def withinBound (code : Nat) (v : Val) (abs : Bool) : Bool :=
  match fp32.decode code, fp32.decode (fp32.rne v), v with
  | .num cn cm ce, .num _ rm re, .num vn vm ve =>
    let ulp : Int := if rm = 0 then -149 else max (expOf rm re) (-126) - 23
    let q := min (min ce ve) (ulp - 160)
    let diff := (shiftTo cn cm ce q - shiftTo vn vm ve q).natAbs + 2 ^ 12
    decide (diff ≤ 2 ^ (ulp + 1 - q).toNat) || (abs && decide (diff ≤ 2 ^ (-22 - q).toNat))
  | _, _, _ => false

/-- A result that is not exact: the free value where it keeps the bound, else the nearest; NX always (R108). -/
def approxResult (fn : Nat) (a : Nat) (v : Val) (abs : Bool) : Nat × BitVec 5 :=
  let free := (Config.approxBits fn (BitVec.ofNat 32 a)).toNat
  let (near, fl) := fp32.round .rne v
  (if withinBound free v abs then free else near, fl ||| flagNX)

/-- 2^x (R108, R109). -/
def specExp2 (a : Nat) : Nat × BitVec 5 :=
  match fp32.decode a with
  | .nan s => fp32.round .rne (.nan s)
  | .inf n => (if n then 0 else fp32.infCode, 0)
  | .num n m e =>
    if m = 0 then (0x3F800000, 0) else
    if !n && !dyLt m e 128 0 then (fp32.infCode, flagOF ||| flagNX) else
    if n && dyLt 400 0 m e then approxResult 3 a (.num false 1 (-400)) false else
    -- x as a fixed-point number: |x| is at most 400, and its lowest bit is 2^-149 or more
    let x : Int := shiftTo n m e (-(fixP : Int))
    let k := x / fixOne
    let f := x % fixOne
    if f = 0 then
      if -149 ≤ k then fp32.round .rne (.num false 1 k) else approxResult 3 a (.num false 1 k) false
    else approxResult 3 a (fixVal (expSeries (f * ln2Fix / fixOne) 64 0 fixOne) k) false

/-- log2 x. -/
def specLog2 (a : Nat) : Nat × BitVec 5 :=
  match fp32.decode a with
  | .nan s => fp32.round .rne (.nan s)
  | .inf n => if n then (fp32.nan, flagNV) else (fp32.infCode, 0)
  | .num n m e =>
    if m = 0 then (fp32.sign true + fp32.infCode, flagDZ) else
    if n then (fp32.nan, flagNV) else
    let x := expOf m e
    if 2 ^ (bitLen m - 1) = m then fp32.round .rne (valInt x) else
    -- m / 2^(bitLen m - 1) lies between 1 and 2
    let y : Int := (m * 2 ^ (fixP + 1 - bitLen m) : Nat)
    let z := (y - fixOne) * fixOne / (y + fixOne)
    let l := 2 * oddSeries false (z * z / fixOne) 84 0 z * fixOne / ln2Fix
    approxResult 4 a (fixVal (x * fixOne + l) 0) (!dyLt m e 1 (-1) && !dyLt 2 0 m e)

/-- sin(2πx) or cos(2πx). -/
def specTrig (sine : Bool) (a : Nat) : Nat × BitVec 5 :=
  match fp32.decode a with
  | .nan s => fp32.round .rne (.nan s)
  | .inf _ => (fp32.nan, flagNV)
  | .num n m e =>
    if m = 0 then (if sine then fp32.sign n else 0x3F800000, 0) else
    -- the turn's fraction as a multiple of 2^-240, exact since the lowest bit of x is 2^-149 or more
    let s := (-e).toNat
    let r : Int := if 0 ≤ e then 0 else ((if n then -(m : Int) else m) % (2 ^ s : Nat)) * (2 ^ (fixP - s) : Nat)
    if 4 * r % fixOne = 0 then
      let q := (4 * r / fixOne).toNat
      let c : Nat := match (if sine then q else q + 1) % 4 with
        | 1 => 0x3F800000 | 3 => 0xBF800000 | _ => 0
      (c, 0)
    else
      let (sn, cs) := trigTurn r.toNat
      let v := fixVal (if sine then sn else cs) 0
      let small := match v with | .num _ vm ve => dyLt vm ve 1 (-20) | _ => false
      approxResult (if sine then 5 else 6) a v small

end Sys2Proof.Machine
end

