-- ==== Sys2Proof/Machine/MatrixStep.lean ====
section
/-! DEFINITION. The matrix engine at work: the arithmetic of a step (R113 to R117, R331, R332, R334), tile moves (R346 to
R349), the butterfly mode (R350 to R354), adapters (R336 to R339), and the grant of steps and credit (R344, R345). -/

namespace Sys2Proof.Machine

/-! ## Operands (R331, R332) -/

/-- A number of `n` bytes at an offset of a pack's window, and whether a byte of it is poisoned. -/
def State.windowNum (s : State) (p : Pack) (off n : Nat) : Nat × Bool :=
  let pl : Place := .scratch p.core (p.scrBase + off)
  (leNat ((upTo n).map (fun i => s.readPlace (pl.plus i))), (upTo n).any (fun i => s.badPlace (pl.plus i)))

/-- Element `i` of an array of elements `half` half bytes wide: its code, and its poison. -/
def State.windowElem (s : State) (p : Pack) (base half i : Nat) : Nat × Bool :=
  if half = 1 then
    let (b, bad) := s.windowNum p (base + i / 2) 1
    (b / 16 ^ (i % 2) % 16, bad)
  else s.windowNum p (base + i * (half / 2)) (half / 2)

/-- The rows of an operand: M for A, N for B. -/
def MatCmd.rows (c : MatCmd) (b : Bool) : Nat := if b then shapeN (mcShape c.ctl) else shapeM (mcShape c.ctl)
def MatCmd.block (c : MatCmd) (b : Bool) : BitVec 128 := if b then c.fB else c.fA

/-- L of R113 and R117. -/
def chunkLen (nbv : Nat) (fA fB : BitVec 128) : Nat :=
  if nbv = 1 then 16 else
  match fbBlock fA, fbBlock fB with
  | 0, 0 => 32
  | 0, y => y
  | x, 0 => x
  | x, y => min x y

/-- A chunk of a row of an operand: its values less their zero point, the scale, and its poison. -/
structure Chunk where
  vals  : List Val
  scale : Val
  bad   : Bool

/-- Chunk `c` of a row in one step, in chunks of `l` elements. -/
def State.chunkOf (s : State) (p : Pack) (cmd : MatCmd) (b : Bool) (step row l c : Nat) : Chunk :=
  let f := cmd.block b
  let k := mcKstep cmd.ctl
  let enc := fbEnc f
  let base := (cmd.stepBases b).getD step 0
  let es := (upTo l).map (fun i => s.windowElem p base (halfBytes enc) (row * k + c * l + i))
  let at_ (i : Nat) : Nat := (step * cmd.rows b + row) * (k / fbBlock f) + i
  let g := c * l / fbBlock f
  let sc : Val × Bool :=
    if fbSfmt f = 0 then (.num false 1 0, false) else
    let (x, bad) := s.windowNum p (fbScl f + at_ g * fbScaleBytes f) (fbScaleBytes f)
    (if fbSfmt f = 1 then e8m0Val x else fp16.decode x, bad)
  let z : Int × Bool :=
    if fbHasZp f then (let (x, bad) := s.windowNum p (fbZp f + at_ g) 1; (signedOf 8 x, bad)) else (0, false)
  { vals := es.map (fun e => match intRange enc with
      | some _ => valInt (intOf enc e.1 - z.1)
      | none => encVal enc e.1)
    scale := sc.1, bad := es.any (fun e => e.2) || sc.2 || z.2 }

/-- The chunks of a row in one step. -/
def State.rowChunks (s : State) (p : Pack) (cmd : MatCmd) (b : Bool) (step row l : Nat) : List Chunk :=
  (upTo (mcKstep cmd.ctl / l)).map (fun c => s.chunkOf p cmd b step row l c)

/-! ## One step of `mloop` and `mstep` (R113 to R117, R334) -/

/-- S of R113: the exact sum of products, with R114 for what is not finite. -/
def dot (xs ys : List Val) : Val :=
  (xs.zip ys).foldl (fun acc xy => (addVal .rne acc (mulVal xy.1 xy.2).1).1) (.num false 0 0)

/-- A product of +0 wherever it is zero. -/
def plusZero (v : Val) : Val := if v.isZero then .num false 0 0 else v

/-- acc := round(acc + P) (R113, R117). -/
def accum (mode : Mode) (acc : Nat) (p : Val) : Nat := (fp32.round mode (addVal mode (fp32.decode acc) (plusZero p)).1).1

/-- The rounding of ACCUM under an NBV (R117, R337). -/
def accMode (nbv : Nat) : Mode := if nbv = 1 then .rtz else .rne

/-- An FP32 accumulator over the chunks of a row and a column. -/
def accRow (mode : Mode) (acc : Nat) (as bs : List Chunk) : Nat :=
  (as.zip bs).foldl (fun r ab =>
    accum mode r (mulVal (mulVal (dot ab.1.vals ab.2.vals) ab.1.scale).1 ab.2.scale).1) acc

/-- The integer that an exact value holds. -/
def Val.toInt : Val → Int
  | .num n m e => shiftTo n m e 0
  | _ => 0

/-- An INT32 accumulator over the chunks of a row and a column (R116). -/
def intRow (acc : Nat) (as bs : List Chunk) : Nat :=
  (as.zip bs).foldl (fun r ab => intBits 32 ((r : Int) + (dot ab.1.vals ab.2.vals).toInt)) acc

/-- The tile when the first step begins (R334). -/
def MatCmd.opening (c : MatCmd) (t : TileState) : TileState :=
  let clear := mcAcc c.ctl = 0 ∨ t.kind = 0
  let u := c.leaves t
  if clear then { u with words := [], poison := [], strikes := [] } else u

/-- One step applied to every element. -/
def State.loopStep (s : State) (p : Pack) (c : MatCmd) (t : TileState) : TileState :=
  let nbv := pktNbv p.pkt
  let l := chunkLen nbv c.fA c.fB
  let rows := (upTo (c.rows false)).map (fun m => s.rowChunks p c false c.stepsDone m l)
  let cols := (upTo (c.rows true)).map (fun n => s.rowChunks p c true c.stepsDone n l)
  let badRow := rows.map (fun r => r.any (fun k => k.bad))
  let badCol := cols.map (fun r => r.any (fun k => k.bad))
  let n := c.rows true
  let int := intTile c.fA c.fB
  { t with
    words := wordsFrom 0 (fun i =>
      let a := rows.getD (i / n) []
      let b := cols.getD (i % n) []
      BitVec.ofNat 32 (if int then intRow (t.word i) a b else accRow (accMode nbv) (t.word i) a b))
    poison := wordsFrom false (fun i => t.bad i || badRow.getD (i / n) false || badCol.getD (i % n) false) }

/-! ## Tile moves (R346 to R349) -/

/-- The twiddles of an N-point table (R346). -/
def twidWord (n i : Nat) : BitVec 32 := if i / 2 < n then trigConst (i % 2 == 1) (i / 2) n else 0

/-- The window offset of the element of word `i`: its array's base, and its index there. -/
def mvElem (base : Nat) (ctl : BitVec 64) (i : Nat) : Nat × Nat :=
  if mvShape ctl = 3 then (base, i)
  else (base + i / shapeN (mvShape ctl) * mvPitch ctl, i % shapeN (mvShape ctl))

/-- The encoding of the moved elements: Complex FP32 moves as FP32. -/
def mvCode (ctl : BitVec 64) : Nat := if mvEnc ctl = 11 then 0 else mvEnc ctl

/-- `mtld` (R348). -/
def State.loadTile (s : State) (p : Pack) (c : MatCmd) (t : TileState) : TileState :=
  let u := c.leaves t
  let elem (i : Nat) : Nat × Bool :=
    let (b, j) := mvElem c.a.toNat c.ctl i
    if i < mvWords c.ctl then s.windowElem p b (moveHalf (mvEnc c.ctl)) j else (0, false)
  let word (i : Nat) : BitVec 32 :=
    if mvWords c.ctl ≤ i then 0 else
    match intRange (mvCode c.ctl) with
    | some _ => BitVec.ofInt 32 (intOf (mvCode c.ctl) (elem i).1)
    | none => BitVec.ofNat 32 (fp32.rne (encVal (mvCode c.ctl) (elem i).1))
  { u with words := wordsFrom 0 word, poison := wordsFrom false (fun i => (elem i).2) }

/-- A word of a tile as `mtst` stores it (R349). -/
def storedCode (t : TileState) (enc i : Nat) : Nat :=
  match intRange enc with
  | some _ => encRound enc (valInt (signedOf 32 (t.word i)))
  | none => if enc = 0 then t.scaled i else encRound enc (fp32.decode (t.scaled i))

/-- `mtst` (R349): bytes and poison, in the pack's window. -/
def State.storeTile (s : State) (p : Pack) (c : MatCmd) (t : TileState) : State :=
  let enc := mvCode c.ctl
  let half := moveHalf (mvEnc c.ctl)
  let per := if half = 1 then 2 else 1
  let units := (upTo (mvWords c.ctl / per)).map (fun u =>
    let i := u * per
    let (b, j) := mvElem c.a.toNat c.ctl i
    let bytes := if half = 1 then [BitVec.ofNat 8 (storedCode t enc i % 16 + 16 * (storedCode t enc (i + 1) % 16))]
      else leBytes (half / 2) (storedCode t enc i)
    (b + j * half / 2, bytes, (upTo per).any (fun d => t.bad (i + d))))
  let place (o : Nat) : Place := .scratch p.core (p.scrBase + o)
  let bytes := units.flatMap (fun u => wholeBytes u.1 ((upTo u.2.1.length).map (fun i => place (u.1 + i))) u.2.1)
  (units.filter (fun u => u.2.2)).foldl (fun r u => (upTo u.2.1.length).foldl (fun q i => q.setBad (place (u.1 + i)) true) r)
    (s.writeAll bytes)

/-! ## The butterfly mode (R350 to R354) -/

/-- A component: its FP32 code and its poison. -/
structure Comp where
  x   : Nat
  bad : Bool
  deriving DecidableEq, Repr

/-- A complex point. -/
structure Point where
  re : Comp
  im : Comp
  deriving DecidableEq, Repr

/-- The exact value of a component. -/
def Comp.val (c : Comp) : Val := fp32.decode c.x

/-- A component rounded once from its exact value. -/
def comp (v : Val) (bad : Bool) : Comp := { x := fp32.rne v, bad := bad }

/-- Half of an exact value. -/
def halfVal : Val → Val
  | .num n m e => .num n m (e - 1)
  | v => v

/-- An exact value over 3 or 5, to more digits than any rounding looks at. -/
def overVal (d : Nat) : Val → Val
  | .num n m e => .num n (2 * (m * 2 ^ 64 / d) + stickyBit (m * 2 ^ 64 % d != 0)) (e - 65)
  | v => v

/-- ADD and SUB of R352, in a layer that scales or not. -/
def compAdd (half : Bool) (u v : Comp) : Comp :=
  let r := (addVal .rne u.val v.val).1
  comp (if half then halfVal r else r) (u.bad || v.bad)
def compSub (half : Bool) (u v : Comp) : Comp :=
  let r := (addVal .rne u.val v.val.neg).1
  comp (if half then halfVal r else r) (u.bad || v.bad)
def ptAdd (half : Bool) (u v : Point) : Point := { re := compAdd half u.re v.re, im := compAdd half u.im v.im }
def ptSub (half : Bool) (u v : Point) : Point := { re := compSub half u.re v.re, im := compSub half u.im v.im }

/-- The sign of a component reversed, which is exact. -/
def compNeg (c : Comp) : Comp := comp c.val.neg c.bad

/-- ROT of R352. -/
def ptRot (inverse : Bool) (z : Point) : Point :=
  if inverse then { re := compNeg z.im, im := z.re } else { re := z.im, im := compNeg z.re }

/-- MUL of R352 by a constant. -/
def ptMul (z : Point) (wr wi : Val) : Point :=
  let bad := z.re.bad || z.im.bad
  { re := comp (addVal .rne (mulVal z.re.val wr).1 (mulVal z.im.val wi).1.neg).1 bad
    im := comp (addVal .rne (mulVal z.re.val wi).1 (mulVal z.im.val wr).1).1 bad }

/-- TW of R352. -/
def ptTwiddle (inverse : Bool) (z : Point) (e n : Nat) : Point :=
  let c := fp32.decode (trigConst false e n).toNat
  let s := fp32.decode (trigConst true e n).toNat
  ptMul z c (if inverse then s else s.neg)

/-- Radix 4 of R353. -/
def radix4 (inverse half : Bool) (x0 x1 x2 x3 : Point) : List Point :=
  let u0 := ptAdd half x0 x2
  let u1 := ptAdd half x1 x3
  let u2 := ptSub half x0 x2
  let u3 := ptRot inverse (ptSub half x1 x3)
  [ptAdd half u0 u1, ptAdd half u2 u3, ptSub half u0 u1, ptSub half u2 u3]

/-- The constant c of R353. -/
def rootHalf : Val := fp32.decode 0x3F3504F3

/-- A component from an exact sum of constant multiples. -/
def comboOf (ts : List (Val × Comp)) (r : Val → Val) : Comp :=
  comp (r (ts.foldl (fun acc t => (addVal .rne acc (mulVal t.1 t.2.val).1).1)
    (match ts with | t :: _ => .num (mulVal t.1 t.2.val).1.isNeg 0 0 | [] => .num false 0 0))) (ts.any (fun t => t.2.bad))

def one : Val := .num false 1 0

/-- Both components of a combination. -/
def ptCombo (ts : List (Val × Point)) (r : Val → Val) : Point :=
  { re := comboOf (ts.map (fun t => (t.1, t.2.re))) r, im := comboOf (ts.map (fun t => (t.1, t.2.im))) r }

/-- A - iB and A + iB of R354: `sub` gives (A.re + B.im, A.im - B.re). -/
def ptPair (sub : Bool) (a b : Point) (r : Val → Val) : Point :=
  if sub then { re := comboOf [(one, a.re), (one, b.im)] r, im := comboOf [(one, a.im), (one.neg, b.re)] r }
  else { re := comboOf [(one, a.re), (one.neg, b.im)] r, im := comboOf [(one, a.im), (one, b.re)] r }

/-- A constant of R354. -/
def trigVal (sine : Bool) (j n : Nat) : Val := fp32.decode (trigConst sine j n).toNat

/-- Radix 3 of R354, `r` being RNDs. -/
def radix3 (inverse : Bool) (r : Val → Val) (x0 x1 x2 : Point) : List Point :=
  let id_ : Val → Val := id
  let p := ptAdd false x1 x2
  let q := ptSub false x1 x2
  let m := ptCombo [(one, x0), (halfVal one.neg, p)] id_
  let v := ptCombo [(trigVal true 1 3, q)] id_
  let y0 := ptCombo [(one, x0), (one, p)] r
  let y1 := ptPair true m v r
  let y2 := ptPair false m v r
  if inverse then [y0, y2, y1] else [y0, y1, y2]

/-- Radix 5 of R354. -/
def radix5 (inverse : Bool) (r : Val → Val) (x0 x1 x2 x3 x4 : Point) : List Point :=
  let id_ : Val → Val := id
  let ca := trigVal false 1 5
  let cb := trigVal false 2 5
  let sa := trigVal true 1 5
  let sb := trigVal true 2 5
  let p1 := ptAdd false x1 x4
  let p2 := ptAdd false x2 x3
  let q1 := ptSub false x1 x4
  let q2 := ptSub false x2 x3
  let y0 := ptCombo [(one, x0), (one, ptAdd false p1 p2)] r
  let a1 := ptCombo [(one, x0), (ca, p1), (cb, p2)] id_
  let a2 := ptCombo [(one, x0), (cb, p1), (ca, p2)] id_
  let b1 := ptCombo [(sa, q1), (sb, q2)] id_
  let b2 := ptCombo [(sb, q1), (sa.neg, q2)] id_
  let y1 := ptPair true a1 b1 r
  let y4 := ptPair false a1 b1 r
  let y2 := ptPair true a2 b2 r
  let y3 := ptPair false a2 b2 r
  if inverse then [y0, y4, y3, y2, y1] else [y0, y1, y2, y3, y4]

/-- The butterfly of a radix (R353, R354). `scale` is SCALE. -/
def butterfly (inverse : Bool) (scale rho : Nat) (x : List Point) : List Point :=
  let z : Point := { re := { x := 0, bad := false }, im := { x := 0, bad := false } }
  let a (i : Nat) : Point := x.getD i z
  let half := scale != 0
  let r (v : Val) : Val := if scale = 2 then overVal rho v else v
  match rho with
  | 2 => [ptAdd half (a 0) (a 1), ptSub half (a 0) (a 1)]
  | 3 => radix3 inverse r (a 0) (a 1) (a 2)
  | 4 => radix4 inverse half (a 0) (a 1) (a 2) (a 3)
  | 5 => radix5 inverse r (a 0) (a 1) (a 2) (a 3) (a 4)
  | _ =>
    let g (q : Nat) : Point := ptAdd half (a q) (a (q + 4))
    let h (q : Nat) : Point := ptSub half (a q) (a (q + 4))
    let im := if inverse then rootHalf else rootHalf.neg
    let ev := radix4 inverse half (g 0) (g 1) (g 2) (g 3)
    let od := radix4 inverse half (h 0) (ptMul (h 1) rootHalf im) (ptRot inverse (h 2)) (ptMul (h 3) rootHalf.neg im)
    (upTo 4).flatMap (fun i => [ev.getD i z, od.getD i z])

/-- The digit reversal of R351, over the radices and the points that are left. -/
def digitRev : List Nat → Nat → Nat → Nat
  | [], _, _ => 0
  | r :: rs, n, k => k % r * (n / r) + digitRev rs (n / r) (k / r)

/-- Stage `st` of a plan on one row (R351). -/
def fftStage (plan : BitVec 64) (st : Nat) (row : List Point) : List Point :=
  let rs := ffRadices plan
  let n := ffN plan
  let inv := ffDir plan
  let rho := rs.getD (st - 1) 1
  let l := n / (rs.take (st - 1)).foldl (fun a b => a * b) 1
  let m := l / rho
  let z : Point := { re := { x := 0, bad := false }, im := { x := 0, bad := false } }
  let permute (a : List Point) : List Point := (upTo n).map (fun k => a.getD (digitRev rs n k) z)
  let a := if st = 1 ∧ ffIord plan = true then permute row else row
  let out := (upTo n).map (fun i =>
    let b := i / l * l
    let j := i % l % m
    let p := i % l / m
    let y := (butterfly inv (ffScale plan) rho ((upTo rho).map (fun q => a.getD (b + j + q * m) z))).getD p z
    if j * p = 0 then y else ptTwiddle inv y (j * p) l)
  if st = rs.length ∧ ffOord plan = false then permute out else out

/-- A stage of `mfft` on the named rows of a tile. -/
def fftTile (plan rowsWord : BitVec 64) (st : Nat) (t : TileState) : TileState :=
  let n := ffN plan
  let at_ (i : Nat) : Comp := { x := t.word i, bad := t.bad i }
  let rows := (upTo (ffRows rowsWord)).map (fun r => fftStage plan st ((upTo n).map (fun j =>
    let w := 2 * ((ffFrow rowsWord + r) * n + j)
    ({ re := at_ w, im := at_ (w + 1) } : Point))))
  let z : Point := { re := { x := 0, bad := false }, im := { x := 0, bad := false } }
  let lo := 2 * ffFrow rowsWord * n
  let new (i : Nat) : Comp :=
    if i < lo ∨ 2 * (ffFrow rowsWord + ffRows rowsWord) * n ≤ i then at_ i else
    let p := (rows.getD ((i - lo) / (2 * n)) []).getD ((i - lo) / 2 % n) z
    if i % 2 = 0 then p.re else p.im
  { t with
    kind := 1, tset := false
    words := wordsFrom 0 (fun i => BitVec.ofNat 32 (new i).x)
    poison := wordsFrom false (fun i => (new i).bad) }

/-! ## Adapters (R336 to R339) -/

/-- The adapter record's fields (R336). -/
def arAlpha (r : BitVec 2048) : Nat := recBits r 0 0 32
def arRank (r : BitVec 2048) : Nat := recBits r 4 4 7
def arEnc (r : BitVec 2048) : Nat := recBits r 4 0 4
def arKdim (r : BitVec 2048) : Nat := recBits r 8 0 32
def arNdim (r : BitVec 2048) : Nat := recBits r 12 0 32
def arDown (r : BitVec 2048) (slot : Nat) : Nat := recBits r (0x10 + 16 * slot) 0 64
def arUp (r : BitVec 2048) (slot : Nat) : Nat := recBits r (0x18 + 16 * slot) 0 64

/-- The rows of the down matrix and columns of the up matrix that a command starts at. -/
def MatCmd.downRow (c : MatCmd) : Nat := 32 * mcAkoff c.ctl
def MatCmd.upCol (c : MatCmd) : Nat := 64 * mcAnoff c.ctl
def MatCmd.kTotal (c : MatCmd) : Nat := c.steps * mcKstep c.ctl

/-- The record is bad for a command (R336). -/
def MatCmd.badRecord (c : MatCmd) (r : BitVec 2048) : Bool :=
  let slot := mcAslot c.ctl
  recBits r 4 31 1 == 0 || recBits r 4 11 20 != 0 || arRank r == 0 || decide (64 < arRank r) || !([1, 2, 3].contains (arEnc r)) ||
  [arDown r slot, arUp r slot].any (fun a => a == 0 || a % 16 != 0) ||
  decide (arKdim r < c.downRow + c.kTotal) || decide (arNdim r < c.upCol + c.rows true)

/-- The address of a row's record. -/
def recordAddr (table : Nat) (id : BitVec 16) : Nat := (table + 256 * id.toNat) % 2 ^ 64

/-- The bytes of the matrices that a command uses, given a good record: address and length. -/
def MatCmd.pairRanges (c : MatCmd) (r : BitVec 2048) : List (Nat × Nat) :=
  let w := encBits (arEnc r) / 8
  let slot := mcAslot c.ctl
  (arDown r slot + c.downRow * arRank r * w, c.kTotal * arRank r * w) ::
    (upTo (arRank r)).map (fun j => (arUp r slot + (j * arNdim r + c.upCol) * w, c.rows true * w))

/-- The adapter-cache entry of a row's pair (R338). -/
def Context.pair (x : Context) (p : Pack) (c : MatCmd) (id : BitVec 16) : Option AdPair :=
  x.adCache.find? (fun e => e.cluster == clusterOf c.core && e.table == pktAdaptt p.pkt && e.id == id && e.slot == mcAslot c.ctl)

/-- A byte that an entry holds, with its poison, as a use finds it. -/
def AdPair.byte (e : AdPair) (va : Nat) : Option (BitVec 8 × Bool) :=
  (Map.get none e.bytes (va % 2 ^ 64)).map (fun b => (b.1, b.2 || Strike.fatal (Map.get none e.strikes (va % 2 ^ 64 / 32))))

/-- An entry whose errors a use has found: they have poisoned their granules (R390, R392). -/
def AdPair.found (e : AdPair) : AdPair :=
  if e.strikes.isEmpty then e else
  { e with bytes := e.bytes.map (fun b => (b.1, b.2.map (fun y => (y.1, y.2 || Strike.fatal (Map.get none e.strikes (b.1 / 32)))))), strikes := [] }

/-- The bytes of a range in an entry, if it holds them all. -/
def AdPair.range (e : AdPair) (va n : Nat) : Option (List (BitVec 8)) :=
  ((upTo n).map (fun i => e.byte (va + i))).foldr (fun b acc => match b, acc with
    | some v, some l => some (v.1 :: l)
    | _, _ => none) (some [])

/-- The record that an entry holds. -/
def AdPair.record (e : AdPair) (p : Pack) : Option (BitVec 2048) :=
  (e.range (recordAddr (pktAdaptt p.pkt) e.id) 256).map (recOf 2048)

/-- The pair of a row is present: its record, and where that is good every byte of the matrices that the command uses. -/
def Context.present (x : Context) (p : Pack) (c : MatCmd) (id : BitVec 16) : Bool :=
  match x.pair p c id with
  | none => false
  | some e =>
    match e.record p with
    | none => false
    | some r => c.badRecord r || (c.pairRanges r).all (fun a => (upTo a.2).all (fun i => (e.byte (a.1 + i)).isSome))

/-- The rows whose pairs are absent. -/
def Context.absentRows (x : Context) (p : Pack) (c : MatCmd) : List Nat :=
  (upTo c.ids.length).filter (fun m => c.ids.getD m 0 != 0 && !x.present p c (c.ids.getD m 0))

/-- The command has an adapter phase. -/
def MatCmd.adapts (c : MatCmd) : Bool := c.ids.any (fun i => i != 0)

/-- A code of a pair's matrix. -/
def AdPair.elem (e : AdPair) (enc va : Nat) : Val :=
  let w := encBits enc / 8
  encVal enc (leNat ((upTo w).map (fun i => ((e.byte (va + i)).getD (0, false)).1)))

/-- x_k of R337, in chunks, with its poison: A less its zero points times its scales, over all steps. -/
def State.adapterRow (s : State) (p : Pack) (c : MatCmd) (m l : Nat) : List (List Val × Bool) :=
  (upTo c.steps).flatMap (fun st => (s.rowChunks p c false st m l).map (fun k => (k.vals.map (fun v => (mulVal v k.scale).1), k.bad)))

/-- h and then the deltas of a row (R337), for column `n`. -/
def adapterH (mode : Mode) (c : MatCmd) (r : BitVec 2048) (e : AdPair) (l : Nat) (xs : List (List Val)) (j : Nat) : Val :=
  let w := encBits (arEnc r) / 8
  let down (k : Nat) : Val := e.elem (arEnc r) (arDown r (mcAslot c.ctl) + ((k + c.downRow) * arRank r + j) * w)
  bf16.decode (bf16.rne (fp32.decode ((xs.zip (upTo xs.length)).foldl (fun f x =>
    accum mode f (dot x.1 ((upTo l).map (fun i => down (x.2 * l + i))))) 0)))

def adapterDelta (nbv : Nat) (c : MatCmd) (r : BitVec 2048) (e : AdPair) (hs : List Val) (n : Nat) : Val :=
  let w := encBits (arEnc r) / 8
  let k := if nbv = 1 then 16 else 32
  let up (j : Nat) : Val := e.elem (arEnc r) (arUp r (mcAslot c.ctl) + (j * arNdim r + n + c.upCol) * w)
  let g := (upTo ((arRank r + k - 1) / k)).foldl (fun g q =>
    accum (accMode nbv) g (dot ((hs.drop (q * k)).take k) ((upTo k).map (fun i => up (q * k + i))))) 0
  fp32.decode (fp32.rne (mulVal (fp32.decode (arAlpha r)) (fp32.decode g)).1)

/-- A byte of ranges that an entry holds is poison. -/
def AdPair.poisoned (e : AdPair) (rs : List (Nat × Nat)) : Bool :=
  rs.any (fun a => (upTo a.2).any (fun i => ((e.byte (a.1 + i)).getD (0, false)).2))

/-- The adapter phase (R337, R338): the tile, and the first row whose record is bad (R339). A poisoned byte, of a record or of the row's
operands too (R334), poisons the row's accumulators, and such a record is no bad one. -/
def State.adapterPhase (s : State) (p : Pack) (x : Context) (c : MatCmd) (t : TileState) : TileState × Option Nat :=
  let nbv := pktNbv p.pkt
  let l := chunkLen nbv c.fA c.fB
  let mode := accMode nbv
  let n := c.rows true
  let row (m : Nat) : Option (AdPair × BitVec 2048) :=
    if c.ids.getD m 0 = 0 then none else
    (x.pair p c (c.ids.getD m 0)).bind (fun e => (e.record p).map (fun r => (e, r)))
  let deltas : List (Option (List Val) × Bool) := (upTo c.ids.length).map (fun m =>
    match row m with
    | some (e, r) =>
      let bad := e.poisoned ((recordAddr (pktAdaptt p.pkt) e.id, 256) :: (if c.badRecord r then [] else c.pairRanges r))
      if c.badRecord r then (none, bad) else
      let xs := s.adapterRow p c m l
      let hs := (upTo (arRank r)).map (adapterH mode c r e l (xs.map (fun k => k.1)))
      (some ((upTo n).map (adapterDelta nbv c r e hs)), bad || xs.any (fun k => k.2))
    | none => (none, false))
  let out (i : Nat) : BitVec 32 × Bool :=
    match deltas.getD (i / n) (none, false) with
    | (some d, bad) =>
      (BitVec.ofNat 32 (fp32.round mode (addVal mode (fp32.decode (t.word i)) (d.getD (i % n) (.num false 0 0))).1).1, t.bad i || bad)
    | (none, bad) => (BitVec.ofNat 32 (t.word i), t.bad i || bad)
  ({ t with words := wordsFrom 0 (fun i => (out i).1), poison := wordsFrom false (fun i => (out i).2) },
    (upTo c.ids.length).find? (fun m => match row m with
      | some (e, r) => c.badRecord r && !e.poisoned [(recordAddr (pktAdaptt p.pkt) e.id, 256)]
      | none => false))

/-- The ADAPT fault of a row's bad record, held pending in the issuing warp (R339). -/
def State.holdAdapt (s : State) (p : Pack) (c : MatCmd) (m : Nat) : State :=
  s.modWarp c.pack c.warp (fun w => w.hold
    { seq := match w.flight.find? (fun f => f.kind == .engine c.tag) with | some f => f.id | none => s.flightSeq
      cause := .adapt, addr := BitVec.ofNat 64 (recordAddr (pktAdaptt p.pkt) (c.ids.getD m 0)), pc := c.pc, regs := [],
      kreg := none, waitPath := some .math, onRelease := false, batchCmd := c.batch.map (fun b => b.toNat),
      mathNo := some c.no, onAny := false })

/-- The errors of the entries that a command's adapter phase uses are found, each once (R392, R412). -/
def State.foundPairs (s : State) (p : Pack) (x : Context) (c : MatCmd) : State :=
  let used := (c.ids.filterMap (fun id => if id = 0 then none else x.pair p c id)).eraseDups
  if used.all (fun e => e.strikes.isEmpty) then s else
  (s.countSram (used.flatMap (fun e => e.strikes.map (fun k => k.2)))).modCtx c.ctx (fun y =>
    { y with adCache := y.adCache.map (fun e => if used.contains e then e.found else e) })

/-- The replacement of the adapter cache is not architected (R338): when a command looks its rows up, any pair may be
absent. -/
def State.lookUp (s : State) (p : Pack) (c : MatCmd) : State :=
  if c.stepsDone ≠ 0 ∨ c.adapts = false then s else
  let gone (m : Nat) : Bool := Config.freeChoice (s.fresh * 512 + m) % 2 == 1
  let ids := ((upTo c.ids.length).filter gone).map (fun m => c.ids.getD m 0)
  { s.modCtx c.ctx (fun x => { x with adCache := x.adCache.filter (fun e =>
      !(e.cluster == clusterOf c.core && e.table == pktAdaptt p.pkt && e.slot == mcAslot c.ctl && ids.contains e.id)) })
    with fresh := s.fresh + 1 }

/-! ## Steps and credit (R328, R344, R345) -/

/-- The credit of a core. -/
def State.creditOf (s : State) (core : Nat) : Int := (s.core core).credit.getD s.mgmt.credit

/-- The steps a command takes in all, its adapter phase among them. -/
def MatCmd.total (c : MatCmd) : Nat := c.steps + (if c.adapts then 1 else 0)

/-- The next step of a command may start: it is the oldest of its warp's queue, no earlier command of its pack on its tile is
uncompleted (R324), its pack runs, no halt stops the engine, and the adapter phase has its pairs. -/
def State.mayStep (s : State) (core : Nat) (older : List MatCmd) (c : MatCmd) : Bool :=
  !older.any (fun d => d.pack == c.pack && (d.warp == c.warp || d.tile == c.tile)) &&
  (match s.pack? c.pack, s.ctx? c.ctx with
   | some p, some x => p.status == .running && p.core == core && !x.unitClosing 2 core &&
      (decide (c.stepsDone < c.steps) || (x.absentRows p c).isEmpty)
   | _, _ => false)

/-- The candidates of R345, oldest first. -/
def State.candidates (s : State) (core : Nat) : List MatCmd → List MatCmd → List MatCmd
  | _, [] => []
  | older, c :: cs =>
    (if s.mayStep core older c then [c] else []) ++ s.candidates core (older ++ [c]) cs

/-- The grant (R345): passed over 8 times first, else the least charge, and the oldest of those. -/
def grantOf (cs : List MatCmd) : Option MatCmd :=
  match cs.find? (fun c => decide (8 ≤ c.passed)) with
  | some c => some c
  | none => cs.foldl (fun acc c => match acc with
      | none => some c
      | some d => if c.charge < d.charge then some c else some d) none

/-- The commands of a core after a grant: those older than it among the candidates were passed over. -/
def passOver (cs : List MatCmd) (g : MatCmd) (l : List MatCmd) : List MatCmd :=
  l.map (fun c =>
    if c.tag = g.tag then { c with passed := 0 }
    else if cs.any (fun d => d.tag == c.tag) = true ∧ c.tag < g.tag then { c with passed := c.passed + 1 } else c)

/-- The words of its tile that a command's next step reads; a step that reads none writes them all. -/
def MatCmd.stepWords (c : MatCmd) (t : TileState) (i : Nat) : Bool :=
  match c.op with
  | .mloop | .mstep => !(c.stepsDone == 0 && (mcAcc c.ctl == 0 || t.kind == 0))
  | .mtst => true
  | .mfft => decide (2 * ffFrow c.a1 * ffN c.a ≤ i) && decide (i < 2 * (ffFrow c.a1 + ffRows c.a1) * ffN c.a)
  | .mzero | .mtld | .mtwid => false

/-- The ranges of the window that a command's next step reads (R331, R332, R337, R348). -/
def MatCmd.stepReads (c : MatCmd) : List (Nat × Nat) :=
  let operand (b : Bool) (step : Nat) : List (Nat × Nat) :=
    ((c.stepBases b).getD step 0, c.stepBytes b) ::
      (c.arrays b).map (fun r => (r.1 + step * (r.2 / c.steps), r.2 / c.steps))
  match c.op with
  | .mloop | .mstep =>
    if c.stepsDone < c.steps then operand false c.stepsDone ++ operand true c.stepsDone
    else (upTo c.steps).flatMap (operand false)
  | .mtld =>
    let half := moveHalf (mvEnc c.ctl)
    if mvShape c.ctl = 3 then [(c.a.toNat, mvWords c.ctl * half / 2)]
    else (upTo (shapeM (mvShape c.ctl))).map (fun i => (c.a.toNat + i * mvPitch c.ctl, shapeN (mvShape c.ctl) * half / 2))
  | _ => []

/-- What a command's next step does to its tile, and to the state. -/
def State.stepTile (s0 : State) (p : Pack) (x : Context) (c : MatCmd) (t0 : TileState) : State × TileState :=
  let s := (s0.countTile t0 (c.stepWords t0)).detectWindow p c.stepReads
  let t := if c.op = .mzero ∨ c.op = .mtld ∨ c.op = .mtwid then { t0 with strikes := [] } else t0.found (c.stepWords t0)
  match c.op with
  | .mloop | .mstep =>
    if c.stepsDone < c.steps then
      (s, s.loopStep p c (if c.stepsDone = 0 then c.opening t else t))
    else
      let (u, bad) := s.adapterPhase p x c t
      let s1 := s.foundPairs p x c
      (match bad with | some m => s1.holdAdapt p c m | none => s1, u)
  | .mzero => (s, {})
  | .mtld => (s, s.loadTile p c t)
  | .mtst => (s.storeTile p c t, t)
  | .mfft => (s, fftTile c.a c.a1 (ffFirst c.a + c.stepsDone) t)
  | .mtwid => (s, { c.leaves t with words := wordsFrom 0 (twidWord c.a.toNat), poison := [] })

/-- A fill of a command has made a request. -/
def MatCmd.owns (c : MatCmd) : Requester → Bool
  | .engine k => engineCore k == c.core && engineTag k == c.tag
  | .warp _ _ => false

/-- A command completes (R156, R324): its locks are freed and MATH falls. -/
def State.finishMat (s : State) (c : MatCmd) : Res State := do
  match ← (s.closeRequests (fun _ => false) (fun q => c.owns q.owner)).signal c.core c.ctx c.pack c.warp c.tag (some .math) 0 0 0 with
  | some t => .ok (t.modCore c.core (fun k => { k with mats := k.mats.filter (fun d => d.tag != c.tag) }))
  | none => .ok s

/-- MATRIX_STEP (R345): the engine of a core grants and performs one step where credit allows (R344). -/
def execMatrixStep (core : Nat) (s : State) : Host.Outcome State Fault Refusal :=
  let all := (s.core core).mats
  let cs := s.candidates core [] all
  if s.creditOf core ≤ 0 then .next s else
  match grantOf cs with
  | none => .next s
  | some c =>
    match s.pack? c.pack, s.ctx? c.ctx with
    | some p, some x =>
      s.eventOut (do
        let (phys, t) ← s.tileOf p c.tile
        let charge : Int := if c.stepsDone < c.steps then c.charge else 0
        let s1 := (s.lookUp p c).modCore core (fun k => { k with
          mats := (passOver cs c all).map (fun d => if d.tag = c.tag then { d with stepsDone := d.stepsDone + 1 } else d)
          credit := some (s.creditOf core - charge) })
        let (s2, u) := s1.stepTile p x c t
        let s3 := s2.putTile p c.tile phys u
        if c.stepsDone + 1 = c.total then s3.finishMat c else .ok s3)
    | _, _ => .next s

/-- The addresses that a row's fill reads (R338, R340): the record, and once that is there the matrices that it names too, with all that
the entry holds for other commands, so that the entry is one reading of the pair. -/
def MatCmd.wanted (c : MatCmd) (x : Context) (p : Pack) (id : BitVec 16) : List Nat :=
  let addrs (r : Nat × Nat) : List Nat := (upTo r.2).map (fun i => (r.1 + i) % 2 ^ 64)
  let first := (recordAddr (pktAdaptt p.pkt) id, 256)
  match x.pair p c id with
  | none => addrs first
  | some e =>
    match e.record p with
    | none => addrs first
    | some r =>
      let rs := first :: c.pairRanges r
      rs.flatMap addrs ++
        (e.bytes.map (fun b => b.1)).filter (fun a => !rs.any (fun r => decide ((a + 2 ^ 64 - r.1 % 2 ^ 64) % 2 ^ 64 < r.2)))

/-- The homes of the bytes that a fill reads, as plain reads at device scope. -/
def State.fillPlaces (s : State) (x : Context) : List Nat → Res (List (Nat × Place))
  | [] => .ok []
  | va :: rest => do
    let (_, pl) ← s.translate x .load va
    .ok ((va, pl) :: (← s.fillPlaces x rest))

/-- The bytes of a fill with their poison: those at peers come with the reply, and a peer's refusal is a fault (R291). -/
def State.fillBytes (s : State) (reply : RemoteReply) (asks : List Ask) :
    List (Nat × Place) → List (BitVec 8) → Res (List (Nat × BitVec 8 × Bool))
  | [], _ => .ok []
  | (va, .peer q pva) :: rest, data =>
    match askStatus reply asks q pva false with
    | .fabric => raiseAt .fabric va
    | st => do .ok ((va, if st = .ok then (data.headD 0, false) else (0, true)) :: (← s.fillBytes reply asks rest (data.drop 1)))
  | (va, pl) :: rest, data => do .ok ((va, s.homeByte pl, s.homeBad pl) :: (← s.fillBytes reply asks rest data))

/-- The entry of a pair as one fill has read it (R340): where the record is no longer the one that named the matrices, only the record. -/
def Context.fillPair (x : Context) (p : Pack) (c : MatCmd) (id : BitVec 16) (bs : List (Nat × BitVec 8 × Bool)) : Context :=
  let bytes (l : List (Nat × BitVec 8 × Bool)) : Map (Option (BitVec 8 × Bool)) := l.foldl (fun acc b => Map.set none acc b.1 (some b.2)) []
  let entry (m : Map (Option (BitVec 8 × Bool))) : AdPair :=
    { cluster := clusterOf c.core, table := pktAdaptt p.pkt, id := id, slot := mcAslot c.ctl, bytes := m }
  match x.pair p c id with
  | some e =>
    let new := entry (bytes bs)
    let kept := if new.record p = e.record p then new else entry (bytes (bs.take 256))
    { x with adCache := x.adCache.map (fun f => if f = e then kept else f) }
  | none => { x with adCache := x.adCache ++ [entry (bytes bs)] }

/-- ADAPTER_FILL_ARRIVAL (R338): the record of a row, or once that is there the whole pair, arrives, what lies at peers being asked of
them first (R309); a fault is posted and the fill waits for its answer (R291). -/
def execAdapterFillArrival (core tag row : Nat) (reply : RemoteReply) (s : State) : Host.Outcome State Fault Refusal :=
  s.whenLost reply (fun t => match (t.core core).mats.find? (fun c => c.tag == tag) with
  | none => .next t
  | some c =>
    match t.pack? c.pack, t.ctx? c.ctx with
    | some p, some x =>
      if !(x.absentRows p c).contains row || c.stepsDone == 0 || x.unitClosing 2 core ||
        x.faults.any (fun f => f.engine == 3 && f.tag == tag && f.core == core) then .next t else
      let id := c.ids.getD row 0
      let fault (u : State) (cause : Cause) (va : BitVec 64) : Res State := do
        match ← u.postFault c.ctx va cause 3 tag core false false with
        | some (v, _) => .ok v
        | none => .ok u
      match caught (t.fillPlaces x (c.wanted x p id)) with
      | .error e => t.eventOut (.error e)
      | .ok (.error (cause, va)) => t.eventOut (fault t cause va)
      | .ok (.ok ps) =>
        let chunks := ps.filterMap (fun a => match a.2 with | .peer q va => some (q, va, 1) | _ => none)
        let asks := asksOf false chunks
        if t.atomicHeldAt (ps.map (fun a => a.2)) then .next t else
        t.askTurn (.engine (fillKey core tag row)) (descFctx x.desc) (fun _ => .plain) asks chunks.length reply (fun u => u.eventOut (do
          match ← caught (u.fillBytes reply asks ps (replyBytes reply)) with
          | .ok bs => .ok ((u.detect (ps.map (fun a => a.2))).modCtx c.ctx (fun y => y.fillPair p c id bs))
          | .error (cause, va) => fault u cause va))
    | _, _ => .next t)

/-- CREDIT_REFILL (R344): CR := min(CR + BUDGET, BUDGET) in every core, BUDGET being EBUDGET (R411); THROTTLE counts a period
in which a core had CR at or below zero. -/
def execCreditRefill (s : State) : Host.Outcome State Fault Refusal :=
  let b : Int := s.mgmt.ebudget.toNat
  let low := (upTo 336).any (fun c => decide (s.creditOf c ≤ 0))
  .next { s with
    cores := s.cores.foldl (fun m k => Map.set {} m k.1
      { k.2 with credit := (k.2.credit.map (fun c => min (c + b) b)) }) s.cores
    mgmt := { s.mgmt with credit := min (s.mgmt.credit + b) b, throttle := s.mgmt.throttle + (if low then 1 else 0) } }

end Sys2Proof.Machine
end

