-- ==== Sys2Proof/Machine/Record.lean ====
section
/-! DEFINITION. What the part reads for a pack (R139, R325), and context records (R384 to R389): their layout, saving a pack
to its record, moving its scratchpad and tiles there (R45, R372), and restoring it. -/

namespace Sys2Proof.Machine

/-! ## Tables that the part reads at dispatch and at resume -/

/-- The view table (R139): a record that cannot be read is not valid. -/
def State.readViews (s : State) (x : Context) (ptr : Nat) : Res (List (BitVec 320)) :=
  (upTo 32).mapM (fun i => do
    match ← caught (s.partRead x ((ptr + 40 * i) % 2 ^ 64) 40) with
    | .ok bs => .ok (recOf 320 bs)
    | .error _ => .ok 0)

/-- The format table (R325): an entry that cannot be read, or that R110 or R111 does not allow, is not valid. -/
def State.readFormats (s : State) (x : Context) (pkt : BitVec 2048) : Res (List (Option (BitVec 128))) :=
  (upTo 16).mapM (fun i => do
    if pktFmtt pkt = 0 then .ok none else
    match ← caught (s.partRead x ((pktFmtt pkt + 16 * i) % 2 ^ 64) 16) with
    | .ok bs => .ok (let b : BitVec 128 := recOf 128 bs; if fmtBlockOk (pktWindow pkt) b then some b else none)
    | .error _ => .ok none)

/-! ## A record in the park area (R385) -/

/-- The spans of a view table and of a format table, as the part reads them. -/
def tableSpans (viewt fmtt : Nat) : List (Nat × Nat) :=
  (upTo 32).map (fun i => ((viewt + 40 * i) % 2 ^ 64, 40)) ++
    (if fmtt = 0 then [] else (upTo 16).map (fun i => ((fmtt + 16 * i) % 2 ^ 64, 16)))

/-- A file of `n` entries from a function, in canonical form. -/
def fileFrom {α : Type} [DecidableEq α] (d : α) (n : Nat) (f : Nat → α) : Map α :=
  (upTo n).filterMap (fun i => if f i = d then none else some (i, f i))

/-- The places of the 64 KiB frames of a record slot, with the causes of R135. -/
def State.recordFrames (s : State) (x : Context) (slot : Nat) (use : Use) : Res (List Place) :=
  (upTo 80).mapM (fun i => do
    let va := (recordBase x slot + 65536 * i) % 2 ^ 64
    let t ← s.page x va
    if use = .store ∧ leafW t.leaf = false then raiseAt .prot va else
    match pagePlace t va with
    | some p => .ok p
    | none => raiseAt .fabric va)

/-- The place of a byte of a record. -/
def framePlace (fs : List Place) (off : Nat) : Place := (fs.getD (off / 65536) (.host 0)).plus (off % 65536)

/-- A read of `n` bytes of a record, from an offset, finds the errors of their granules (R392). -/
def State.detectRecord (s : State) (fs : List Place) (off n : Nat) : State :=
  if s.strikes.isEmpty then s else
  (upTo ((off % 32 + n + 31) / 32)).foldl (fun t g => t.detect1 (framePlace fs (off / 32 * 32 + 32 * g))) s

/-- Part of a record: its offset, its bytes, and the offsets of those that carry poison. -/
structure RecPart where
  off   : Nat
  bytes : List (BitVec 8)
  bad   : List Nat := []

/-- Write parts of a record; poison is written as poison. -/
def State.writeParts (s : State) (fs : List Place) (ps : List RecPart) : State :=
  let s1 := s.writeAll (ps.flatMap (fun r => wholeBytes r.off ((upTo r.bytes.length).map (fun i => framePlace fs (r.off + i))) r.bytes))
  ps.foldl (fun t r => r.bad.foldl (fun u o => u.setBad (framePlace fs o) true) t) s1

/-- A number of `n` bytes at an offset of a record. -/
def State.recNum (s : State) (fs : List Place) (off n : Nat) : Nat :=
  leNat ((upTo n).map (fun i => s.readPlace (framePlace fs (off + i))))

/-! ## The layout (R386 to R388) -/

/-- A register file of words as bytes. -/
def wordsBytes (n : Nat) (f : Nat → Nat) : List (BitVec 8) := (upTo n).flatMap (fun i => leBytes 4 (f i))

/-- The code of register `n` of the poison tags: o0 to o15, then v0 to v95 (R388). -/
def tagReg (n : Nat) : Nat := if n < 16 then 0x60 + n else n - 16

/-- A warp's region: epilogue warps have more fields, at other offsets (R388). -/
def warpParts (w : Warp) : List (Nat × List (BitVec 8)) :=
  let epi := w.role == .epilogue
  let pick (a b : Nat) : Nat := if epi then b else a
  let state := (if w.live = 0 then 1 else 0) + (if w.block.isSome || w.parkHeld then 2 else 0)
  let pend : List (BitVec 8) := match w.pending with
    | f :: _ => leBytes 8 (causeCode f.cause) ++ leBytes 8 f.addr.toNat ++ leBytes 16 f.pc.toNat
    | [] => leBytes 32 0
  [(0, leBytes 8 w.pc.toNat ++ leBytes 8 state),
   (pick 0x010 0x018, leBytes 4 w.repc.toNat ++ leBytes 4 w.depth.toNat),
   (pick 0x018 0x028, leBytes 8 w.c.toNat),
   (pick 0x020 0x030, leBytes 8 (infltOf w)),
   (0x040, leBytes 8 w.xpc.toNat ++ leBytes 8 w.xcause.toNat ++ leBytes 8 w.xaddr.toNat ++ leBytes 8 w.xinfo.toNat),
   (0x060, pend),
   (0x080, leBytes 8 w.xscr0.toNat ++ leBytes 8 w.xscr1.toNat),
   (pick 0x0C0 0x100, (upTo 64).flatMap (fun i => leBytes 8 (w.kreg i).toNat)),
   (pick 0x2C0 0x300, (upTo 32).flatMap (fun i =>
      let e := Map.get {} w.stack i
      leBytes 8 e.addr.toNat ++ leBytes 4 e.mask.toNat ++ leBytes 4 (match e.kind with | .pending => 1 | .rejoin => 0)))] ++
  (if epi then
    [(0x010, leBytes 4 w.exec.toNat ++ leBytes 4 w.live.toNat),
     (0x020, leBytes 4 w.fpmode.toNat ++ leBytes 4 w.fpflags.toNat),
     (0x0A0, wordsBytes 8 (fun i => (w.preg i).toNat)),
     (0x0C0, (upTo 16).flatMap (fun i => leBytes 2 (Map.get 0 w.codebook i).toNat)),
     (0x500, wordsBytes 112 (fun n => ((upTo 32).map (fun l => if Map.get false w.tags (tagReg n * 32 + l) then 2 ^ l else 0)).sum)),
     (0x700, (upTo 112).flatMap (fun n =>
        let o := Map.get {} w.origins (tagReg n)
        leBytes 8 o.addr.toNat ++ leBytes 8 o.pc.toNat)),
     (0x1000, wordsBytes 512 (fun i => (w.vreg (0x60 + i / 32) (i % 32)).toNat)),
     (0x1800, wordsBytes 3072 (fun i => (w.vreg (i / 32) (i % 32)).toNat))]
   else [(0x028, leBytes 8 w.batch.toNat ++ leBytes 8 w.adrv.toNat ++ leBytes 8 w.lastEst.toNat)])

/-- Where a warp's region begins (R386). -/
def warpBase (w : Warp) : Nat :=
  match w.role with
  | .copy => 0x8000
  | .maths => 0x8000 + 2048 * (1 + w.num)
  | .epilogue => 0x20000 + 20480 * w.num

/-- The warp that a region holds, over what the record does not hold (R388). -/
def restoreWarp (num : Nat → Nat → Nat) (w : Warp) : Warp :=
  let epi := w.role == .epilogue
  let at_ (off n : Nat) : Nat := num (warpBase w + off) n
  let pick (a b : Nat) : Nat := if epi then b else a
  let w1 : Warp := { w with
    pc := BitVec.ofNat 64 (at_ 0 8)
    repc := BitVec.ofNat 32 (at_ (pick 0x010 0x018) 4)
    depth := BitVec.ofNat 6 (at_ (pick 0x010 0x018 + 4) 4)
    c := BitVec.ofNat 8 (at_ (pick 0x018 0x028) 8)
    xpc := BitVec.ofNat 64 (at_ 0x040 8), xcause := BitVec.ofNat 64 (at_ 0x048 8)
    xaddr := BitVec.ofNat 64 (at_ 0x050 8), xinfo := BitVec.ofNat 64 (at_ 0x058 8)
    xscr0 := BitVec.ofNat 64 (at_ 0x080 8), xscr1 := BitVec.ofNat 64 (at_ 0x088 8)
    k := fileFrom 0 (kBudget w.kbud) (fun i => BitVec.ofNat 64 (at_ (pick 0x0C0 0x100 + 8 * i) 8))
    stack := fileFrom {} 32 (fun i =>
      let b := pick 0x2C0 0x300 + 16 * i
      { kind := if at_ (b + 12) 4 % 2 = 1 then .pending else .rejoin, addr := BitVec.ofNat 64 (at_ b 8), mask := BitVec.ofNat 32 (at_ (b + 8) 4) }) }
  if epi then
    let reg (c : Nat) : Nat := if c < 0x60 then 0x1800 + 128 * c else 0x1000 + 128 * (c - 0x60)
    let tagIx (c : Nat) : Nat := if c < 0x60 then c + 16 else c - 0x60
    { w1 with
      exec := BitVec.ofNat 32 (at_ 0x010 4), live := BitVec.ofNat 32 (at_ 0x014 4)
      fpmode := BitVec.ofNat 2 (at_ 0x020 4), fpflags := BitVec.ofNat 5 (at_ 0x024 4)
      p := fileFrom 0 8 (fun i => BitVec.ofNat 32 (at_ (0x0A0 + 4 * i) 4))
      codebook := fileFrom 0 16 (fun i => BitVec.ofNat 16 (at_ (0x0C0 + 2 * i) 2))
      tags := fileFrom false 3584 (fun i => at_ (0x500 + 4 * tagIx (i / 32)) 4 / 2 ^ (i % 32) % 2 == 1)
      origins := fileFrom {} 112 (fun c => { addr := BitVec.ofNat 64 (at_ (0x700 + 16 * tagIx c) 8), pc := BitVec.ofNat 64 (at_ (0x708 + 16 * tagIx c) 8) })
      v := fileFrom 0 3584 (fun i =>
        if i / 32 < 0x60 ∧ vBudget w ≤ i / 32 then 0 else BitVec.ofNat 32 (at_ (reg (i / 32) + 4 * (i % 32)) 4)) }
  else
    { w1 with
      batch := BitVec.ofNat 64 (at_ 0x028 8), adrv := BitVec.ofNat 64 (at_ 0x030 8), lastEst := BitVec.ofNat 64 (at_ 0x038 8) }

/-- A barrier entry with masks of `n` bytes (R386). -/
def barrierBytes (n : Nat) (b : Barrier) : List (BitVec 8) :=
  leBytes 2 b.expect ++ leBytes 2 b.nextdrop ++ leBytes 2 b.arrived ++ leBytes 2 (if b.closed then 1 else 0) ++
  leBytes 4 b.phase.toNat ++ leBytes 4 (intBits 32 b.txb) ++ leBytes n b.arrmask.toNat ++ leBytes n b.gone.toNat

/-- The barrier that the entry at an offset holds, its masks having `n` bytes each. -/
def restoreBarrier (num : Nat → Nat → Nat) (o n : Nat) (b : Barrier) : Barrier :=
  { b with
    expect := num o 2, nextdrop := num (o + 2) 2, arrived := num (o + 4) 2, closed := num (o + 6) 2 == 1
    phase := BitVec.ofNat 32 (num (o + 8) 4), txb := signedOf 32 (num (o + 12) 4)
    arrmask := BitVec.ofNat 512 (num (o + 16) n), gone := BitVec.ofNat 512 (num (o + 16 + n) n) }

/-- Why a record was written (R387). -/
inductive RecordWhy where
  | parked | preempted | halted
  deriving DecidableEq, Repr

/-- The context's view of a stopped engine command (R386). -/
def copyEntry (c : CopyCmd) : List (BitVec 8) :=
  leBytes 4 1 ++ leBytes 4 c.warp ++ leBytes 8 c.tag ++ leBytes 8 c.target.toNat ++ leBytes 8 c.handle.toNat ++
  leBytes 32 c.next ++ leBytes 128 c.desc.toNat
def matEntry (c : MatCmd) : List (BitVec 8) :=
  leBytes 4 2 ++ leBytes 4 c.warp ++ leBytes 8 c.tag ++ leBytes 16 0 ++ leBytes 32 c.stepsDone ++
  leBytes 8 c.a.toNat ++ leBytes 8 c.a1.toNat ++ leBytes 8 c.b.toNat ++ leBytes 8 c.b1.toNat ++ leBytes 416 c.ctl.toNat ++
  c.ids.flatMap (fun i => leBytes 2 i.toNat)

/-- A copy command that stands at a segment boundary, stopped or stalled on a fault (R291, R382); one with nothing left but its
replay goes on. -/
def CopyCmd.halted (c : CopyCmd) : Bool :=
  (match c.phase with | .stopped | .stalled _ => true | _ => false) && decide (c.next < cdElems c.desc)

/-- The stopped engine commands of a pack, in issue order. -/
def State.stopped (s : State) (p : Pack) : List (Nat × List (BitVec 8)) :=
  let k := s.core p.core
  let cs := (k.copies.filter (fun c => c.pack == p.id && c.halted)).map (fun c => (c.tag, copyEntry c))
  let ms := (k.mats.filter (fun c => c.pack == p.id)).map (fun c => (c.tag, matEntry c))
  cs ++ ms

/-- The root barriers of a pack's group: whichever of its packs stands for them (R264). -/
def State.groupRoots (s : State) (p : Pack) : List Barrier :=
  match s.rootHolder p with
  | some q => q.roots
  | none => []

/-- The header (R387), 256 bytes. `hint`: the residency hint is set; before a restore on another core it is cleared (R46, R389). -/
def recordHeader (p : Pack) (r : Record) (why : RecordWhy) (rootRec : Nat) (hint : Bool := true) : List (BitVec 8) :=
  let bit (b : Bool) (n : Nat) : Nat := if b then 2 ^ n else 0
  let mask (l : List Nat) (n : Nat) : Nat := ((upTo 8).map (fun i => bit (l.contains i) (n + i))).sum
  leBytes 8 p.lseq.toNat ++ leBytes 4 p.x ++ leBytes 2 p.y ++ leBytes 2 p.z ++
  leBytes 8 (2 + bit (why == .parked) 16 + bit (why == .preempted) 17 + bit (why == .halted) 18 + bit r.scrIn 19 + mask r.saved 20 +
    (if hint then mask r.tres 28 + bit (!r.scrIn) 36 else 0) + bit p.wake 37) ++
  leBytes 8 (if hint then 2 ^ 63 + placeBits p.core else 0) ++ leBytes 8 rootRec ++ leBytes 216 0

/-- The entries of root barriers in the rank-0 pack's record (R264, R386). -/
def rootParts (roots : List Barrier) : List RecPart :=
  (upTo roots.length).map (fun i => { off := 0xA00 + 192 * i, bytes := barrierBytes 64 (roots.getD i {}) })

/-- The parts of a record beside tiles and scratchpad. -/
def State.packParts (s : State) (x : Context) (p : Pack) (r : Record) (why : RecordWhy) : List RecPart :=
  let rootRec := if p.rank = 0 then 0 else
    match s.packs.find? (fun q => q.group == p.group && q.ctx == p.ctx && q.rank == 0) with
    | some q => (match q.record with | some t => recordBase x t.slot | none => 0)
    | none => 0
  let tiles := (s.core p.core).tiles
  [{ off := 0, bytes := recordHeader p r why rootRec },
   { off := 0x100, bytes := leBytes 256 p.pkt.toNat },
   { off := 0x1080, bytes := p.fmt.flatMap (fun f => leBytes 16 (f.getD 0).toNat) },
   { off := 0x1000, bytes := p.leashes.flatMap (fun l => leBytes 8 (l.head + l.queued * 2 ^ 8 + l.held * 2 ^ 16)) },
   { off := 0x1180, bytes := (upTo p.tiles.length).flatMap (fun i =>
      let t := match tiles.find? (fun t => t.owner == some (p.id, i)) with | some t => t.state | none => {}
      leBytes 16 (t.kind.toNat + (if t.tset then 4 else 0) + t.t.toNat * 2 ^ 32)) }] ++
  (upTo p.bars.length).map (fun i => { off := 0x200 + 64 * i, bytes := barrierBytes 8 (p.bars.getD i {}) }) ++
  (if p.rank = 0 then rootParts (s.groupRoots p) else []) ++
  p.warps.flatMap (fun w => (warpParts w).map (fun q => { off := warpBase w + q.1, bytes := q.2 })) ++
  (upTo 64).map (fun i => { off := 0x10000 + 1024 * i
                            bytes := (match (s.stopped p)[i]? with | some e => e.2 | none => leBytes 4 0) })

/-- A tile in a record, with its state (R386). -/
def tileParts (i : Nat) (t : TileState) : List RecPart :=
  [{ off := 0x110000 + 65536 * i, bytes := wordsBytes 16384 (fun j => t.word j)
     bad := (t.poison.map (fun b => 0x110000 + 65536 * i + 4 * b.1)) },
   { off := 0x1180 + 16 * i, bytes := leBytes 16 (t.kind.toNat + (if t.tset then 4 else 0) + t.t.toNat * 2 ^ 32) }]

/-- The tile that a record holds. -/
def State.recTile (s : State) (fs : List Place) (i : Nat) : TileState :=
  let h := s.recNum fs (0x1180 + 16 * i) 8
  { kind := BitVec.ofNat 2 h, tset := h / 4 % 2 == 1, t := BitVec.ofNat 32 (h / 2 ^ 32)
    words := wordsFrom 0 (fun j => BitVec.ofNat 32 (s.recNum fs (0x110000 + 65536 * i + 4 * j) 4))
    poison := wordsFrom false (fun j => s.badPlace (framePlace fs (0x110000 + 65536 * i + 4 * j))) }

/-- The scratchpad image of a pack's window. -/
def State.scratchParts (s : State) (p : Pack) : List RecPart :=
  let n := pktWindow p.pkt
  let pl (i : Nat) : Place := .scratch p.core (p.scrBase + i)
  [{ off := recScratch, bytes := (upTo n).map (fun i => s.readPlace (pl i))
     bad := ((upTo (n / 32)).filter (fun g => s.badPlace (pl (32 * g)))).map (fun g => recScratch + 32 * g) }]

/-- A core's scratchpad without a pack's window. -/
def State.clearWindow (s : State) (p : Pack) : State :=
  s.modCore p.core (fun k => { k with
    scratch := Map.dropRange k.scratch p.scrBase (p.scrBase + pktWindow p.pkt)
    scrBad := Map.dropRange k.scrBad (p.scrBase / 32) ((p.scrBase + pktWindow p.pkt) / 32) })

/-! ## A fault in the park area (R372) -/

/-- A context halts with SOURCE UE. -/
def State.haltUe (s : State) (c : Nat) (p : Pack) : State :=
  s.raiseHalt c { source := .ue, core := p.core, pack := p.slot, role := .copy, warp := 0, cause := 27, xpc := 0, kind := 0 }

/-- Work with a record's frames; a park area that cannot be used halts the context. -/
def State.withFrames (s : State) (p : Pack) (slot : Nat) (use : Use) (f : List Place → State) : Res State :=
  match s.ctx? p.ctx with
  | none => .ok s
  | some x => do
    match ← caught (s.recordFrames x slot use) with
    | .ok fs => .ok (f fs)
    | .error _ => .ok (s.haltUe p.ctx p)

/-- The lowest free record slot of a context (R385). -/
def Context.freeSlot (x : Context) : Option Nat := (upTo (min (descSlots x.desc) (x.records.length + 1))).find? (fun i => !x.records.contains i)

/-- The tiles of a core that carry a pack's tag: physical index, and the pack's index. -/
def State.ownTiles (s : State) (p : Pack) : List (Nat × Nat) :=
  (upTo 8).filterMap (fun phys => match ((s.core p.core).tiles.getD phys {}).owner with
    | some (q, i) => if q = p.id then some (phys, i) else none
    | none => none)

/-- Rewrite the header of a pack's record after a change of its fields. -/
def State.putHeader (s : State) (p : Pack) (r : Record) (fs : List Place) (hint : Bool := true) : State :=
  let why : RecordWhy := if p.status = .parked then .parked else .preempted
  (s.writeParts fs [{ off := 0, bytes := (recordHeader p r why 0 hint).take 32 }]).modPack p.id (fun q => { q with record := some r })

/-- A tile of a pack that does not run moves to its record (R45, R372): TSAVED is set, its residency bit cleared, and the tile
untagged. A fault loses the tile. -/
def State.saveTile (s : State) (core phys : Nat) : Res State :=
  match ((s.core core).tiles.getD phys {}).owner with
  | none => .ok s
  | some (q, i) =>
    let t0 := ((s.core core).tiles.getD phys {}).state
    let t := t0.found (fun _ => true)
    let s1 := (s.countTile t0 (fun _ => true)).setTile core phys {}
    match s1.pack? q with
    | none => .ok s1
    | some p =>
      match p.record with
      | none => .ok s1
      | some r => s1.withFrames p r.slot .store (fun fs =>
          (s1.writeParts fs (tileParts i t)).putHeader p { r with saved := r.saved ++ [i], tres := r.tres.filter (fun j => j != i) } fs)

/-- The scratchpad of a pack that does not run moves to its record (R45). -/
def State.evict (s : State) (p : Pack) : Res State :=
  match p.record with
  | none => .ok s
  | some r =>
    if r.scrIn then .ok s else
    s.withFrames p r.slot .store (fun fs =>
      (((s.detectWindow p [(0, pktWindow p.pkt)]).writeParts fs (s.scratchParts p)).putHeader p { r with scrIn := true } fs).clearWindow p)

/-- The residency hint of a pack's record is cleared, before its restore on another core (R46, R389). -/
def State.clearHint (s : State) (p : Pack) : Res State :=
  match p.record with
  | none => .ok s
  | some r => s.withFrames p r.slot .store (fun fs => s.putHeader p { r with tres := [] } fs false)

/-- The rank-0 pack of a pack's group, where it has a record. -/
def State.rootRecord (s : State) (p : Pack) : Option (Pack × Record) :=
  match s.packs.find? (fun q => q.ctx == p.ctx && q.group == p.group && q.rank == 0) with
  | some q => q.record.map (fun r => (q, r))
  | none => none

/-- Root state as the group leaves it, in the record of its rank-0 pack where that pack has one (R264). -/
def State.putRoots (s : State) (p : Pack) : Res State :=
  match s.rootRecord p with
  | none => .ok s
  | some (q, r) => if (s.groupRoots p).isEmpty then .ok s else s.withFrames q r.slot .store (fun fs => s.writeParts fs (rootParts (s.groupRoots p)))

/-- With no pack of its group running, a pack that resumes finds the root state in the record of the rank-0 pack (R264); else the
packs that run hold it. -/
def State.takeRoots (s : State) (p : Pack) : Res State :=
  match s.rootRecord p with
  | none => .ok s
  | some (q, r) =>
    if s.packs.any (fun u => u.ctx == p.ctx && u.group == p.group && u.status == .running) then .ok s
    else s.withFrames q r.slot .load (fun fs => { s with packs := s.packs.map (fun u =>
      if u.ctx = p.ctx ∧ u.group = p.group then { u with
        roots := (upTo u.roots.length).map (fun i => restoreBarrier (s.recNum fs) (0xA00 + 192 * i) 64 (u.roots.getD i {})) } else u) })

/-- A pack's record is written in the lowest free slot (R385): `none` where no slot is free. With `full`, the scratchpad
image goes with it; the tiles stay resident under the pack's tag. -/
def State.writeRecord (s : State) (p : Pack) (why : RecordWhy) (full : Bool) : Res (Option State) :=
  match s.ctx? p.ctx with
  | none => .ok none
  | some x =>
    match x.freeSlot with
    | none => .ok none
    | some slot => do
      let r : Record := { slot := slot, scrIn := full, saved := [], tres := (s.ownTiles p).map (fun t => t.2) }
      let t ← s.withFrames p slot .store (fun fs =>
        let s1 := s.writeParts fs (s.packParts x p r why ++ (if full then s.scratchParts p else []))
        let s2 := if full then s1.clearWindow p else s1
        (s2.modPack p.id (fun q => { q with record := some r })).modCtx p.ctx (fun y => { y with records := y.records ++ [slot] }))
      .ok (some (← t.putRoots p))

/-! ## Restoring (R46, R384, R386) -/

/-- What a record gives back to a pack: warps, leaf barriers, leashes, formats, WAKE. Root barriers are the
group's (`State.takeRoots`). -/
def State.restorePack (s : State) (fs : List Place) (p : Pack) : Pack :=
  let num := s.recNum fs
  { p with
    wake := num 0x10 8 / 2 ^ 37 % 2 == 1
    warps := p.warps.map (restoreWarp num)
    bars := (upTo p.bars.length).map (fun i => restoreBarrier num (0x200 + 64 * i) 8 (p.bars.getD i {}))
    leashes := (upTo p.leashes.length).map (fun i =>
      let l := p.leashes.getD i {}
      let x := num (0x1000 + 8 * i) 8
      { l with head := x % 16, queued := x / 2 ^ 8 % 32, held := x / 2 ^ 16 % 32 })
    fmt := (upTo 16).map (fun i =>
      let b : BitVec 128 := BitVec.ofNat 128 (num (0x1080 + 16 * i) 16)
      if fmtBlockOk (pktWindow p.pkt) b then some b else none) }

/-- A pack's window filled from the image of its record. -/
def State.restoreWindow (s0 : State) (fs : List Place) (p : Pack) : State :=
  let n := pktWindow p.pkt
  let s := s0.detectRecord fs recScratch n
  let pl (i : Nat) : Place := .scratch p.core (p.scrBase + i)
  let s1 := s.writeAll (wholeBytes 0 ((upTo n).map pl) ((upTo n).map (fun i => s.readPlace (framePlace fs (recScratch + i)))))
  ((upTo (n / 32)).filter (fun g => s.badPlace (framePlace fs (recScratch + 32 * g)))).foldl (fun t g => t.setBad (pl (32 * g)) true) s1

/-- The stopped commands of a pack as its record holds them, over what the record does not hold, on a core where they take
new tags. -/
def State.restoreCopy (s : State) (fs : List Place) (n core tag : Nat) (c : CopyCmd) : CopyCmd :=
  let o := 0x10000 + 1024 * n
  { c with
    core := core, tag := tag, phase := if c.phase = .stopped then .running else c.phase
    target := BitVec.ofNat 64 (s.recNum fs (o + 16) 8), handle := BitVec.ofNat 64 (s.recNum fs (o + 24) 8)
    next := s.recNum fs (o + 32) 8, desc := BitVec.ofNat 1024 (s.recNum fs (o + 64) 128) }

def State.restoreMat (s : State) (fs : List Place) (n core tag : Nat) (c : MatCmd) : MatCmd :=
  let o := 0x10000 + 1024 * n
  let k (i : Nat) : BitVec 64 := BitVec.ofNat 64 (s.recNum fs (o + 64 + 8 * i) 8)
  { c with
    core := core, tag := tag, stepsDone := s.recNum fs (o + 32) 8, a := k 0, a1 := k 1, b := k 2, b1 := k 3, ctl := k 4
    ids := (upTo c.ids.length).map (fun i => BitVec.ofNat 16 (s.recNum fs (o + 512 + 2 * i) 2)) }

end Sys2Proof.Machine
end

