-- ==== Sys2Proof/Machine/System.lean ====
section
/-! DEFINITION. The system words (R363 to R372), and the driver's answers to engine faults (R374). -/

namespace Sys2Proof.Machine

/-! ## Answers (R374, R291, R320) -/

/-- A completion record that could not be posted, for want of room in the queue, is written again once an answer frees room
(R373). -/
def State.retryUnposted (s : State) (c : Nat) : Res State :=
  match s.ctx? c with
  | none => .ok s
  | some x =>
    match x.doneWait.find? (fun d => d.fseq == 0) with
    | none => .ok s
    | some d => (s.modCtx c (fun y => { y with doneWait := y.doneWait.erase d })).writeDone c d

/-- Retry: the access is made again when its engine next turns to it (R291); diverted writes of the page may be replayed
(R158); a completion record is written again (R22). -/
def State.answerRetry (s : State) (c fseq : Nat) : Res State :=
  match s.ctx? c with
  | none => .ok s
  | some x =>
    match x.faults.find? (fun f => f.fseq == fseq) with
    | none => .ok s
    | some f => do
      let s1 := s.modCtx c (fun y => { y with faults := y.faults.filter (fun g => g.fseq != fseq) })
      let savedPack (id : Nat) : Bool := match s.pack? id with | some p => p.status == .saved | none => false
      let s2 ← match f.engine with
        | 1 => .ok (s1.modCore f.core (fun k => { k with nmcs := k.nmcs.map (fun d =>
            if d.tag = f.tag ∧ d.phase = .stalled fseq then { d with phase := .running } else d) }))
        | 2 => State.settleSteps { s1 with colls := s1.colls.map (fun d =>
            if d.core = f.core ∧ d.tag = f.tag ∧ d.phase = .stalled fseq then { d with phase := d.before } else d) }
        | 3 => .ok s1
        | 5 => (match x.doneWait.find? (fun d => d.fseq == fseq) with
          | some d => (s1.modCtx c (fun y => { y with doneWait := y.doneWait.erase d })).writeDone c d
          | none => .ok s1)
        | _ => .ok (s1.modCore f.core (fun k => { k with copies := k.copies.map (fun d =>
            if d.tag = f.tag ∧ d.ctx = c then
              { d with posted := d.posted.filter (fun q => q.2.2 != fseq)
                       phase := if d.phase = .stalled fseq then (if savedPack d.pack ∧ d.next < cdElems d.desc then .stopped else .running)
                                else d.phase }
            else d) }))
      s2.retryUnposted c

/-- The unit where a fault of an engine arose, as in a stop record (R373, R379). -/
def faultUnit (engine : Nat) : Nat :=
  match engine with | 0 | 4 => 1 | 1 => 4 | 2 => 3 | 3 => 2 | _ => 5

/-- Abort: the context halts (R374). -/
def State.answerAbort (s : State) (c fseq : Nat) : State :=
  match s.ctx? c with
  | none => s
  | some x =>
    match x.faults.find? (fun f => f.fseq == fseq) with
    | none => s
    | some f =>
      (s.modCtx c (fun y => { y with
        faults := y.faults.filter (fun g => g.fseq != fseq), doneWait := y.doneWait.filter (fun d => d.fseq != fseq) })).raiseHalt c
        { source := .abort, core := f.core, pack := 0, role := .copy, warp := 0, cause := BitVec.ofNat 6 (causeCode f.cause),
          xpc := 0, kind := faultUnit f.engine }

/-- A value written to EFANS (R374): FSEQ in [47:0], the action in [63:62]. -/
def State.answer (s : State) (c : Nat) (v : BitVec 64) : Res State :=
  match v.toNat / 2 ^ 62 with
  | 0 => s.answerRetry c (v.toNat % 2 ^ 48)
  | 1 => .ok (s.answerAbort c (v.toNat % 2 ^ 48))
  | _ => .ok s

/-- ENGINE_FAULT_RETRY (R374): the answer through the management path. -/
def execEngineFaultRetry (ctx fseq : Nat) (s : State) : Host.Outcome State Fault Refusal := s.eventOut (s.answerRetry ctx fseq)

/-- ENGINE_FAULT_ABORT (R374). -/
def execEngineFaultAbort (ctx fseq : Nat) (s : State) : Host.Outcome State Fault Refusal := .next (s.answerAbort ctx fseq)

/-! ## Control of the warp -/

/-- `retx` (R364). -/
def execRetx (s : State) : Host.Outcome State Fault Refusal :=
  runWord .retx s (fun h => .ok (s.returnTrap h))

/-- `park` (R366): `yield`, or a hold until the pack has been saved. -/
def execPark (s : State) : Host.Outcome State Fault Refusal :=
  runWord .park s (fun h =>
    if h.pack.preempt.isNone then done s (fun w => { w with lastIssue := s.cycle })
    else done s (fun w => { w with preHeld := true, parkHeld := true }))

/-- `idle` (R365): an acquire at pack scope. -/
def execIdle (s : State) : Host.Outcome State Fault Refusal :=
  runWord .idle s (fun h =>
    if h.warp.block.any (fun b => b.why == .idle && b.sat) then .ok s
    else if h.pack.wake then .ok (s.modPack h.pid (fun p => { p with wake := false }))
    else .error (.block .idle))

/-- A warp blocked in `idle`. -/
def Warp.idling (w : Warp) : Bool := w.block.any (fun b => b.why == .idle && !b.sat)

/-- `sev` (R365): a release at pack scope. -/
def execSev (s : State) : Host.Outcome State Fault Refusal :=
  runWord .sev s (fun h => do
    releaseHold h
    if h.pack.warps.any Warp.idling then
      .ok (s.modPack h.pid (fun p => { p with warps := p.warps.map (fun w =>
        if w.idling then { w with block := w.block.map (fun b => { b with sat := true }) } else w) }))
    else .ok (s.modPack h.pid (fun p => { p with wake := true })))

/-- `chalt` (R367). -/
def execChalt (s : State) : Host.Outcome State Fault Refusal :=
  runWord .chalt s (fun h =>
    .ok ((s.setCur (fun w => { w with preHeld := true })).raiseHalt h.pack.ctx
      (raiseRec h.pack h.warp .chalt (h.warp.xcause.toNat % 64) s.iss.restart)))

/-! ## System registers (R368) -/

/-- A word of the range-lock table (R155): entry `i / 3`, word `i % 3`. -/
def State.lockWord (s : State) (p : Pack) (i : Nat) : BitVec 64 :=
  match Map.get none (s.core p.core).locks (i / 3) with
  | none => 0
  | some e =>
    if e.ctx ≠ p.ctx then 0 else
    match i % 3 with
    | 0 => BitVec.ofNat 64 e.lo
    | 1 => BitVec.ofNat 64 e.hi
    | _ => BitVec.ofNat 64 (2 ^ 63 + (if e.dest then 2 ^ 62 else 0) + (if e.glob then 2 ^ 61 else 0) + e.ctx % 16 * 2 ^ 52 +
        (match s.pack? e.pack with | some q => q.slot % 16 | none => 0) * 2 ^ 48 + e.tag % 2 ^ 48)

/-- The value of a system register. -/
def State.systemValue (s : State) (h : Here) (idx : Nat) : BitVec 64 :=
  let x := h.ctx
  if idx < 0xC0 then s.lockWord h.pack idx
  else if 0x100 ≤ idx ∧ idx < 0x110 then Map.get 0 x.waddr (idx - 0x100)
  else if 0x110 ≤ idx ∧ idx < 0x120 then Map.get 0 x.wctl (idx - 0x110) ||| BitVec.ofNat 64 (idx - 0x110)
  else match idx with
  | 0x200 => BitVec.ofNat 64 h.pack.ctx
  | 0x201 => BitVec.ofNat 64 ((if h.pack.preempt.isSome then 2 else 0) + (if descSliceRaw x.desc < Config.sliceMin then 1 else 0))
  | 0x202 => x.taskbad
  | 0x203 => x.dcunder
  | 0x204 => x.epoch
  | 0x208 => BitVec.ofNat 64 x.efqTail
  | _ => 0

/-- `sysr` (R368). -/
def execSysr (ka : BitVec 6) (idx : BitVec 12) (s : State) : Host.Outcome State Fault Refusal :=
  runWord (.sysr ka idx) s (fun h => done s (fun w => w.setK ka.toNat (s.systemValue h idx.toNat)))

/-- `sysw` (R368). -/
def execSysw (ka : BitVec 6) (idx : BitVec 12) (s : State) : Host.Outcome State Fault Refusal :=
  runWord (.sysw ka idx) s (fun h =>
    let v := h.warp.kreg ka.toNat
    match idx.toNat with
    | 0x202 => .ok (s.modCtx h.pack.ctx (fun x => { x with taskbad := v }))
    | 0x203 => .ok (s.modCtx h.pack.ctx (fun x => { x with dcunder := v }))
    | _ => s.answer h.pack.ctx v)

/-! ## Invalidation (R190 to R194, R369) -/

/-- The translations that a `tlbinv` keeps. -/
def tlbKeeps (mode va : Nat) (t : TlbEntry) : Bool :=
  match mode with
  | 1 => !(decide (t.base ≤ va) && decide (va < t.base + t.size))
  | 2 => !(leafKind t.leaf == 2 && leafStripe t.leaf == va % 256)
  | _ => false

/-- `tlbinv` (R369): a release at device scope; the warp's next packet waits for the acknowledgement. -/
def execTlbinv (ka kb : BitVec 6) (s : State) : Host.Outcome State Fault Refusal :=
  runWord (.tlbinv ka kb) s (fun h => do
    releaseHold h
    let mode := (h.warp.kreg kb.toNat).toNat % 4
    let va := (h.warp.kreg ka.toNat).toNat
    let s1 := s.modCtx h.pack.ctx (fun x => { x with
      epoch := x.epoch + 1, tlb := x.tlb.filter (tlbKeeps mode va), adCache := [], invSeq := s.reqSeq
      moving := x.moving ++ x.tlb.filter (fun t => !tlbKeeps mode va t && leafMig t.leaf) })
    .ok (s1.setCur (fun w => { w with ackWait := some (h.ctx.epoch + 1) })))

/-- A place that a translation gives: not a scratchpad. -/
def Place.isGlobal : Place → Bool
  | .scratch _ _ => false
  | _ => true

/-- A request that an egress queue of the part still holds (R191): one to memory, the host or a peer that is not in a
write-combining buffer, does not wait in a slice (R194), and is not kept back by the warp's order behind one that does. -/
def State.egress (s : State) (x : Context) (w : Warp) (f : Flight) : Bool :=
  !f.done && !f.inWcb && (flightPlaces f.kind).any Place.isGlobal && !s.atSlice x f &&
  !(!w.mayPerform f && w.flight.any (fun g => !g.done && decide (g.id < f.id) && s.atSlice x g))

/-- An egress queue holds a request of a context with an older epoch (R191): of a warp, or one that an engine, or the read of a launch
packet, has made of a peer. -/
def State.olderRequest (s : State) (ctx : Nat) (x : Context) : Bool :=
  s.packs.any (fun p => p.ctx == ctx && p.warps.any (fun w => w.flight.any (fun f => f.epoch != x.epoch && s.egress x w f))) ||
  s.requests.any (fun r => r.fctx == BitVec.ofNat 12 (descFctx x.desc) && decide (r.id < x.invSeq) &&
    (match r.owner with
    | .engine _ => true
    | .warp q i => ((s.pack? q).bind (fun p => p.warps[i]?)).any (fun w => w.launchRead.any (fun l => l.id == r.flight))))

/-! ## Watchpoints and tiles -/

/-- SIZE of a watchpoint's control: 31 counts as 30 (R370). -/
def watchSize (v : BitVec 64) : Nat := min 30 (bits v.toNat 12 8)

/-- `wpset` (R370). -/
def execWpset (ka kb : BitVec 6) (s : State) : Host.Outcome State Fault Refusal :=
  runWord (.wpset ka kb) s (fun h =>
    let base := h.warp.kreg ka.toNat
    let v := h.warp.kreg kb.toNat
    let i := v.toNat % 16
    if base.toNat % 2 ^ watchSize v ≠ 0 then raiseAt .misalign base.toNat
    else .ok (s.modCtx h.pack.ctx (fun x => { x with
      waddr := Map.set 0 x.waddr i base, wctl := Map.set 0 x.wctl i (v &&& 0x1F30) })))

/-- The physical tile that a word names by k[KA][2:0]. -/
def tileNamed (h : Here) (ka : BitVec 6) : Res (Nat × Nat) :=
  let n := (h.warp.kreg ka.toNat).toNat % 8
  match h.pack.tiles[n]? with
  | some phys => .ok (n, phys)
  | none => raise0 .regrange

/-- A tile of another pack moves out (R372). -/
def State.claimTile (s : State) (h : Here) (phys : Nat) : Res State :=
  match ((s.core h.pack.core).tiles.getD phys {}).owner with
  | some (q, _) => if q = h.pid then .ok s else s.saveTile h.pack.core phys
  | none => .ok s

/-- `tsave` (R372). -/
def execTsave (ka : BitVec 6) (s : State) : Host.Outcome State Fault Refusal :=
  runWord (.tsave ka) s (fun h => do
    let (_, phys) ← tileNamed h ka
    s.claimTile h phys)

/-- `trest` (R372). -/
def execTrest (ka : BitVec 6) (s : State) : Host.Outcome State Fault Refusal :=
  runWord (.trest ka) s (fun h => do
    let (n, phys) ← tileNamed h ka
    let s1 ← s.claimTile h phys
    match h.pack.record with
    | some r =>
      if r.saved.contains n then
        s1.withFrames h.pack r.slot .load (fun fs =>
          (s1.putTile h.pack n phys (s1.recTile fs n)).modPack h.pid (fun p => { p with record := some { r with saved := r.saved.filter (fun i => i != n) } }))
      else .ok (clean s1 h n phys)
    | none => .ok (clean s1 h n phys))
where
  clean (s : State) (h : Here) (n phys : Nat) : State :=
    if ((s.core h.pack.core).tiles.getD phys {}).owner.isNone then s.putTile h.pack n phys {} else s

end Sys2Proof.Machine
end

