-- ==== Sys2Proof/Machine/Scheduler.lean ====
section
/-! DEFINITION. Scheduling of work (R16, R23 to R28, R35, R43 to R49, R380 to R384): placing packs, retirement and launch
completion, parking, resumption, and the ends of time slices. -/

namespace Sys2Proof.Machine

/-! ## Room on a core (R24, R265) -/

/-- The packs that hold slots of a core. Parking frees a pack's warp slots (R43); that its pack slot and its leaf barriers are free
for other packs too is the model's choice (log entry 94). -/
def State.packsOn (s : State) (core : Nat) : List Pack := s.packs.filter (fun p => p.core == core && p.status == .running)

/-- The epilogue warps of a packet that land in quadrant `q` when the first goes to `q0`. -/
def quadShare (pkt : BitVec 2048) (q0 q : Nat) : Nat := ((upTo (pktNepi pkt)).filter (fun i => (q0 + i) % 4 == q)).length

/-- The 128-byte rows of a quadrant's register file. -/
def quadRows : Nat := 768

/-- A warp holds its slot: it has live lanes, or accesses of its own are in flight (R205). -/
def Warp.holdsSlot (w : Warp) : Bool := w.live != 0 || w.counter .laneLd != 0 || w.counter .laneSt != 0

/-- A core has room for a pack whose first epilogue warp goes to quadrant `q0`, beside the packs it holds and others that
are being placed with it (`extra`: core, quadrant, packet). -/
def State.fits (s : State) (extra : List (Nat × Nat × BitVec 2048)) (core q0 : Nat) (pkt : BitVec 2048) : Bool :=
  let ps := s.packsOn core
  let ex := extra.filter (fun e => e.1 == core)
  let more (f : BitVec 2048 → Nat) : Nat := (ex.map (fun e => f e.2.2)).sum + f pkt
  let sum (f : BitVec 2048 → Nat) : Nat := (ps.map (fun p => f p.pkt)).sum + more f
  let slots (r : Role) (f : BitVec 2048 → Nat) : Nat :=
    (ps.map (fun p => (p.warps.filter (fun w => w.role == r && w.holdsSlot)).length)).sum + more f
  let quad (q : Nat) (mine : Warp → Bool) (f : BitVec 2048 → Nat) : Nat :=
    (ps.map (fun p => (p.warps.filter (fun w => w.role == .epilogue && w.quad == q && mine w)).length * f p.pkt)).sum +
    (ex.map (fun e => quadShare e.2.2 e.2.1 q * f e.2.2)).sum + quadShare pkt q0 q * f pkt
  decide (q0 < 4) && decide (core < 336) && decide (ps.length + ex.length < 8) && decide (slots .copy pktNcopy ≤ 4) &&
  decide (slots .maths pktNmath ≤ 8) && decide (sum pktWindow ≤ Config.scratchBytes) && decide (sum pktTiles ≤ 8) &&
  decide (sum pktBars ≤ 32) && (upTo 4).all (fun q =>
    decide (quad q Warp.holdsSlot (fun _ => 1) ≤ 16) && decide (quad q (fun _ => true) pktVregs ≤ quadRows))

/-- The root barriers that a cluster has free: each group that stands there holds as many as its size (R265). -/
def State.rootsFree (s : State) (cluster : Nat) : Nat :=
  let here := s.packs.filter (fun p => clusterOf p.core == cluster && 1 < p.size)
  16 - ((here.map (fun p => (p.group, p.size))).eraseDups.map (fun g => g.2)).sum

/-- The first place for a pack among the cores of a cluster. -/
def State.placeOne (s : State) (extra : List (Nat × Nat × BitVec 2048)) (cluster : Nat) (pkt : BitVec 2048) : Option (Nat × Nat) :=
  ((upTo 8).flatMap (fun c => (upTo 4).map (fun q => (cluster * 8 + c, q)))).find? (fun p => s.fits extra p.1 p.2 pkt)

/-- A cluster has room for `n` packs of a packet at once (R23). -/
def State.placeAll (s : State) (cluster : Nat) (pkt : BitVec 2048) : Nat → List (Nat × Nat × BitVec 2048) → Bool
  | 0, _ => true
  | n + 1, extra =>
    match s.placeOne extra cluster pkt with
    | some (c, q) => s.placeAll cluster pkt n ((c, q, pkt) :: extra)
    | none => false

/-- A core has an untagged tile for each that a pack which resumes there loads from its record (R46): those that it has saved, and on
another core those that its home core still holds. A tile tagged to a parked pack is not free: only a first use claims it (R45). -/
def State.tileRoom (s : State) (p : Pack) (core : Nat) : Bool :=
  let saved := match p.record with | some r => r.saved.length | none => 0
  let need := saved + (if core = p.core then 0 else (s.ownTiles p).length)
  let used := (s.packsOn core).flatMap (fun q => q.tiles)
  let bare := (upTo 8).filter (fun i => !used.contains i && ((s.core core).tiles.getD i {}).owner.isNone)
  decide (need ≤ bare.length)

/-! ## The order of work (R49) -/

/-- Levels gained by waiting since a cycle. -/
def State.gained (s : State) (since : Option Nat) : Nat :=
  match since with | some t => (s.cycle - t) / 65536 | none => 0

/-- Every waiting item's effective priority brought up to the present cycle (R49). -/
def State.age (s : State) : State :=
  { s with
    contexts := s.contexts.map (fun c => c.map (fun x => { x with
      launches := x.launches.map (fun l => { l with boost := s.gained l.eligible }) }))
    packs := s.packs.map (fun p => { p with boost := s.gained p.queuedAt }) }

/-- PRIORITY_AGING (R49). -/
def execPriorityAging (s : State) : Host.Outcome State Fault Refusal := .next s.age

/-- Work that waits for the dispatcher: its effective priority, its launch sequence number, its context, and whether it is a
pack that resumes (by identity) or the next packs of a launch. -/
structure WorkItem where
  prio : Nat
  lseq : Nat
  ctx  : Nat
  pack : Option Nat
  deriving DecidableEq, Repr

/-- The linear indices of the packs that a launch places next: one group (R23), those that start again first (R381). -/
def Launch.nextPacks (l : Launch) : List Nat :=
  let c := if l.wave.isSome then 1 else pktClsz l.pkt
  match l.redo with
  | [] => if l.next < pktPacks l.pkt then (upTo c).map (fun i => l.next + i) else []
  | r :: rs =>
    let first := rs.foldl min r
    (upTo c).filterMap (fun i => if l.redo.contains (first / c * c + i) then some (first / c * c + i) else none)

/-- A context's work may be placed: it has its slice and no halt. -/
def Context.active (x : Context) : Bool := x.inSlice && x.halt == .clear

/-- Every item that waits. -/
def State.work (s : State) : List WorkItem :=
  (upTo 16).flatMap (fun c => match s.ctx? c with
    | some x =>
      if !x.active then [] else
      (x.launches.filter (fun l => l.eligible.isSome && !l.nextPacks.isEmpty)).map (fun l =>
        { prio := min 3 (pktPrio l.pkt + l.boost), lseq := l.lseq.toNat, ctx := c, pack := none }) ++
      (s.packs.filter (fun p => p.ctx == c && p.status != .running && p.queuedAt.isSome)).map (fun p =>
        { prio := min 3 (pktPrio p.pkt + p.boost), lseq := p.lseq.toNat, ctx := c, pack := some p.id })
    | none => [])

/-- `a` comes before `b` (R49). Of two contexts' items of equal priority and equal launch sequence number, of which the manual says
nothing, the one of the lower context number comes first (log entry 92). -/
def WorkItem.before (a b : WorkItem) : Bool :=
  decide (b.prio < a.prio) || (a.prio == b.prio && (decide (a.lseq < b.lseq) || (a.lseq == b.lseq && decide (a.ctx < b.ctx))))

/-- The linear index of a pack in its grid (R23). -/
def Pack.linear (p : Pack) : Nat := p.x + pktGx p.pkt * (p.y + pktGy p.pkt * p.z)

/-- The packs of a launch that stand in the cluster group of index `idx` (R23). -/
def State.mates (s : State) (c : Nat) (l : Launch) (idx : Nat) : List Pack :=
  if l.wave.isSome then [] else
  s.packs.filter (fun p => p.ctx == c && p.lseq == l.lseq && p.linear / pktClsz l.pkt == idx / pktClsz l.pkt)

/-- The root barriers that the next packs of a launch take from a cluster (R265): one for each pack of a group of which none stands. -/
def State.rootsNeeded (s : State) (c : Nat) (l : Launch) : Nat :=
  if l.wave.isSome || decide (pktClsz l.pkt ≤ 1) || !(s.mates c l (l.nextPacks.headD 0)).isEmpty then 0 else pktClsz l.pkt

/-- The clusters that an item may use, its packet, how many packs it places, and the root barriers that they take. Packs that start
again stand in the cluster of the rest of their group. -/
def State.itemNeeds (s : State) (w : WorkItem) : List Nat × BitVec 2048 × Nat × Nat :=
  match s.ctx? w.ctx with
  | none => ([], 0, 0, 0)
  | some x =>
    let part := (upTo 42).filter (descHas x.desc)
    match w.pack with
    | some id => (match s.pack? id with | some p => (part, p.pkt, 1, 0) | none => ([], 0, 0, 0))
    | none =>
      match x.launches.find? (fun l => l.lseq.toNat == w.lseq) with
      | some l =>
        let clusters := match l.wave, s.mates w.ctx l (l.nextPacks.headD 0) with
          | some (k, _), _ => [k]
          | none, m :: _ => part.filter (fun k => k == clusterOf m.core)
          | none, [] => part
        (clusters, l.pkt, l.nextPacks.length, s.rootsNeeded w.ctx l)
      | none => ([], 0, 0, 0)

/-- The item could be placed on some cluster of those given. -/
def State.placeable (s : State) (w : WorkItem) (clusters : List Nat) : Bool :=
  let (mine, pkt, n, roots) := s.itemNeeds w
  let seat (k : Nat) : Bool := match w.pack.bind s.pack? with
    | some p => (upTo 8).any (fun c => s.tileRoom p (8 * k + c) && (upTo 4).any (fun q => s.fits [] (8 * k + c) q pkt))
    | none => s.placeAll k pkt n [] && decide (roots ≤ s.rootsFree k)
  n != 0 && (mine.filter (fun k => clusters.contains k)).any seat

/-- The clusters left to an item by those before it: an item of priority 3 that waits holds the clusters it may use (R49). -/
def State.clustersFor (s : State) (w : WorkItem) : List Nat :=
  let held := (s.work.filter (fun a => a.before w && a.prio == 3)).flatMap (fun a => (s.itemNeeds a).1)
  (upTo 42).filter (fun k => !held.contains k)

/-- It is the item's turn: nothing before it could be placed now. -/
def State.turnOf (s : State) (w : WorkItem) : Bool :=
  s.work.contains w && !(s.work.filter (fun a => a.before w)).any (fun a => s.placeable a (s.clustersFor a))

/-! ## Making a pack (R23 to R26, R35, R264, R271) -/

/-- The slot of a warp: the lowest that no warp of its kind holds on its core, or in its quadrant. -/
def State.freeWarpSlot (s : State) (core : Nat) (role : Role) (quad : Nat) (taken : List Warp) : Nat :=
  let mine (w : Warp) : Bool := w.holdsSlot && w.role == role && (role != .epilogue || w.quad == quad)
  let used := (((s.packsOn core).flatMap (fun p => p.warps) ++ taken).filter mine).map (fun w => w.slot)
  ((upTo 64).find? (fun i => !used.contains i)).getD 0

/-- The warps of a pack, each as R26 leaves it at its entry address. -/
def packWarps (pkt : BitVec 2048) : List Warp :=
  let args : Map (BitVec 64) := Map.set 0 [] 0 (BitVec.ofNat 64 (pktArgs pkt))
  let one_ (role : Role) (num kb entry : Nat) : Warp :=
    { role := role, num := num, kbud := BitVec.ofNat 2 kb, pc := BitVec.ofNat 64 entry, exec := 1, live := 1, k := args }
  (upTo (pktNcopy pkt)).map (fun _ => one_ .copy 0 (pktCkb pkt) (pktEntryC pkt)) ++
  (upTo (pktNmath pkt)).map (fun i => one_ .maths i (pktMkb pkt) (pktEntryM pkt)) ++
  (upTo (pktNepi pkt)).map (fun i =>
    { one_ .epilogue i (pktEkb pkt) (pktEntryE pkt) with
      vbud := BitVec.ofNat 2 (pktEvb pkt), exec := BitVec.allOnes 32, live := BitVec.allOnes 32 })

/-- Warps with their slots, the first epilogue warp in quadrant `q0`. -/
def State.seatWarps (s : State) (core q0 : Nat) (ws : List Warp) : List Warp :=
  ws.foldl (fun acc w =>
    let q := if w.role = .epilogue then (q0 + w.num) % 4 else 0
    acc ++ [{ w with quad := q, slot := s.freeWarpSlot core w.role q acc }]) []

/-- A wave's warp holds its tasks: lane `i` has the `i`-th argument record in v0 to v15 (R35). -/
def waveWarp (ts : List Task) (w : Warp) : Warp :=
  let lanes := BitVec.ofNat 32 (2 ^ min 32 ts.length - 1)
  { w with
    exec := lanes, live := lanes
    v := fileFrom 0 512 (fun i => match ts[i % 32]? with
      | some t => t.arg.extractLsb' (32 * (i / 32)) 32
      | none => 0) }

/-- The leashes of a pack, stacked downwards from the window's end (R25). -/
def packLeashes (pkt : BitVec 2048) : List Leash :=
  (upTo (pktLeashes pkt)).map (fun i =>
    { base := pktWindow pkt - ((upTo (i + 1)).map (fun j => 8 * pktDepth pkt j)).sum, depth := pktDepth pkt i })

/-- A barrier at pack start (R264). -/
def freshBarrier (parts : Nat) : Barrier := { parts := parts, expect := parts }

/-- Free physical tiles of a core, untagged ones first. -/
def State.freeTiles (s : State) (core : Nat) : List Nat :=
  let used := (s.packsOn core).flatMap (fun p => p.tiles)
  let free := (upTo 8).filter (fun i => !used.contains i)
  let bare (i : Nat) : Bool := ((s.core core).tiles.getD i {}).owner.isNone
  free.filter bare ++ free.filter (fun i => !bare i)

/-- The lowest free pack slot of a core. -/
def State.freePackSlot (s : State) (core : Nat) : Nat :=
  ((upTo 8).find? (fun i => !(s.packsOn core).any (fun p => p.slot == i))).getD 0

/-- Scratchpad of parked packs moves out until a window of `n` bytes fits (R45). Whose goes first is not given: here they go in the
order of the list of packs, the one that was made first before the others (log entry 95). -/
def State.makeRoom (core n : Nat) : List Pack → State → Res State
  | [], s => .ok s
  | p :: ps, s =>
    let used := ((s.packsOn core).map (fun q => pktWindow q.pkt)).sum +
      ((s.packs.filter (fun q => q.core == core && q.status == .parked && !q.evicted)).map (fun q => pktWindow q.pkt)).sum
    if used + n ≤ Config.scratchBytes then .ok s else do State.makeRoom core n ps (← s.evict p)

/-- The parked packs whose scratchpad a core holds. -/
def State.residents (s : State) (core : Nat) : List Pack :=
  s.packs.filter (fun q => q.core == core && q.status == .parked && !q.evicted)

/-- Place pack `idx` of a launch on a core. What its launch or its tasks waited for is acquired at device scope (R124, R178, R187 to
R189), so the core's L1 is emptied. -/
def State.makePack (s : State) (c : Nat) (l : Launch) (idx group : Nat) (core q0 : Nat) : Res State :=
  match s.ctx? c with
  | none => .ok s
  | some x => do
    let s1 ← State.makeRoom core (pktWindow l.pkt) (s.residents core) s
    let views ← s1.readViews x (pktViewt l.pkt)
    let fmt ← s1.readFormats x l.pkt
    let s1 := s1.detectSpans x (tableSpans (pktViewt l.pkt) (pktFmtt l.pkt))
    let size := if l.wave.isSome then 1 else pktClsz l.pkt
    let gx := max 1 (pktGx l.pkt)
    let gy := max 1 (pktGy l.pkt)
    let n := pktNcopy l.pkt + pktNmath l.pkt + pktNepi l.pkt
    let tasks := match l.wave with | some (_, ts) => ts | none => []
    let ws := s1.seatWarps core q0 (packWarps l.pkt)
    let first := !s1.packs.any (fun p => p.ctx == c && p.group == group)
    let p : Pack :=
      { id := s1.packSeq, ctx := c, lseq := l.lseq, pkt := l.pkt, x := idx % gx, y := idx / gx % gy, z := idx / (gx * gy),
        wave := l.wave.isSome, tasks := tasks, group := group, core := core, slot := s1.freePackSlot core,
        scrBase := s1.packSeq * 2 ^ 22, tiles := (s1.freeTiles core).take (pktTiles l.pkt),
        warps := if l.wave.isSome then ws.map (waveWarp tasks) else ws,
        bars := List.replicate (pktBars l.pkt) (freshBarrier n),
        roots := if size ≤ 1 ∨ first = false then [] else List.replicate size (freshBarrier (size * n)),
        leashes := packLeashes l.pkt, fmt := fmt, views := views }
    .ok ({ s1 with packSeq := s1.packSeq + 1, packs := s1.packs ++ [p] }.clearL1 core)

/-- The group that packs of a launch join: that of a pack of the same group which still stands, or a new one. -/
def State.groupFor (s : State) (c : Nat) (l : Launch) (idx : Nat) : Nat :=
  match s.mates c l idx with
  | p :: _ => p.group
  | [] => s.packSeq

/-- Packs of a launch placed one after another. -/
def State.makePacks (c : Nat) (l : Launch) (group : Nat) : List (Nat × Nat × Nat) → State → Res State
  | [], s => .ok s
  | (idx, core, q0) :: rest, s => do State.makePacks c l group rest (← s.makePack c l idx group core q0)

/-- The places suit packs of a packet, each with those before it. -/
def State.placesFit (s : State) (pkt : BitVec 2048) : List (Nat × Nat) → List (Nat × Nat × BitVec 2048) → Bool
  | [], _ => true
  | (c, q) :: rest, extra => s.fits extra c q pkt && s.placesFit pkt rest ((c, q, pkt) :: extra)

/-- A launch after its next packs have been placed. -/
def Launch.placed (l : Launch) (ids : List Nat) : Launch :=
  if l.redo.isEmpty then { l with next := l.next + ids.length } else { l with redo := l.redo.filter (fun i => !ids.contains i) }

/-- PACK_DISPATCH (R49): the next pack, cluster group or wave of a launch is placed. `places` gives a core and a starting
quadrant for each pack. -/
def execPackDispatch (ctx : Nat) (lseq : BitVec 64) (places : List (Nat × Nat)) (s0 : State) : Host.Outcome State Fault Refusal :=
  let s := s0.age
  match s.ctx? ctx with
  | none => .next s0
  | some x =>
    match x.launches.find? (fun l => l.lseq == lseq) with
    | none => .next s0
    | some l =>
      let ids := l.nextPacks
      let item : WorkItem := { prio := min 3 (pktPrio l.pkt + l.boost), lseq := lseq.toNat, ctx := ctx, pack := none }
      let cluster := clusterOf (places.headD (0, 0)).1
      let group := s.groupFor ctx l (ids.headD 0)
      if !s.turnOf item || places.length != ids.length || !(s.itemNeeds item).1.contains cluster ||
          !(s.clustersFor item).contains cluster || places.any (fun p => clusterOf p.1 != cluster) ||
          !s.placesFit l.pkt places [] || decide (s.rootsFree cluster < s.rootsNeeded ctx l) then .next s0
      else s0.eventOut (do
        let t ← State.makePacks ctx l group (ids.zip places) s
        .ok (t.modCtx ctx (fun y => { y with launches := y.launches.map (fun m => if m.lseq = lseq then m.placed ids else m) })))

/-! ## A pack leaves (R27, R28, R381) -/

/-- Root barriers move to another pack of the group when the pack that keeps them leaves (R265). -/
def State.passRoots (s : State) (p : Pack) : State :=
  if p.roots.isEmpty then s else
  match s.packs.find? (fun q => q.id != p.id && q.ctx == p.ctx && q.group == p.group) with
  | some q => s.modPack q.id (fun r => { r with roots := p.roots })
  | none => s

/-- Units reserved for a requester, and its place in queues, are given up (R309). -/
def State.leaveQueues (s : State) (gone : Requester → Bool) : State :=
  { s with peers := s.peers.foldl (fun m e => Map.set {} m e.1
      { e.2 with queue := e.2.queue.filter (fun q => !gone q.1)
                 reserved := e.2.reserved.filter (fun q => !gone q.1) }) s.peers }

/-- Free what a pack holds on its core: its warps' requests, its commands with their locks and spill segments, its tiles and
its window. -/
def State.removePack (s : State) (p : Pack) : State :=
  let gone (r : Requester) : Bool := match r with
    | .warp q _ => q == p.id
    | .engine k => engineCore k == p.core && (((s.core p.core).copies.any (fun c => c.pack == p.id && c.tag == engineTag k)) ||
        ((s.core p.core).mats.any (fun c => c.pack == p.id && c.tag == engineTag k)))
  let s1 := (s.passRoots p).leaveQueues gone
  let s2 := { s1 with requests := s1.requests.filter (fun r => !gone r.owner), packs := s1.packs.filter (fun q => q.id != p.id) }
  let s3 := s2.modCore p.core (fun k => { k with
    copies := k.copies.filter (fun c => c.pack != p.id), mats := k.mats.filter (fun c => c.pack != p.id)
    locks := k.locks.filter (fun e => match e.2 with | some l => l.pack != p.id | none => true)
    tiles := k.tiles.map (fun t => match t.owner with | some (q, _) => if q = p.id then {} else t | none => t) })
  let s4 := s3.clearWindow p
  match p.record with
  | some r => s4.modCtx p.ctx (fun x => { x with records := x.records.erase r.slot })
  | none => s4

/-- A pack has commands in its core's engines, collective steps, or completions that still wait for their targets (R273). -/
def State.busy (s : State) (p : Pack) : Bool :=
  let k := s.core p.core
  k.copies.any (fun c => c.pack == p.id) || k.nmcs.any (fun c => c.pack == p.id) || k.mats.any (fun c => c.pack == p.id) ||
  s.colls.any (fun c => c.pack == p.id) || !p.heldDone.isEmpty

/-- A launch completes (R28): EVSET, the DCV decrement, the completion record, the event. -/
def State.completeLaunch (s : State) (c : Nat) (l : Launch) (status : Nat) (effects : Bool) : Res State := do
  let s1 := s.modCtx c (fun x => { x with launches := x.launches.filter (fun m => m.lseq != l.lseq) })
  if l.wave.isSome then .ok s1 else
  let s2 := if effects then s1.setEvents c (pktEvset l.pkt) else s1
  let s3 ← if effects && pktDcv l.pkt then s2.lowerDep c (pktDcidx l.pkt) else .ok s2
  s3.writeDone c { fseq := 0, lseq := l.lseq, pkt := l.pkt, status := status, packs := l.retired % 2 ^ 32 }

/-- The packs of a launch in all. -/
def Launch.total (l : Launch) : Nat := if l.wave.isSome then 1 else pktPacks l.pkt

/-- PACK_RETIRE (R27, R28). -/
def execPackRetire (pack : Nat) (s : State) : Host.Outcome State Fault Refusal :=
  match s.pack? pack with
  | none => .next s
  | some p =>
    if p.status != .running || p.warps.any (fun w => w.live != 0 || !w.flight.isEmpty) || s.busy p then .next s else
    s.eventOut (do
      let s1 := s.removePack p
      let add (off : Nat) (t : State) : State :=
        let q := pktSeq p.pkt off
        if q.2.2 && !p.wave then t.addSeq p.ctx q.2.1 q.1 else t
      let s2 := add 0xB0 (add 0xA0 s1)
      match (s2.ctx? p.ctx).bind (fun x => x.launches.find? (fun l => l.lseq == p.lseq)) with
      | none => .ok s2
      | some l =>
        let l1 := { l with retired := l.retired + 1 }
        let s3 := s2.modCtx p.ctx (fun x => { x with launches := x.launches.map (fun m => if m.lseq = l.lseq then l1 else m) })
        if l1.retired = l1.total then s3.completeLaunch p.ctx l1 0 true else .ok s3)

/-- KENNEL_TIMER_EXPIRY (R35): KENNELT has passed since a kennel's oldest task entered. A context that halts forms no wave. -/
def execKennelTimerExpiry (ctx kennel : Nat) (s : State) : Host.Outcome State Fault Refusal :=
  match s.ctx? ctx with
  | none => .next s
  | some x =>
    match x.kennels[kennel]? with
    | none => .next s
    | some k =>
      if x.halt ≠ .clear ∨ (match k.tasks with | t :: _ => decide (t.1 + descKennelt x.desc ≤ s.cycle) | [] => false) = false then .next s
      else s.eventOut (do
        let t ← s.formWave ctx kennel
        t.settleAll ctx)

/-! ## Parking (R41, R43, R44, R46) -/

/-- The condition that a warp is blocked on holds now. -/
def State.blockReady (s : State) (p : Pack) (wi : Nat) (w : Warp) (b : Block) : Bool :=
  match b.why with
  | .waitc path t => decide (w.counter path ≤ t.toNat)
  | .qpush q => (match p.leashes[q]? with | some l => decide (l.queued + l.held < l.depth) | none => true)
  | .qpop q => (match p.leashes[q]? with | some l => decide (0 < l.queued) | none => true)
  | .barw bar ph => (match s.barrier? p bar with | some r => r.passed ph | none => true)
  | .evwait _ _ | .seqwait _ _ => b.sat || (match s.ctx? p.ctx with | some x => blockMet x b.why | none => false)
  | .mwait n => !(s.core p.core).mats.any (fun c => c.pack == p.id && c.warp == wi && (match c.batch with | some m => m.ule n | none => false))
  | .spawn need => (match s.ctx? p.ctx with | some x => decide (x.poolUsed + need ≤ descTaskmax x.desc) | none => false)
  | .idle => b.sat || p.wake
  | .heel q _ => reservedFor (s.peer q) (.warp p.id wi) || peerState (s.peer q) == 3 || !peerValid (s.peer q)

/-- The block is watched (R41). -/
def BlockWhy.watched : BlockWhy → Bool
  | .waitc _ _ | .mwait _ => false
  | _ => true

/-- The warps of a pack with their indices. -/
def Pack.seats (p : Pack) : List (Nat × Warp) := (upTo p.warps.length).zip p.warps

/-- Some watched condition of a pack holds now. -/
def State.anyReady (s : State) (p : Pack) : Bool :=
  p.seats.any (fun iw => iw.2.live != 0 && (match iw.2.block with
    | some b => b.why.watched && s.blockReady p iw.1 iw.2 b
    | none => false))

/-- A parked pack one of whose conditions holds is queued for resumption (R46). -/
def State.queueParked (s : State) : State :=
  if s.packs.any (fun p => p.status == .parked && p.queuedAt.isNone) then
    { s with packs := s.packs.map (fun p =>
        if p.status = .parked ∧ p.queuedAt = none ∧ s.anyReady p = true then { p with queuedAt := some s.cycle, boost := 0 } else p) }
  else s

/-- A warp stands between the packets of a latched pair (R70). -/
def Pack.midPair (p : Pack) : Bool := p.warps.any (fun w => w.midPair.isSome)

/-- A warp runs at supervisor level. -/
def Pack.supervised (p : Pack) : Bool := p.warps.any (fun w => w.live != 0 && w.level == .supervisor)

/-- The conditions of R43, and that no warp is in a handler (R360). -/
def State.mayPark (s : State) (x : Context) (p : Pack) : Bool :=
  p.warps.all (fun w => w.live == 0 || (match w.block with
    | some b => b.why.watched && decide (b.since + descParkt x.desc ≤ s.cycle)
    | none => false)) &&
  p.warps.any (fun w => w.live != 0) && p.warps.all (fun w => w.flight.isEmpty) && !p.midPair && !s.busy p && !p.supervised &&
  !s.anyReady p && x.halt == .clear

/-! ## Saving for pre-emption (R382, R383) -/

/-- The deferral of a pack's pre-emption is over (R360, R383). -/
def Pack.deferralOver (p : Pack) : Bool :=
  !p.supervised &&
  (!pktPmask p.pkt || p.timedOut ||
    p.warps.all (fun w => w.live == 0 || w.preHeld || (match w.block with | some b => b.why.watched | none => false)))

/-- Every warp stops before its next packet; a warp at heel leaves its peer's queue (R382). -/
def State.stopWarps (s : State) (p : Pack) : State :=
  (s.modPack p.id (fun q => { q with warps := q.warps.map (fun w => { w with preHeld := true }) })).leaveQueues
    (fun r => match r with | .warp q _ => q == p.id | .engine _ => false)

/-- What a save waits for: the LANE-LD, LANE-ST and FAB counters, the pack's `tgath` and `tscat` commands, and latched pairs that have
begun. -/
def State.drained (s : State) (p : Pack) : Bool :=
  !p.midPair &&
  p.warps.all (fun w => w.counter .laneLd == 0 && w.counter .laneSt == 0 && w.counter .fab == 0) &&
  !(s.core p.core).copies.any (fun c => c.pack == p.id && (c.op == 1 || c.op == 2))

/-- The pack's copy commands stop at their segment boundary; one with nothing left but replay goes on, and so does one whose segment
waits for peers. -/
def State.stopCopies (s : State) (p : Pack) : State :=
  s.modCore p.core (fun k => { k with copies := k.copies.map (fun c =>
    if c.pack = p.id ∧ c.phase = .running ∧ c.next < cdElems c.desc ∧ s.askedOf (.engine (engineKey p.core c.tag)) = [] then
      { c with phase := .stopped } else c) })

/-- A copy command of the pack is in the middle of a segment. -/
def State.midSegment (s : State) (p : Pack) : Bool :=
  (s.core p.core).copies.any (fun c => c.pack == p.id && c.phase == .running && decide (c.next < cdElems c.desc))

/-- Save a pack that has stopped, once its copy commands have and a record slot is free. -/
def State.savePack (s : State) (p : Pack) : Res State := do
  let s1 := s.stopCopies p
  if s1.midSegment p then .ok s1 else
  match ← s1.writeRecord p .preempted true with
  | none => .ok s
  | some t => .ok ((t.modCore p.core (fun k => { k with
      locks := k.locks.filter (fun e => match e.2 with | some l => l.pack != p.id | none => true) })).modPack p.id
        (fun q => { q with status := .saved, queuedAt := none, boost := 0 }))

/-- A pre-emption that is pending goes as far as it can. -/
def State.preemptPack (s : State) (p : Pack) : Res State :=
  if p.preempt.isNone || !p.deferralOver then .ok s else
  let s1 := s.stopWarps p
  match s1.pack? p.id with
  | some q => if s1.drained q then s1.savePack q else .ok s1
  | none => .ok s1

/-- PACK_PARK (R43): a pack parks; or one whose pre-emption is pending is saved (R382). -/
def execPackPark (pack : Nat) (s : State) : Host.Outcome State Fault Refusal :=
  match s.pack? pack with
  | none => .next s
  | some p =>
    match s.ctx? p.ctx with
    | none => .next s
    | some x =>
      if p.status ≠ .running then .next s else
      if p.preempt.isSome then s.eventOut (s.preemptPack p) else
      if !s.mayPark x p then .next s else
      s.eventOut (do
        match ← s.writeRecord p .parked false with
        | none => .ok s
        | some t => .ok (t.modPack pack (fun q => { q with status := .parked, queuedAt := none, boost := 0 })))

/-! ## Resumption (R46, R384) -/

/-- An identity that waits name (R316), after commands took new tags. -/
def remapId (tags : List (Nat × Nat)) (id : Nat) : Nat :=
  if id % 2 = 0 then (match tags.find? (fun t => t.1 == id / 2) with | some t => tagId t.2 | none => id) else id

/-- The pack's commands and steps move with it to another core, under new tags in their order. -/
def State.moveCommands (s : State) (p : Pack) (core : Nat) : State × List (Nat × Nat) :=
  if core = p.core then (s, (upTo 0).map (fun i => (i, i))) else
  let old := s.core p.core
  let mine : List Nat := ((old.copies.filter (fun c => c.pack == p.id)).map (fun c => c.tag) ++
    (old.nmcs.filter (fun c => c.pack == p.id)).map (fun c => c.tag) ++ (old.mats.filter (fun c => c.pack == p.id)).map (fun c => c.tag) ++
    (s.colls.filter (fun c => c.pack == p.id)).map (fun c => c.tag)).mergeSort
  let base := (s.core core).seq
  let tags := mine.zip ((upTo mine.length).map (fun i => base + i))
  let new (t : Nat) : Nat := match tags.find? (fun x => x.1 == t) with | some x => x.2 | none => t
  let ids := List.map (remapId tags)
  let s1 := s.modCore core (fun k => { k with
    seq := k.seq + mine.length
    copies := k.copies ++ (old.copies.filter (fun c => c.pack == p.id)).map (fun (c : CopyCmd) => { c with core := core, tag := new c.tag, waits := ids c.waits })
    nmcs := k.nmcs ++ (old.nmcs.filter (fun c => c.pack == p.id)).map (fun (c : NmcCmd) => { c with core := core, tag := new c.tag, waits := ids c.waits })
    mats := k.mats ++ (old.mats.filter (fun c => c.pack == p.id)).map (fun (c : MatCmd) => { c with core := core, tag := new c.tag }) })
  let s2 := s1.modCore p.core (fun k => { k with
    copies := k.copies.filter (fun c => c.pack != p.id), nmcs := k.nmcs.filter (fun c => c.pack != p.id)
    mats := k.mats.filter (fun c => c.pack != p.id) })
  let s3 := { s2 with colls := s2.colls.map (fun (c : CollStep) =>
    if c.pack = p.id then { c with core := core, tag := new c.tag, waits := ids c.waits } else c) }
  let s4 := s3.modCtx p.ctx (fun x => { x with faults := x.faults.map (fun f =>
    if f.core = p.core ∧ mine.contains f.tag = true ∧ f.engine ≠ 5 then { f with core := core, tag := new f.tag } else f) })
  let moved (r : Requester) : Bool := match r with
    | .engine k => engineCore k == p.core && mine.contains (engineTag k)
    | .warp _ _ => false
  let key (r : Requester) : Requester := match r with
    | .engine k => if moved r then .engine (k / 2 ^ 64 * 2 ^ 64 + engineKey core (new (engineTag k))) else r
    | .warp _ _ => r
  let left := s4.leaveQueues moved
  let rekeyed := { left with requests := left.requests.map (fun (q : Request) => { q with owner := key q.owner }) }
  let s5 := rekeyed.modPack p.id (fun q => { q with warps := q.warps.map (fun w => { w with
      flight := w.flight.map (fun f => { f with
        kind := (match f.kind with | .engine t => .engine (new t) | k => k), waits := ids f.waits })
      cfences := w.cfences.map (fun c => (c.1, ids c.2)) }) })
  (s5, tags)

/-- Stopped commands continue from the point that the record holds, and every command of the pack that a save cut loose from
its locks registers them again (R384). -/
def State.restartCommands (s : State) (fs : List Place) (pid core : Nat) : Res State := do
  match s.pack? pid with
  | none => .ok s
  | some p =>
  let k := s.core core
  let cs := k.copies.filter (fun c => c.pack == pid && c.halted)
  let ms := k.mats.filter (fun c => c.pack == pid)
  let cs1 := (cs.zip (upTo cs.length)).map (fun c => s.restoreCopy fs c.2 core c.1.tag c.1)
  let ms1 := (ms.zip (upTo ms.length)).map (fun c => s.restoreMat fs (cs.length + c.2) core c.1.tag c.1)
  let s1 := s.modCore core (fun q => { q with
    copies := q.copies.map (fun c => (cs1.find? (fun d => d.tag == c.tag)).getD c)
    mats := q.mats.map (fun c => (ms1.find? (fun d => d.tag == c.tag)).getD c) })
  let s2 ← cs1.foldlM (fun t c => t.lockRanges core p.ctx pid c.tag (copyLocks c.op.toNat c.desc c.idx)) s1
  ms1.foldlM (fun t c => t.lockRanges core p.ctx pid c.tag c.ranges) s2

/-- The tiles of a pack that resumes: saved ones are loaded from the record into untagged tiles and tagged; those still resident on the
core are used in place, others that run there giving up what they have not used; the rest are free. -/
def State.seatTiles (s : State) (fs : List Place) (p : Pack) (core : Nat) (saved : List Nat) : State × List Nat :=
  let own := if core = p.core then s.ownTiles p else []
  let place (acc : State × Map Nat) (i : Nat) : State × Map Nat :=
    let t := acc.1
    let free := (t.freeTiles core).filter (fun f => !acc.2.any (fun e => e.2 == f) && !own.any (fun o => o.1 == f))
    match own.find? (fun o => o.2 == i) with
    | some o =>
      ({ t with packs := t.packs.map (fun q =>
          if q.core = core ∧ q.status = .running then { q with tiles := q.tiles.map (fun f => if f = o.1 then free.headD f else f) } else q) },
        acc.2 ++ [(i, o.1)])
    | none =>
      let f := free.headD 0
      (if saved.contains i then t.setTile core f { owner := some (p.id, i), state := t.recTile fs i } else t, acc.2 ++ [(i, f)])
  let ixs := upTo (pktTiles p.pkt)
  let (t, seats) := (ixs.filter saved.contains ++ ixs.filter (fun i => !saved.contains i)).foldl place (s, [])
  (t, ixs.map (fun i => ((seats.find? (fun e => e.1 == i)).map (fun e => e.2)).getD 0))

/-- Restore a pack on a core (R46). Its packets may load what it or others stored elsewhere, so the core's L1 is emptied (R124).
Its warps keep the cycle of their last issue (R50), on whatever port that was: the model's choice (log entry 110). -/
def State.resumePack (s : State) (p0 : Pack) (r0 : Record) (core q0 : Nat) : Res State := do
  -- another core: what is still resident goes to the record first
  let s1 ← if core = p0.core then .ok s else do
    let t ← (s.ownTiles p0).foldlM (fun t o => t.saveTile p0.core o.1) s
    let u ← t.evict ((t.pack? p0.id).getD p0)
    u.clearHint ((u.pack? p0.id).getD p0)
  match s1.pack? p0.id, s1.ctx? p0.ctx with
  | some p, some x =>
    let r := p.record.getD r0
    let s2 ← State.makeRoom core (if core = p.core ∧ r.scrIn = false then 0 else pktWindow p.pkt)
      ((s1.residents core).filter (fun q => q.id != p.id)) s1
    match ← caught (s2.recordFrames x r.slot .load) with
    | .error _ => .ok (s2.haltUe p.ctx p)
    | .ok fs => do
      let views ← s2.readViews x (pktViewt p.pkt)
      let q := s2.restorePack fs p
      let found := (s2.detectSpans x (tableSpans (pktViewt p.pkt) 0)).detectRecord fs 0 0x110000
      let (s3, _) := (← found.takeRoots p).moveCommands p core
      let (s4, tiles) := s3.seatTiles fs p core r.saved
      let ws := match s4.pack? p.id with | some u => u.warps | none => []
      let roots := match s4.pack? p.id with | some u => u.roots | none => []
      -- what the record does not hold comes from the pack as its commands moved
      let merged := (q.warps.zip ws).map (fun w => { w.1 with flight := w.2.flight, cfences := w.2.cfences })
      let seated := s4.seatWarps core q0 (merged.map (fun w => { w with
        preHeld := false, parkHeld := false, latch := [], block := w.block.map (fun b => { b with since := s.cycle }) }))
      let u : Pack := { q with
        core := core, slot := s4.freePackSlot core, tiles := tiles, warps := seated, views := views, status := .running,
        queuedAt := none, boost := 0, preempt := none, timedOut := false, record := none, roots := roots }
      let s5 := (s4.modPack p.id (fun _ => u)).modCtx p.ctx (fun y => { y with records := y.records.erase r.slot })
      let s6 := if r.scrIn then s5.restoreWindow fs u else s5
      let s7 ← s6.restartCommands fs p.id core
      .ok (State.applyHeld p.id p.heldDone (s7.clearL1 core))
  | _, _ => .ok s1

/-- PACK_RESUME (R46): on its home core if that has room, else on any core of the partition. -/
def execPackResume (pack core quad : Nat) (s0 : State) : Host.Outcome State Fault Refusal :=
  let s := s0.age
  match s.pack? pack with
  | none => .next s0
  | some p =>
    match p.record, s.ctx? p.ctx with
    | some r, some x =>
      let item : WorkItem := { prio := min 3 (pktPrio p.pkt + p.boost), lseq := p.lseq.toNat, ctx := p.ctx, pack := some pack }
      let home := (upTo 4).any (fun q => s.fits [] p.core q p.pkt) && s.tileRoom p p.core && (s.clustersFor item).contains (clusterOf p.core)
      if !s.turnOf item || !s.fits [] core quad p.pkt || !s.tileRoom p core || !descHas x.desc (clusterOf core) ||
          !(s.clustersFor item).contains (clusterOf core) || (home && core != p.core) then .next s0
      else s0.eventOut (s.resumePack p r core quad)
    | _, _ => .next s0

/-! ## Time slices (R16, R380, R381) -/

/-- A pack with IDEM = 1 that has nothing in flight which could not be done twice (R381). -/
def State.idemFree (s : State) (p : Pack) : Bool :=
  let k := s.core p.core
  pktIdem p.pkt && !p.wave && !k.nmcs.any (fun c => c.pack == p.id) && !s.colls.any (fun c => c.pack == p.id) &&
  p.warps.all (fun w => w.counter .fab == 0) && !k.copies.any (fun c => c.pack == p.id && targetKind c.target == 3)

/-- A wave whose live lanes have all made no side effect (R38, R381). -/
def Pack.cleanWave (p : Pack) : Bool := p.wave && p.warps.all (fun w => w.sideEff &&& w.live == 0)

/-- Discard a pack: it re-enters dispatch, or its tasks enter the head of the overflow queue in lane order (R381). -/
def State.discard (s : State) (p : Pack) : Res State :=
  let s1 := s.removePack p
  if p.wave then
    let live := match p.warps with | w :: _ => w.live | [] => 0
    let ts := (lanesOf live).filterMap (fun i => p.tasks[i]?)
    let s2 := s1.modCtx p.ctx (fun x => { x with
      overflow := ts ++ x.overflow, launches := x.launches.filter (fun l => l.lseq != p.lseq) })
    s2.settleAll p.ctx
  else
    .ok (s1.modCtx p.ctx (fun x => { x with launches := x.launches.map (fun l =>
      if l.lseq = p.lseq then { l with redo := l.redo ++ [p.linear] } else l) }))

/-- SLICE is delivered to a warp that runs at user level and is not blocked (R383). -/
def State.sliceWarp (pid : Nat) : List (Nat × Warp) → State → Res State
  | [], s => .ok s
  | (i, w) :: rest, s => do
    let t ← if w.live = 0 ∨ w.block.isSome = true ∨ w.preHeld = true ∨ w.level = .supervisor then .ok s else
      match s.takeTrap pid i w .slice w.pc 0 0 false with
      | .ok t => .ok t
      | .error pa => .error (.absent pa)
    State.sliceWarp pid rest t

/-- What the end of a slice does to a resident pack (R381). -/
def State.slicePack (s : State) (p : Pack) : Res State :=
  if pktPmask p.pkt || p.supervised then do
    let s1 := s.modPack p.id (fun q => { q with preempt := some s.cycle, timedOut := false })
    State.sliceWarp p.id p.seats s1
  else if s.idemFree p || p.cleanWave then s.discard p
  else do
    let s1 := s.modPack p.id (fun q => { q with preempt := some s.cycle, timedOut := false })
    match s1.pack? p.id with
    | some q => s1.preemptPack q
    | none => .ok s1

/-- The resident packs of a context, one after another. -/
def State.slicePacks : List Nat → State → Res State
  | [], s => .ok s
  | id :: ids, s => do
    match s.pack? id with
    | some p => State.slicePacks ids (← s.slicePack p)
    | none => State.slicePacks ids s

/-- The contexts that share the partition of a context and may run, from the number after it on. -/
def State.sharers (s : State) (ctx : Nat) (x : Context) : List (Nat × Context) :=
  (upTo 16).filterMap (fun i => match s.ctx? ((ctx + 1 + i) % 16) with
    | some y => if descPart y.desc = descPart x.desc ∧ y.halt = .clear then some ((ctx + 1 + i) % 16, y) else none
    | none => none)

/-- The cycles that a context has had of its partition, those of a slice that still runs among them (R16). -/
def Context.servedBy (x : Context) (cycle : Nat) : Nat := x.served + (if x.inSlice then cycle - x.sliceAt else 0)

/-- A context has had less of the partition by a cycle, for its share, than another (R16). -/
def Context.behind (a b : Context) (cycle : Nat) : Bool :=
  decide (a.servedBy cycle * descShare b.desc < b.servedBy cycle * descShare a.desc)

/-- Of contexts with their numbers, the first that has had least of its partition for its share. -/
def leastServed (cycle : Nat) (l : List (Nat × Context)) : Option (Nat × Context) :=
  l.foldl (fun acc y => match acc with
    | none => some y
    | some z => if y.2.behind z.2 cycle then some y else some z) none

/-- The context that takes the partition next: of those that share it, the one that has had least of it for its share (R16). -/
def State.nextSharer (s : State) (ctx : Nat) (x : Context) : Option Nat :=
  (leastServed s.cycle (s.sharers ctx x)).map (fun y => y.1)

/-- What a context that comes to share a partition counts as having had of it: for its share, as much as the one that has had least, so
that time which others had before it came gives it no longer turn (R16). -/
def State.fairServed (s : State) (ctx : Nat) (x : Context) : Nat :=
  match leastServed s.cycle ((s.sharers ctx x).filter (fun y => y.1 != ctx)) with
  | some y => y.2.servedBy s.cycle * descShare x.desc / max 1 (descShare y.2.desc)
  | none => 0

/-- A context's slice begins: its saved packs are queued for resumption. -/
def State.startSlice (s : State) (c : Nat) : State :=
  let s1 := s.modCtx c (fun x => { x with inSlice := true, sliceAt := s.cycle })
  { s1 with packs := s1.packs.map (fun p =>
    if p.ctx = c ∧ p.status = .saved ∧ p.queuedAt = none then { p with queuedAt := some s.cycle, boost := 0 } else p) }

/-- A context's slice has ended: its time is counted (R16). -/
def Context.sliced (x : Context) (cycle : Nat) : Context := { x with served := x.served + (cycle - x.sliceAt), sliceAt := cycle }

/-- A context gives its partition to another that shares it, if there is one, and its packs are treated as in R381. -/
def State.handOver (s : State) (ctx c : Nat) : Res State := do
  let t ← State.slicePacks ((s.packs.filter (fun p => p.ctx == ctx && p.status == .running)).map (fun p => p.id)) s
  .ok ((t.modCtx ctx (fun y => { y with inSlice := false })).startSlice c)

/-- SLICE_END (R381): a context that shares its partition has had its slice (R380). Where its share gives it the next slice too, that
one begins at once. -/
def execSliceEnd (ctx : Nat) (s : State) : Host.Outcome State Fault Refusal :=
  match s.ctx? ctx with
  | none => .next s
  | some x =>
    if !x.inSlice || decide (s.cycle < x.sliceAt + descSlice x.desc) || (s.sharers ctx x).all (fun y => y.1 == ctx) then .next s else
    let s1 := s.modCtx ctx (fun y => y.sliced s.cycle)
    match s1.nextSharer ctx x with
    | none => .next s
    | some c => if c = ctx then .next s1 else s.eventOut (s1.handOver ctx c)

/-- The lowest-numbered warp of a pack that is not held (R383). -/
def Pack.unheld (p : Pack) : Option (Nat × Warp) :=
  p.seats.find? (fun iw => iw.2.live != 0 && !iw.2.preHeld && !(match iw.2.block with | some b => b.why.watched | none => false))

/-- TIMEOUT (R360, R383): TIMEOUT cycles have passed since the pre-emption was put off. A warp at supervisor level halts the
context; else TIMEOUT is raised in the lowest-numbered warp that is not held, and the pack is saved after it. -/
def execTimeout (pack : Nat) (s : State) : Host.Outcome State Fault Refusal :=
  match s.pack? pack with
  | none => .next s
  | some p =>
    match s.ctx? p.ctx, p.preempt with
    | some x, some t0 =>
      if p.status ≠ .running ∨ p.deferralOver = true ∨ p.midPair = true ∨ s.cycle < t0 + descTimeout x.desc then .next s else
      if p.supervised then
        match p.warps.find? (fun w => w.live != 0 && w.level == .supervisor) with
        | some w => .next (s.raiseHalt p.ctx (raiseRec p w .superCause (causeCode .timeout) w.pc))
        | none => .next s
      else
        match p.unheld with
        | none => .next s
        | some (i, w) =>
          s.eventOut (do
            match s.takeTrap pack i w .timeout w.pc 0 0 false with
            | .error pa => .error (.absent pa)
            | .ok t =>
              let t1 := t.modPack pack (fun q => { q with timedOut := true, preempt := some s.cycle })
              match t1.pack? pack with
              | some q => t1.preemptPack q
              | none => .ok t1)
    | _, _ => .next s

end Sys2Proof.Machine
end

