-- ==== Sys2Proof/Machine/Halt.lean ====
section
/-! DEFINITION. Halts (R375 to R379): the message that reaches each unit, its stop, and what happens once all have stopped;
errors that raise UE (R391) and the loss of the die link (R395); creating, clearing and destroying contexts (R404, R406,
R407). -/

namespace Sys2Proof.Machine

/-! ## Units stop (R376) -/

/-- A unit of a context's halt, changed. -/
def State.modUnit (s : State) (ctx i : Nat) (f : HaltUnit → HaltUnit) : State :=
  s.modCtx ctx (fun x => match x.halt with
    | .raised us rs => { x with halt := .raised (us.modify i f) rs }
    | _ => x)

/-- A requester of a context (R309). -/
def State.ofContext (s : State) (ctx : Nat) (r : Requester) : Bool :=
  match r with
  | .warp q _ => (match s.pack? q with | some p => p.ctx == ctx | none => false)
  | .engine k =>
    let c := s.core (engineCore k)
    let tag := engineTag k
    c.copies.any (fun d => d.tag == tag && d.ctx == ctx) || c.nmcs.any (fun d => d.tag == tag && d.ctx == ctx) ||
      c.mats.any (fun d => d.tag == tag && d.ctx == ctx) ||
      s.colls.any (fun d => d.core == engineCore k && d.tag == tag && d.ctx == ctx)

/-- HALT_MESSAGE_ARRIVAL (R376): a halt message reaches a unit, which begins to stop. Units of send allowance that are reserved
for the context's warps return (R309). -/
def execHaltMessageArrival (ctx unit : Nat) (s : State) : Host.Outcome State Fault Refusal :=
  .next ((s.modUnit ctx unit (fun u => if u.arrived then u else { u with arrived := true, since := s.cycle })).leaveQueues
    (s.ofContext ctx))

/-- A latched pair of a context has begun on a core's ports: no stop falls between its packets (R70). -/
def State.pairOn (s : State) (ctx core : Nat) : Bool :=
  s.packs.any (fun p => p.ctx == ctx && p.core == core && p.midPair)

/-- UNIT_STOP (R376): a unit that the message has reached has finished the work it may still do. -/
def execUnitStop (ctx unit : Nat) (s : State) : Host.Outcome State Fault Refusal :=
  .next (s.modUnit ctx unit (fun u =>
    if u.arrived && !u.stopped && !(u.kind == 0 && s.pairOn ctx u.place) then { u with stopped := true, skid := s.cycle - u.since } else u))

/-! ## Stop records (R378, R379) -/

/-- SOURCE of a stop record. -/
def haltSourceCode : HaltSource → Nat
  | .cause => 0 | .ue => 1 | .chalt => 2 | .abort => 3 | .host => 4 | .superCause => 5

/-- DIE, CLUSTER and CORE of a unit. -/
def HaltUnit.bits (u : HaltUnit) : Nat := if u.kind < 3 then placeBits u.place else u.place * 2 ^ 16

/-- The raise that arose in a unit, if any. -/
def HaltUnit.origin (u : HaltUnit) (rs : List RaiseRec) : Option RaiseRec :=
  rs.find? (fun r => r.kind == u.kind && (if u.kind < 3 then r.core else dieOf r.core) == u.place)

/-- PROGRESS of a unit: of an engine, its oldest command of the context. -/
def State.progress (s : State) (ctx : Nat) (u : HaltUnit) : Nat :=
  match u.kind with
  | 0 => ((upTo 10).map (fun p => min 3 (u.done.getD p 0) * 4 ^ p)).sum
  | 1 =>
    match (s.core u.place).copies.find? (fun c => c.ctx == ctx) with
    | some c => c.tag % 2 ^ 48 + c.next / (c.unit * c.segUnits) % 4096 * 2 ^ 48
    | none => 0
  | 2 =>
    match (s.core u.place).mats.find? (fun c => c.ctx == ctx) with
    | some c => c.tag % 2 ^ 48 + c.stepsDone % 4096 * 2 ^ 48
    | none => 0
  | 3 => (match s.colls.find? (fun c => c.ctx == ctx && c.die == u.place) with | some c => cbStep c.block | none => 0)
  | 4 => u.done.getD 0 0 % 65536
  | _ => 0

/-- The 64 bytes of a stop record. -/
def stopBytes (hseq oseq : Nat) (u : HaltUnit) (r : Option RaiseRec) (progress : Nat) : List (BitVec 8) :=
  let origin := match r with
    | some r => 2 ^ 63 + haltSourceCode r.source * 2 ^ 60 + r.pack % 16 * 2 ^ 52 + roleCode r.role * 2 ^ 50 +
        r.warp % 64 * 2 ^ 44 + r.cause.toNat
    | none => 0
  leBytes 8 hseq ++ leBytes 8 oseq ++ leBytes 8 (u.kind * 2 ^ 60 + u.bits) ++ leBytes 8 origin ++
  leBytes 8 (match r with | some r => r.xpc.toNat | none => 0) ++ leBytes 8 progress ++ leBytes 4 u.skid ++ leBytes 12 0

/-- A writer of stop records counts its own (OSEQ, R379). -/
def Context.nextOseq (x : Context) (u : HaltUnit) : Nat := Map.get 0 x.oseq (u.kind * 2 ^ 16 + u.place) + 1

/-- A write to bytes of a context would meet poison. -/
def State.meetsPoison (s : State) (x : Context) (va n : Nat) : Res Bool := do
  match ← caught (s.spanPlaces x .store va n) with
  | .ok ps => .ok (ps.any (s.detect ps).badPlace)
  | .error _ => .ok false

/-- Write the stop records of units in turn: how many were written, and how many had no room or met a fault or poison. Each takes the
next index, written or not (R378). -/
def State.stopRecords (ctx : Nat) (rs : List RaiseRec) : List HaltUnit → Nat → Nat → State → Res (Nat × Nat × State)
  | [], done, lost, s => .ok (done, lost, s)
  | u :: us, done, lost, s =>
    match s.ctx? ctx with
    | none => .ok (done, lost, s)
    | some x => do
      let s1 := s.modCtx ctx (fun y => { y with oseq := Map.set 0 y.oseq (u.kind * 2 ^ 16 + u.place) (y.nextOseq u) })
      let ix := done + lost
      let va := (descStop x.desc + 64 * (ix + 1)) % 2 ^ 64
      if descStopSize x.desc < 64 * (ix + 2) ∨ (← s1.meetsPoison x va 64) = true then State.stopRecords ctx rs us done (lost + 1) s1 else
      match ← caught (s1.partWrite ctx x va (stopBytes x.hseq.toNat (x.nextOseq u) u (u.origin rs) (s.progress ctx u))) with
      | .ok t => State.stopRecords ctx rs us (done + 1) lost t
      | .error _ => State.stopRecords ctx rs us done (lost + 1) s1

/-- Write the header and send the halt event (R377, R378). -/
def State.stopHeader (s : State) (ctx : Nat) (x : Context) (done lost : Nat) : Res State := do
  let bytes := leBytes 8 x.hseq.toNat ++ leBytes 8 done ++ leBytes 8 lost ++ leBytes 8 1 ++ leBytes 32 0
  let event (b : Nat) : EventRec := { kind := 3, ctx := some ctx, a := x.hseq, b := BitVec.ofNat 64 b }
  if descStopSize x.desc < 64 then .ok (s.sendEvent (event (1 + done * 2 ^ 32))) else
  match ← caught (s.partWrite ctx x (descStop x.desc) bytes) with
  | .ok t => .ok (t.sendEvent (event 0))
  | .error _ => .ok (s.sendEvent (event (1 + done * 2 ^ 32)))

/-! ## What happens when every unit has stopped (R377) -/

/-- The resident packs of a context. -/
def State.residentPacks (s : State) (ctx : Nat) : List Pack := s.packs.filter (fun p => p.ctx == ctx && p.status == .running)

/-- The copy commands of a context that a halt has stopped at a segment boundary (R376). -/
def State.haltCopies (s : State) (ctx : Nat) : State :=
  (s.residentPacks ctx).foldl (fun t p => t.modCore p.core (fun k => { k with copies := k.copies.map (fun c =>
    if c.pack = p.id ∧ c.phase = .running ∧ c.next < cdElems c.desc then { c with phase := .stopped } else c) })) s

/-- Give each resident pack a record slot, as far as there are any. -/
def State.haltSlots (ctx : Nat) : List Nat → State → State
  | [], s => s
  | id :: ids, s =>
    match s.pack? id, (s.ctx? ctx).bind Context.freeSlot with
    | some p, some slot =>
      let r : Record := { slot := slot, scrIn := true, saved := (s.ownTiles p).map (fun t => t.2), tres := [] }
      State.haltSlots ctx ids ((s.modPack id (fun q => { q with record := some r })).modCtx ctx
        (fun y => { y with records := y.records ++ [slot] }))
    | _, _ => State.haltSlots ctx ids s

/-- Write the halted record of a pack: `false` where it has no slot, or the park area does not take it. -/
def State.haltRecord (s : State) (x : Context) (p : Pack) : Res (State × Bool) :=
  match p.record with
  | none => .ok (s, false)
  | some r => do
    match ← caught (s.recordFrames x r.slot .store) with
    | .error _ => .ok (s, false)
    | .ok fs =>
      let all (_ : Nat) : Bool := true
      let mine := (s.ownTiles p).map (fun t => (t, ((s.core p.core).tiles.getD t.1 {}).state))
      let s1 := mine.foldl (fun u t => (u.countTile t.2 all).putTile p t.1.2 t.1.1 (t.2.found all)) (s.detectWindow p [(0, pktWindow p.pkt)])
      let tiles := mine.flatMap (fun t => tileParts t.1.2 (t.2.found all))
      .ok (s1.writeParts fs (s.packParts x p r .halted ++ s.scratchParts p ++ tiles), true)

/-- Write the halted records of packs; the result counts those that are lost. -/
def State.haltRecords (ctx : Nat) : List Nat → Nat → State → Res (Nat × State)
  | [], lost, s => .ok (lost, s)
  | id :: ids, lost, s =>
    match s.pack? id, s.ctx? ctx with
    | some p, some x => do
      let (t, ok) ← s.haltRecord x p
      State.haltRecords ctx ids (if ok then lost else lost + 1) t
    | _, _ => State.haltRecords ctx ids lost s

/-- Packs leave their cores; their records stay in their slots. -/
def State.dropPacks (s : State) (ids : List Nat) : State :=
  ids.foldl (fun t id => match t.pack? id with
    | some p => t.removePack { p with record := none }
    | none => t) s

/-- The commands and steps of a context end where they stand, with their locks, spill segments and waiting requests. -/
def State.dropCommands (s : State) (ctx : Nat) : State :=
  let s1 := s.leaveQueues (s.ofContext ctx)
  { s1 with
    requests := s1.requests.filter (fun r => !s.ofContext ctx r.owner)
    colls := s1.colls.filter (fun c => c.ctx != ctx)
    offers := s1.offers.filter (fun o => o.ctx != ctx)
    cores := (s1.cores.map (fun k => k.1)).foldl (fun m n => Map.set {} m n
      (let k := Map.get {} m n
       { k with
         copies := k.copies.filter (fun c => c.ctx != ctx), nmcs := k.nmcs.filter (fun c => c.ctx != ctx)
         mats := k.mats.filter (fun c => c.ctx != ctx)
         locks := k.locks.filter (fun e => match e.2 with | some l => l.ctx != ctx | none => true) })) s1.cores }

/-- Every launch of a context that is not complete completes with a status, in order (R21, R377). -/
def State.endLaunches (ctx status : Nat) : List Launch → State → Res State
  | [], s => .ok s
  | l :: ls, s => do State.endLaunches ctx status ls (← s.completeLaunch ctx l status false)

/-- A pack of the context still has an access in flight that can be performed now. -/
def State.draining (s : State) (ctx : Nat) : Bool :=
  match s.ctx? ctx with
  | none => false
  | some x => (s.residentPacks ctx).any (fun p => p.seats.any (fun iw => iw.2.flight.any (fun f =>
      !f.done && (match f.kind with | .engine _ => false | _ => true) && iw.2.mayPerform f &&
      !f.waits.any (s.uncompleted p.core p.id iw.1) && !s.waitsForPage x f.kind && !s.meetsHeldAtomic f)))

/-- The driver closes a context: its channels are closed and their unread packets dropped (R377), it exists no more, and another that
shares its partition takes over a slice that it had (R16). -/
def State.removeContext (s0 : State) (ctx : Nat) : State :=
  let s := match s0.ctx? ctx with
    | some x => if x.inSlice then (match s0.setCtx ctx none |>.nextSharer ctx x with | some c => s0.startSlice c | none => s0) else s0
    | none => s0
  let s1 := s.setCtx ctx none
  let close (c : Channel) : Channel := if c.ctl.toNat % 16 = ctx then { c with ctl := c.ctl &&& ~~~(1#64 <<< 13), rd := c.wr } else c
  { s1 with
    packs := s1.packs.filter (fun p => p.ctx != ctx)
    collLog := s1.collLog.filter (fun e => e.ctx != ctx)
    mgmt := { s1.mgmt with channels := s1.mgmt.channels.foldl (fun m c => Map.set {} m c.1 (close c.2)) s1.mgmt.channels } }

/-- HALT_SETTLE (R377). Where the halt comes from CTXDESTROY the launches complete with DISCARD and the context is destroyed. -/
def execHaltSettle (ctx : Nat) (s : State) : Host.Outcome State Fault Refusal :=
  match s.ctx? ctx with
  | none => .next s
  | some x =>
    match x.halt with
    | .raised us rs =>
      if us.any (fun u => !u.stopped) || s.draining ctx then .next s else
      let destroy := rs.any (fun r => r.source == .host)
      let ids := (s.residentPacks ctx).map (fun p => p.id)
      s.eventOut (do
        let (lost, s1) ← State.haltRecords ctx ids 0 (State.haltSlots ctx ids (s.haltCopies ctx))
        let (done, dropped, s2) ← State.stopRecords ctx rs us 0 0 s1
        let s3 := (s2.dropPacks ids).dropCommands ctx
        let s4 ← State.endLaunches ctx (if destroy then 6 else 5) x.launches s3
        let s5 ← s4.stopHeader ctx x done (lost + dropped)
        let s6 := s5.modCtx ctx (fun y => { y with halt := .halted })
        .ok (if destroy then
            let s7 := s6.removeContext ctx
            { s7 with mgmt := { s7.mgmt with busy := false, result := 0 } }
          else s6))
    | _ => .next s

/-! ## Uncorrectable errors in control state, and the die link -/

/-- REGISTER_UE (R391): the error is counted; a pack with IDEM = 1, or a wave whose lanes are all clean, is discarded and starts
again; every other UE halts the context. -/
def execRegisterUe (pack warp : Nat) (s : State) : Host.Outcome State Fault Refusal :=
  match s.pack? pack with
  | none => .next s
  | some p =>
    if p.status ≠ .running then .next s else
    let s1 := s.countUe 0x3028
    if (pktIdem p.pkt && !p.wave) || p.cleanWave then s1.eventOut (s1.discard p)
    else match p.warps[warp]? with
      | some w =>
        .next ((s1.modWarp pack warp (fun u => { u with preHeld := true })).raiseHalt p.ctx (raiseRec p w .ue (causeCode .ue) w.pc))
      | none => .next s

/-- DIE_LINK_LOST (R395): every context halts with SOURCE UE, and PSTAT.FATAL is set. -/
def execDieLinkLost (s : State) : Host.Outcome State Fault Refusal :=
  let r : RaiseRec := { source := .ue, core := 0, pack := 0, role := .copy, warp := 0, cause := BitVec.ofNat 6 (causeCode .ue), xpc := 0, kind := 5 }
  let s1 := (upTo 16).foldl (fun t c => t.raiseHalt c r) s
  .next { s1 with mgmt := { s1.mgmt with fatal := true } }

/-! ## The driver's commands on contexts (R404, R406, R407) -/

/-- The result of a command: 0 done, 1 busy, 2 bad argument, 3 refused. -/
def State.result (s : State) (r : BitVec 8) : State := { s with mgmt := { s.mgmt with busy := false, result := r } }

/-- The partition of a descriptor stands with those of the contexts that exist (R16). -/
def State.partitionOk (s : State) (d : BitVec 2048) : Bool :=
  (upTo 16).all (fun c => match s.ctx? c with
    | some x => descPart x.desc == descPart d || (upTo 42).all (fun i => !(descHas x.desc i && descHas d i))
    | none => true)

/-- CTXCREATE (R406): the descriptor is copied from local memory. -/
def State.createContext (s : State) (addr : Nat) (c : Nat) : State :=
  if addr % 64 ≠ 0 ∨ Config.dramEnd < addr + 256 then s.result 2 else
  let d : BitVec 2048 := recOf 2048 (bytesAt s.dram.read addr 256)
  if descPart d = 0 then s.result 2 else
  if (s.ctx? c).isSome ∨ s.partitionOk d = false then s.result 3 else
  let shared := (upTo 16).any (fun i => match s.ctx? i with
    | some y => descPart y.desc == descPart d && y.inSlice
    | none => false)
  let x : Context := { desc := d, inSlice := !shared, sliceAt := s.cycle, served := s.fairServed c { desc := d } }
  let s1 := s.setCtx c (some x)
  { s1 with mgmt := { s1.mgmt with busy := false, result := 0, step := if s1.mgmt.step = 6 ∨ s1.mgmt.step = 7 then 8 else s1.mgmt.step } }

/-- A context that may run again has the slice of its partition if no other holds it (R16). -/
def State.freeSlice (s : State) (c : Nat) : State :=
  match s.ctx? c with
  | none => s
  | some x =>
    if (upTo 16).any (fun i => (s.ctx? i).any (fun y => y.inSlice && descPart y.desc == descPart x.desc)) then s else s.startSlice c

/-- CTXCLEAR (R407): a halted context loses its records and tasks, and accepts launches again. -/
def State.clearContext (s : State) (c : Nat) : State :=
  match s.ctx? c with
  | none => s.result 3
  | some x =>
    if x.halt ≠ .halted then s.result 3 else
    let s1 := (s.packs.filter (fun p => p.ctx == c)).foldl (fun t p => t.removePack p) s
    (s1.modCtx c (fun y => { y with
      records := [], kennels := [], overflow := [], poolUsed := 0, launches := y.launches.filter (fun l => l.wave.isNone)
      deps := y.deps.foldl (fun m e => Map.set {} m e.1 { e.2 with pending := [] }) y.deps
      served := max y.served (s1.fairServed c y), hseq := y.hseq + 1, halt := .clear })).freeSlice c |>.result 0

/-- CTXDESTROY (R404): a context that is not halted halts first, with SOURCE host, and is destroyed once it has halted; the
command is BUSY until then. -/
def State.destroyContext (s : State) (c : Nat) : State :=
  match s.ctx? c with
  | none => s.result 3
  | some x =>
    match x.halt with
    | .halted =>
      (((s.packs.filter (fun p => p.ctx == c)).foldl (fun t p => t.removePack p) s).removeContext c).result 0
    | _ =>
      let r : RaiseRec := { source := .host, core := 0, pack := 0, role := .copy, warp := 0, cause := 0, xpc := 0, kind := 5 }
      { s.raiseHalt c r with mgmt := { s.mgmt with busy := true, result := 1 } }

end Sys2Proof.Machine
end

