-- ==== Sys2Proof/Machine/Links.lean ====
section
/-! DEFINITION. The links to peers: send allowance (R309, R42), ports and the loss of a peer (R397), negotiation (R400,
R401), and the requests of peers that this part serves (R136, R398, R399), with the blocks they carry (R151, R153). -/

namespace Sys2Proof.Machine

/-! ## Send allowance (R309, R42) -/

/-- The warps at the head of a peer's queue that the allowance covers, one after another: each has its units reserved and is ready to
issue again. An engine at the head sends when it next turns to its request. -/
def Peer.readyWarps : Nat → Peer → Peer
  | 0, e => e
  | n + 1, e =>
    match e.queue with
    | (.warp p w, units) :: rest =>
      if units + (e.reserved.map (fun r => r.2)).sum ≤ e.allow then
        Peer.readyWarps n { e with reserved := e.reserved ++ [(.warp p w, units)], queue := rest }
      else e
    | _ => e

/-- A peer's queue moved as far as it can. -/
def Peer.readyHead (e : Peer) : Peer := e.readyWarps e.queue.length

/-- Every peer's queue moved as far as it can. -/
def State.readyHeads (s : State) : State :=
  if s.peers.any (fun p => decide (p.2.readyHead ≠ p.2)) then
    { s with peers := s.peers.foldl (fun m p => Map.set {} m p.1 p.2.readyHead) s.peers }
  else s

/-- ALLOWANCE_RETURN (R309): never above 1,023, and held at 0 while the peer is not UP (R401). -/
def execAllowanceReturn (peer : BitVec 10) (units : Nat) (s : State) : Host.Outcome State Fault Refusal :=
  let e := s.peer peer.toNat
  .next (if peerState e = 2 then (s.setPeer peer.toNat { e with allow := min 1023 (e.allow + units) }).readyHeads else s)

/-! ## Entries of the peer table (R400, R401) -/

/-- An entry from its fields. -/
def peerEntry (valid : Bool) (state fabid proto decode nmcv recv : Nat) (coll : Bool) : BitVec 64 :=
  BitVec.ofNat 64 ((if valid then 2 ^ 63 else 0) + state % 4 * 2 ^ 61 + fabid % 1024 * 2 ^ 30 + proto % 256 * 2 ^ 22 +
    decode % 16 * 2 ^ 18 + nmcv % 16 * 2 ^ 14 + recv % 256 * 2 ^ 6 + (if coll then 2 ^ 5 else 0))

/-- FABID of an entry. -/
def entryFabid (e : BitVec 64) : Nat := e.toNat / 2 ^ 30 % 1024

/-- A peer leaves UP: its allowance is held at 0. -/
def Peer.down (e : Peer) (state : Nat) : Peer := { e with entry := withPeerState e.entry state, allow := 0, reserved := [] }

/-- The events that end an operation whose peer is lost (R397). -/
def lostReply (pid wi : Nat) (f : Flight) : Option Instr :=
  match f.kind with
  | .load _ _ _ _ _ | .atomic _ _ _ | .cas _ _ _ | .uload _ _ => some (.laneLoadReply pid wi f.id .lost)
  | .store _ _ _ _ => some (.laneStorePerformed pid wi f.id .lost)
  | .rload _ _ _ _ | .rstore _ _ _ _ | .ratomic _ _ _ _ _ _ => some (.remoteReply pid wi f.id .lost)
  | _ => none

/-- The event of a near-memory command with a reply. -/
def NmcCmd.event (c : NmcCmd) (reply : RemoteReply) : Instr :=
  match nbOp c.block with
  | 1 => .nmx c.core c.tag (c.left.headD 0) reply
  | 2 => .ncas c.core c.tag reply
  | 3 => .nenq c.core c.tag reply
  | 4 => .nchase c.core c.tag reply
  | _ => .nfill c.core c.tag (c.left.headD 0) reply

/-- The event that ends what made a request, its peer having no answer to come (R397): a collective step ends by itself, and a request
of no operation in flight is the read of a launch packet. -/
def State.lostAsk (s : State) (r : Request) : Option Instr :=
  match r.owner with
  | .warp pid wi => (match s.flight? pid wi r.flight with
    | some (_, _, _, f) => if s.peersGone f.kind then lostReply pid wi f else none
    | none => some (.laneLoadReply pid wi r.flight .lost))
  | .engine k =>
    let core := engineCore k
    let tag := engineTag k
    if (s.core core).copies.any (fun c => c.tag == tag) then some (.copySegment core tag .lost)
    else if (s.core core).mats.any (fun c => c.tag == tag) then some (.adapterFillArrival core tag (k / 2 ^ 64 - 1) .lost)
    else ((s.core core).nmcs.find? (fun c => c.tag == tag)).map (fun c => c.event .lost)

/-- The events that end the requests to peers that have no answer to come. -/
def State.lostEvents (s : State) : List Instr :=
  ((s.requests.filter (fun r => (s.peer r.peer).gone)).filterMap s.lostAsk).eraseDups

/-- A peer is LOST (R397): a peer event is sent, and the requests that it has not answered end. What it has offered is dropped, and what
it owed to steps that have ended does not come. Of an entry that is not valid any more only the requests end. -/
def State.losePeer (s : State) (p : Nat) : Res State :=
  let e := s.peer p
  let s1 : State := if e.gone then s
    else (s.setPeer p { e.down 3 with queue := [] }).sendEvent { kind := 4, ctx := none, a := BitVec.ofNat 64 p, b := 3 }
  let s2 : State := { s1 with
    offers := s1.offers.filter (fun o => o.peer != p)
    collLog := s1.collLog.map (fun c => if c.peer = p then { c with met := true } else c) }
  State.settleSteps { s2 with agenda := s2.lostEvents ++ s2.agenda }

/-- Several peers are lost. -/
def State.losePeers : List Nat → State → Res State
  | [], s => .ok s
  | p :: ps, s => do State.losePeers ps (← s.losePeer p)

/-- PEER_CAPABILITIES (R401): the lesser of each version, and the modes that both sides decode. The part offers protocol 2, modes
1 to 4, NMC version 1, record version 2 and collective steps. -/
def execPeerCapabilities (peer : BitVec 10) (proto : BitVec 8) (decode nmcv : BitVec 4) (recv : BitVec 8) (coll : Bool) (s : State) :
    Host.Outcome State Fault Refusal :=
  let e := s.peer peer.toNat
  if peerValid e = false ∨ (peerState e ≠ 1 ∧ peerState e ≠ 2) then .next s else
  let up : Peer := { e with
    entry := peerEntry true 2 (entryFabid e.entry) (min 2 proto.toNat) (decode.toNat &&& 15) (min 1 nmcv.toNat) (min 2 recv.toNat) coll
    allow := if peerState e = 2 then e.allow else 1023 }
  (s.setPeer peer.toNat up).readyHeads.eventOut (State.settleSteps (s.setPeer peer.toNat up).readyHeads)

/-- PEER_ENTRY_WRITE (R400, R401): the driver writes VALID and FABID; setting VALID starts negotiation, and clearing it takes the
entry back to its reset value but for FABID. -/
def State.writePeerEntry (s : State) (p : Nat) (v : BitVec 64) : State :=
  let e := s.peer p
  let fab := entryFabid v
  if v.getLsbD 63 then
    if peerValid e then
      s.setPeer p { e with entry := (e.entry &&& ~~~(BitVec.ofNat 64 (1023 * 2 ^ 30))) ||| BitVec.ofNat 64 (fab * 2 ^ 30) }
    else s.setPeer p { e with entry := peerEntry true 1 fab 0 0 0 0 false, allow := 0, reserved := [] }
  else s.setPeer p { e with entry := peerEntry false 0 fab 0 0 0 0 false, allow := 0, reserved := [], queue := [] }

/-! ## Ports (R397, R401) -/

/-- A port of a peer's links reaches it, or does not. -/
def Peer.linked (e : Peer) (port : Nat) (on : Bool) : Peer :=
  { e with reach := if on then e.reach ||| (1#16 <<< port) else e.reach &&& ~~~(1#16 <<< port) }

/-- PORT_UP (R401): a port that may train comes up, and negotiation starts with every peer that it reaches and that is DOWN or LOST. -/
def execPortUp (port : PortLink) (s : State) : Host.Outcome State Fault Refusal :=
  let m := s.mgmt
  if m.portEn.getLsbD port.port.toNat = false ∨ m.ready = false then .next s else
  let s1 : State := { s with mgmt := { m with
    portUp := m.portUp ||| (1#16 <<< port.port.toNat), step := if m.step = 6 then 7 else m.step } }
  let up (p : Nat) (e : Peer) : Peer :=
    let e1 := e.linked port.port.toNat (port.reach.any (fun q => q.toNat == p))
    if port.reach.any (fun q => q.toNat == p) && peerValid e && (peerState e == 0 || peerState e == 3) then e1.down 1 else e1
  .next ((s1.peers.map (fun p => p.1) ++ port.reach.map (fun q => q.toNat)).eraseDups.foldl (fun t p => t.setPeer p (up p (t.peer p))) s1)

/-- A request whose port is down takes another that reaches its peer, if there is one (R397). -/
def State.reroute (s : State) (r : Request) : State :=
  let e := s.peer r.peer
  if (s.mgmt.ports e).contains r.port ∨ s.mgmt.ports e = [] then s else
  let port := s.mgmt.portFor e r.va
  { s with requests := s.requests.map (fun (q : Request) => if q.id = r.id then { q with port := port } else q) }.setPeer r.peer
    { e with ports := Map.set 16 e.ports (r.va / 256) port }

/-- The ports are as `m` says, and no link reaches the peers `cut` (R397): requests take other ports, and a peer that no port reaches
any more is lost. -/
def State.portsChange (s : State) (m : Mgmt) (cut : List Nat) : Res State :=
  let s1 : State := { s with mgmt := m, peers := s.peers.map (fun p => (p.1, if cut.contains p.1 then { p.2 with reach := 0 } else p.2)) }
  State.losePeers ((s.peers.filter (fun p => s.mgmt.ports p.2 != [] && m.ports (s1.peer p.1) == [])).map (fun p => p.1))
    (s1.requests.foldl (fun t r => t.reroute r) s1)

/-- PORT_DOWN (R397). -/
def execPortDown (port : BitVec 4) (lost : List (BitVec 10)) (s : State) : Host.Outcome State Fault Refusal :=
  s.eventOut (s.portsChange { s.mgmt with portUp := s.mgmt.portUp &&& ~~~(1#16 <<< port.toNat) } (lost.map BitVec.toNat))

/-- DL_REPLAY (R396, R412): the flit is sent again as it is, and the replay is counted. -/
def execDlReplay (port : BitVec 4) (s : State) : Host.Outcome State Fault Refusal :=
  .next (if s.mgmt.portUp.getLsbD port.toNat then s.bumpRas 0x3038 else s)

/-! ## Requests without an answer (R397, R399) -/

/-- REQUEST_REISSUE (R397): a request that REQTO has passed is sent again, perhaps by another port; after 8 reissues, or with no
port, its peer is lost. -/
def execRequestReissue (req port : Nat) (s : State) : Host.Outcome State Fault Refusal :=
  match s.requests.find? (fun r => r.id == req) with
  | none => .next s
  | some r =>
    let ports := s.mgmt.ports (s.peer r.peer)
    if 8 ≤ r.tries ∨ ports = [] then s.eventOut (s.losePeer r.peer) else
    if ports.contains port = false then .next s else
    let again (q : Request) : Request := if q.id = req then { q with tries := q.tries + 1, port := port } else q
    .next ({ s with requests := s.requests.map again }.bumpRas 0x3040)

/-- RETRY_REISSUE (R399): a target whose reply cache was full has answered RETRY; the request is sent again under its tag, by the port
of its block (R397). RETRY is an answer, so the reissues without one count from zero again; with no port, the peer is lost. -/
def execRetryReissue (req : Nat) (s : State) : Host.Outcome State Fault Refusal :=
  match s.requests.find? (fun r => r.id == req) with
  | none => .next s
  | some r =>
    let e := s.peer r.peer
    if r.cls = .plain then .next s
    else if s.mgmt.ports e = [] then s.eventOut (s.losePeer r.peer)
    else
      let port := s.mgmt.portFor e r.va
      .next ({ s with requests := s.requests.map (fun (q : Request) => if q.id = req then { q with tries := 0, port := port } else q) }.setPeer
        r.peer { e with ports := Map.set 16 e.ports (r.va / 256) port })

/-! ## Requests of peers (R136, R398, R399) -/

/-- The places of bytes of a peer's request: the target's own translation, in local pages. -/
def State.servePlaces (s : State) (x : Context) (use : Use) (va n : Nat) : Res (Option (List Place)) := do
  match ← caught ((upTo n).mapM (fun i => do
      let (_, p) ← s.translate x use ((va + i) % 2 ^ 64)
      if p.isDram then .ok p else raiseAt .fabric va)) with
  | .ok ps => .ok (some ps)
  | .error _ => .ok none

/-- A read-modify-write of `n` bytes for a peer: `none` while the page migrates, and the request is held (R194). -/
def State.serveAtomic (s : State) (c : Nat) (x : Context) (va n : Nat) (newOf : Nat → Option Nat) : Res (Option (State × Answer)) := do
  if va % n ≠ 0 then .ok (some (s, .fabric)) else
  match ← s.servePlaces x .atomic va n with
  | none => .ok (some (s, .fabric))
  | some ps =>
    if s.migrating x va then .ok none else
    let s1 := s.detect ps
    if ps.any s.badPlace then .ok (some (s1, .poison)) else
    let old := leNat (ps.map s1.homeByte)
    let bs := leBytes n old
    match newOf old with
    | some v => .ok (some (s1.performBytes c (wholeBytes va ps (leBytes n v)), .data bs))
    | none => .ok (some (s1, .data bs))

/-- A near-memory command that a peer sent (R302, R305): all its blocks, then STATUS and the results. -/
def State.serveNear (x : Context) (c : NmcCmd) : List Nat → State → Res (Option (State × Answer))
  | [], s => .ok (some (s, .data (leBytes 8 (blocksEnd c.bad).1 ++ (blocksEnd c.bad).2)))
  | b :: bs, s => do
    let (t, w) ← match nbOp c.block with
      | 1 => nmxWork s x c b
      | 2 => ncasWork s x c
      | 3 => nenqWork s x c
      | 4 => nchaseWork s x c
      | _ => nfillWork s x c b
    match w with
    | .wait => .ok none
    | .fault _ _ _ => .ok (some (t, .fabric))
    | .ended st res => .ok (some (t, .data (leBytes 8 st ++ res)))
    | .block i bad => State.serveNear x { c with bad := badBlocks c.bad i bad } bs t

/-- Write blocks that a peer sent in their stored modes (R153): each is expanded at its home. One that does not decode is poison
there, as an uncorrectable error of the block is, and is counted (R151, R412). -/
def State.serveBlocks (c va : Nat) : List (BitVec 4 × List (BitVec 8)) → List Place → State → State
  | [], _, s => s
  | (mode, bs) :: rest, ps, s =>
    let here := ps.take 256
    State.serveBlocks c (va + 256) rest (ps.drop 256) (match expandBlock mode bs with
      | some ys => s.performBytes c (wholeBytes va here ys)
      | none => (s.performBytes c (wholeBytes va here (here.map s.homeByte)) true).countUe 0x3008)

/-- A request of more than 256 bytes: no part sends one (R396). -/
def oversize : PeerReq → Bool
  | .read n => decide (256 < n)
  | .write bs => decide (256 < bs.length)
  | .blocks bs => decide (1 < bs.length)
  | _ => false

/-- Perform a peer's request in a context: `none` while it must wait for a page that migrates (R194). -/
def State.serve (s : State) (c : Nat) (x : Context) (va : Nat) (req : PeerReq) : Res (Option (State × Answer)) :=
  match req with
  | .read n => do
    match ← s.servePlaces x .load va n with
    | none => .ok (some (s, .fabric))
    | some ps =>
      if s.atomicHeldAt ps then .ok none
      else .ok (some (s.detect ps, if ps.any s.homeBad then .poison else .data (ps.map s.homeByte)))
  | .write bs => do
    match ← s.servePlaces x .store va bs.length with
    | none => .ok (some (s, .fabric))
    | some ps =>
      if s.noRoom x (wholeBytes va ps bs) then .ok none
      else .ok (some (s.performBytes c (wholeBytes va ps bs), .data []))
  | .blocks bs => do
    match ← s.servePlaces x .store va (256 * bs.length) with
    | none => .ok (some (s, .fabric))
    | some ps =>
      if s.noRoom x (wholeBytes va ps (List.replicate ps.length 0)) then .ok none
      else .ok (some (State.serveBlocks c va bs ps s, .data []))
  | .atomic op wide v =>
    let n := if wide then 8 else 4
    s.serveAtomic c x va n (fun old => some (atomicNew op.toNat (8 * n) old (v.toNat % 2 ^ (8 * n))))
  | .cas wide exp new =>
    let n := if wide then 8 else 4
    s.serveAtomic c x va n (fun old => if old = exp.toNat % 2 ^ (8 * n) then some (new.toNat % 2 ^ (8 * n)) else none)
  | .near b e expected => do
    if nmcBad b e then .ok (some (s, .fabric)) else
    match ← s.nmcHome x (nmcRanges b) with
    | .loc =>
      let k : NmcCmd := { tag := 0, core := 336, pack := 0, ctx := c, warp := 0, pc := 0, block := b, expr := e, expected := expected,
                          fence := 0, target := 0, handle := 0, waits := [], left := upTo (nbCnt b + 1), bad := 0, phase := .running }
      State.serveNear x k (if nbOp b = 1 ∨ nbOp b = 5 then upTo (nbCnt b + 1) else [0]) s
    | _ => .ok (some (s, .fabric))

/-- The address and the bytes of a peer's atomic. -/
def atomicSpan (va : Nat) : PeerReq → Option (Nat × Nat)
  | .atomic _ wide _ => some (va, if wide then 8 else 4)
  | .cas wide _ _ => some (va, if wide then 8 else 4)
  | .near b _ _ => if nbOp b = 2 then some (nbDst b, 8 * (nbCnt b + 1)) else if nbOp b = 3 then some (nbDst b, 64) else none
  | _ => none

/-- A peer's atomic on a migrating page joins the requests that its slice holds for the page, once (R194). -/
def State.holdPeer (s : State) (src : BitVec 10) (fctx : BitVec 12) (tag : BitVec 16) (cls : BitVec 2) (va : Nat) (req : PeerReq) : Res State :=
  match s.byFctx fctx.toNat, atomicSpan va req with
  | some (c, x), some (a, n) => do
    if cls = 0 ∨ s.migrating x a = false then .ok s else
    if x.held.any (fun r => match r with | .agent (.peer g _ t _ _) _ _ => g == src && t == tag | _ => false) then .ok s else
    match ← s.servePlaces x .atomic a n with
    | some ps =>
      let r : HeldReq := .agent (.peer src fctx tag cls req) a (localPas ps)
      .ok (if s.sliceFull r.lines then s else s.holdReq c r)
    | none => .ok s
  | _, _ => .ok s

/-- PEER_REQUEST (R398, R399): a request of class 1 to 3 is performed once; `retired` are tags whose replies the sender holds. -/
def execPeerRequest (src : BitVec 10) (fctx : BitVec 12) (tag : BitVec 16) (cls : BitVec 2) (va : BitVec 64) (req : PeerReq)
    (retired : List (BitVec 16)) (s0 : State) : Host.Outcome State Fault Refusal :=
  let s : State := { s0 with replies := s0.replies.filter (fun r => !(r.src == src.toNat && retired.contains (BitVec.ofNat 16 r.tag))) }
  let entry (a : Answer) : ReplyEntry := { src := src.toNat, tag := tag.toNat, reply := a }
  if oversize req then .next s0 else
  match (if cls = 0 then none else s.replies.find? (fun r => r.src == src.toNat && r.tag == tag.toNat)) with
  | some r => .next { s with answered := some r }
  | none =>
    if cls ≠ 0 ∧ 16384 ≤ s.replies.length then .next ({ s with answered := some (entry .retry) }.bumpRas 0x3048) else
    s0.eventOut (do
      let r ← match s.byFctx fctx.toNat with
        | none => .ok (some (s, Answer.fabric))
        | some (c, x) => s.serve c x va.toNat req
      match r with
      | none => s0.holdPeer src fctx tag cls va.toNat req
      | some (t, a) => .ok { t with
          answered := some (entry a)
          replies := if cls = 0 then t.replies else t.replies ++ [entry a] })

end Sys2Proof.Machine
end

