-- ==== Sys2Proof/Machine/Management.lean ====
section
/-! DEFINITION. The management space (R404, R405): its commands, submission channels (R408), events and bulk DMA (R409), power
(R411), RAS counters (R412), freeze and read-out (R413), attestation (R415), and bring-up (R410, R414). -/

namespace Sys2Proof.Machine

/-! ## What the control node reads and writes -/

/-- PSTAT (R405). -/
def Mgmt.pstat (m : Mgmt) : BitVec 64 :=
  let bit (b : Bool) (n : Nat) : Nat := if b then 2 ^ n else 0
  BitVec.ofNat 64 ((m.portUp &&& m.portEn).toNat * 2 ^ 32 + m.code % 256 * 2 ^ 16 + m.step % 16 * 2 ^ 8 +
    bit m.frozen 2 + bit m.fatal 1 + bit m.ready 0)

/-- PARTNO, STEPPING, ARCHREV and NBVSET in the encoding of IDENT (R405, R415). -/
def identWord : Nat := 0x5640 + 0xB0 * 2 ^ 16 + 2 * 2 ^ 24 + 6 * 2 ^ 32

/-- `n` bytes of host memory. -/
def State.hostBytes (s : State) (a n : Nat) : List (BitVec 8) := bytesAt s.hostMem.read a n

/-- Exactly `n` bytes. -/
def fixLen (n : Nat) (bs : List (BitVec 8)) : List (BitVec 8) := (upTo n).map (fun i => bs.getD i 0)

/-- A stop of every clock but the management block's: a command that needs another unit is refused (R413). -/
def State.commandable (s : State) (f : State) : State := if s.mgmt.frozen then s.result 3 else f

/-! ## Commands (R404) -/

/-- HOSTEV (R404): as `evset` or `evclr` on the events of a group. -/
def State.hostEvents (s : State) (c g : Nat) (set : Bool) (mask : BitVec 64) : State :=
  match s.ctx? c with
  | none => s.result 2
  | some _ => (if set then s.setEvents c (groupMask g mask) else s.clearEvents c (groupMask g mask)).result 0

/-- The largest DMA (R409). -/
def dmaMax : Nat := 2 ^ 30

/-- DMA (R409): start the transfer that a descriptor in host memory describes. -/
def State.startDma (s : State) (desc : Nat) : State :=
  let bs := s.hostBytes desc 32
  let d : Dma := { tag := BitVec.ofNat 64 (leNat (bs.drop 24)), host := leNat (bs.take 8), loc := leNat ((bs.drop 8).take 8),
                   len := leNat ((bs.drop 16).take 4), toPart := leNat ((bs.drop 20).take 1) % 2 == 1 }
  if d.len = 0 ∨ d.len % 256 ≠ 0 ∨ dmaMax < d.len ∨ Config.dramEnd < d.loc + d.len then s.result 2
  else ({ s with mgmt := { s.mgmt with dmas := s.mgmt.dmas ++ [d] } }).result 0

/-- FREEZE (R413): the attestation key and every boot secret are cleared, and the clocks stop. -/
def State.freezePart (s : State) : State :=
  ({ s with mgmt := { s.mgmt with frozen := true, secrets := false } }).result 0

/-- The signature, the public key and the body's digest of a firmware image as bytes. -/
def Firmware.sigBytes (f : Firmware) : List (BitVec 8) := leBytes 114 f.sig.toNat
def Firmware.keyBytes (f : Firmware) : List (BitVec 8) := leBytes 57 f.key.toNat
def Firmware.digestBytes (f : Firmware) : List (BitVec 8) := leBytes 64 f.digest.toNat

/-- The header, which holds the version, the target and the body's digest, and which the signature covers (R414). -/
def Firmware.header (f : Firmware) : List (BitVec 8) := Config.firmwareHeader f.version f.partNo f.step f.digestBytes

/-- The bytes of the running firmware image (R414): its header, signature, public key and body. -/
def Firmware.image (f : Firmware) : List (BitVec 8) := f.header ++ f.sigBytes ++ f.keyBytes ++ f.body

/-- Bytes 0 to 0x17D of the attestation report (R415). -/
def State.reportBody (s : State) (nonce : List (BitVec 8)) : List (BitVec 8) :=
  nonce ++ leBytes 8 identWord ++ leBytes 8 Config.serial.toNat ++ fixLen 64 Config.romDigest ++
  fixLen 64 (Config.shake256 s.mgmt.firmware.image) ++ leBytes 4 s.mgmt.firmware.version.toNat ++
  leBytes 4 (Config.fuseState s.mgmt.pwrlim).toNat ++ leBytes 166 0

/-- ATTEST (R415): refused once the key is cleared. -/
def State.attestTo (s : State) (nonce report : Nat) : State :=
  if s.mgmt.secrets = false then s.result 3 else
  let body := s.reportBody (s.hostBytes nonce 64)
  ({ s with hostMem := s.hostMem.writeBytes report (body ++ fixLen 114 (Config.ed448Sign body) ++ leBytes 16 0) }).result 0

/-- A command by its number (R404); another number is a bad argument. -/
def State.command (s : State) (op : Nat) : State :=
  let a0 := s.mgmt.marg0
  let a1 := s.mgmt.marg1.toNat
  match op with
  | 1 => s.commandable (s.createContext a0.toNat (a1 % 16))
  | 2 => s.commandable (s.destroyContext (a1 % 16))
  | 3 => s.commandable (s.clearContext (a1 % 16))
  | 4 => s.commandable (s.hostEvents (a1 % 16) (a1 / 2 ^ 8 % 4) (a1 / 2 ^ 12 % 2 == 1) a0)
  | 5 => s.commandable (s.startDma a0.toNat)
  | 6 => s.freezePart
  | 7 => s.attestTo a0.toNat a1
  | _ => s.result 2

/-- MCMD written after its arguments (R404): ignored while BUSY, and until bring-up has reached step 6 (R410). -/
def State.issueCommand (s : State) (op : Nat) (a0 a1 : BitVec 64) : State :=
  if s.mgmt.busy || !s.mgmt.ready then s
  else ({ s with mgmt := { s.mgmt with mcmd := BitVec.ofNat 8 op, marg0 := a0, marg1 := a1 } }).command op

/-- CTXCREATE (R406). -/
def execCtxcreate (desc : BitVec 64) (ctx : BitVec 4) (s : State) : Host.Outcome State Fault Refusal :=
  .next (s.issueCommand 1 desc (ctx.setWidth 64))

/-- CTXDESTROY (R404). -/
def execCtxdestroy (ctx : BitVec 4) (s : State) : Host.Outcome State Fault Refusal :=
  .next (s.issueCommand 2 0 (ctx.setWidth 64))

/-- CTXCLEAR (R407). -/
def execCtxclear (ctx : BitVec 4) (s : State) : Host.Outcome State Fault Refusal :=
  .next (s.issueCommand 3 0 (ctx.setWidth 64))

/-- MARG1 of HOSTEV. -/
def hostevArg (ctx : BitVec 4) (g : BitVec 2) (set : Bool) : BitVec 64 :=
  BitVec.ofNat 64 (ctx.toNat + g.toNat * 2 ^ 8 + (if set then 2 ^ 12 else 0))

/-- HOSTEV with set (R404): a release at system scope. -/
def execHostevSet (ctx : BitVec 4) (g : BitVec 2) (mask : BitVec 64) (s : State) : Host.Outcome State Fault Refusal :=
  .next (s.issueCommand 4 mask (hostevArg ctx g true))

/-- HOSTEV with clear (R404). -/
def execHostevClear (ctx : BitVec 4) (g : BitVec 2) (mask : BitVec 64) (s : State) : Host.Outcome State Fault Refusal :=
  .next (s.issueCommand 4 mask (hostevArg ctx g false))

/-- DMA (R409). -/
def execDma (desc : BitVec 64) (s : State) : Host.Outcome State Fault Refusal := .next (s.issueCommand 5 desc 0)

/-- DMA_COMPLETE (R409): the bytes have moved, raw, and the event is sent. -/
def execDmaComplete (dma : Nat) (s : State) : Host.Outcome State Fault Refusal :=
  match s.mgmt.dmas[dma]? with
  | none => .next s
  | some d =>
    let s1 := { s with mgmt := { s.mgmt with dmas := s.mgmt.dmas.eraseIdx dma } }
    let s2 := if d.toPart then
        let bs := wholeBytes d.loc ((upTo d.len).map (fun i => .dram (d.loc + i))) (s1.hostBytes d.host d.len)
        (s1.keepPrev bs).writeAll (rawBytes true bs)
      else { s1 with hostMem := s1.hostMem.writeBytes d.host ((upTo d.len).map (fun i => s1.homeByte (.dram (d.loc + i)))) }
    .next (s2.sendEvent { kind := 7, ctx := none, a := d.tag, b := 0 })

/-- FREEZE (R413). -/
def execFreeze (s : State) : Host.Outcome State Fault Refusal := .next (s.issueCommand 6 0 0)

/-- ATTEST (R415). -/
def execAttest (nonce report : BitVec 64) (s : State) : Host.Outcome State Fault Refusal := .next (s.issueCommand 7 nonce report)

/-! ## Submission channels (R408) -/

def State.channel (s : State) (c : Nat) : Channel := Map.get {} s.mgmt.channels c
def State.setChannel (s : State) (c : Nat) (x : Channel) : State :=
  { s with mgmt := { s.mgmt with channels := Map.set {} s.mgmt.channels c x } }

def Channel.valid (c : Channel) : Bool := c.ctl.getLsbD 13
def Channel.ctx (c : Channel) : Nat := c.ctl.toNat % 16
/-- LOG2N, 4 to 16. -/
def Channel.log2n (c : Channel) : Nat := min 16 (max 4 (c.ctl.toNat / 2 ^ 8 % 32))

/-- A write that the management block takes once bring-up has reached step 6 (R410). -/
def State.whenReady (s : State) (t : State) : Host.Outcome State Fault Refusal := .next (if s.mgmt.ready then t else s)

/-- CHWR_WRITE (R408): an index that would overrun the ring, or move back, is ignored and sets OVR. -/
def execChwrWrite (c : BitVec 6) (val : BitVec 64) (s : State) : Host.Outcome State Fault Refusal :=
  let x := s.channel c.toNat
  let new : BitVec 32 := val.setWidth 32
  s.whenReady (s.setChannel c.toNat
    (if 2 ^ x.log2n < (new - x.rd).toNat ∨ (new - x.rd).toNat < (x.wr - x.rd).toNat then { x with stat := x.stat ||| 1 }
     else { x with wr := new }))

/-- CHSTAT_WRITE (R408): a 1 clears a bit. -/
def execChstatWrite (c : BitVec 6) (val : BitVec 64) (s : State) : Host.Outcome State Fault Refusal :=
  let x := s.channel c.toNat
  s.whenReady (s.setChannel c.toNat { x with stat := x.stat &&& ~~~(val.setWidth 2) })

/-- CHCTL_WRITE (R408): ignored while WR ≠ RD. -/
def execChctlWrite (c : BitVec 6) (val : BitVec 64) (s : State) : Host.Outcome State Fault Refusal :=
  let x := s.channel c.toNat
  s.whenReady (if x.wr = x.rd then s.setChannel c.toNat { x with ctl := val &&& 0x3F0F } else s)

/-- CHBASE_WRITE (R408): ignored while WR ≠ RD; the ring is 256-byte aligned. -/
def execChbaseWrite (c : BitVec 6) (val : BitVec 64) (s : State) : Host.Outcome State Fault Refusal :=
  let x := s.channel c.toNat
  s.whenReady (if x.wr = x.rd then s.setChannel c.toNat { x with base := val &&& ~~~(0xFF#64) } else s)

/-- CHANNEL_SLOT_READ (R408): the slot at RD is copied and accepted, and RD advances; a slot that cannot be read sets FAULT. While
the context is halted its channels are not read (R377). -/
def execChannelSlotRead (c : BitVec 6) (s : State) : Host.Outcome State Fault Refusal :=
  let k := s.channel c.toNat
  if k.valid = false ∨ k.wr = k.rd ∨ k.stat.getLsbD 1 = true then .next s else
  match s.ctx? k.ctx with
  | none => .next s
  | some x =>
    if x.halt ≠ .clear then .next s else
    s.eventOut (do
      match ← caught (s.partRead x ((k.base.toNat + 256 * (k.rd.toNat % 2 ^ k.log2n)) % 2 ^ 64) 256) with
      | .ok bs => (s.setChannel c.toNat { k with rd := k.rd + 1 }).acceptLaunch k.ctx (recOf 2048 bs)
      | .error _ =>
        let st := k.stat ||| 2
        .ok ((s.setChannel c.toNat { k with stat := st }).sendEvent
          { kind := 8, ctx := some k.ctx, a := BitVec.ofNat 64 c.toNat, b := st.setWidth 64 }))

/-! ## Registers (R405) -/

/-- EVRRD_WRITE (R405): a value that would pass EVRWR is ignored; room for held events is used at once. -/
def execEvrrdWrite (val : BitVec 64) (s : State) : Host.Outcome State Fault Refusal :=
  let m := s.mgmt
  let new : BitVec 32 := val.setWidth 32
  s.whenReady (if (m.evrwr - m.evrrd).toNat < (new - m.evrrd).toNat then s
    else State.drainEvents m.evheld.length { s with mgmt := { m with evrrd := new } })

/-- The RAS counters (R412). -/
def rasOffsets : List Nat := [0x3000, 0x3008, 0x3010, 0x3018, 0x3020, 0x3028, 0x3030, 0x3038, 0x3040, 0x3048, 0x3050]

/-- The value that a read of the management space returned. -/
def State.returned (s : State) (v : BitVec 64) : State := { s with mgmt := { s.mgmt with rdata := v } }

/-- The 8 bytes of the certificate chain at CERTSEL; zero past the chain's end (R405). -/
def Mgmt.certdata (m : Mgmt) : BitVec 64 :=
  let p := m.certsel.toNat
  BitVec.ofNat 64 (leNat ((upTo 8).map (fun i => if p + i < Config.certLen then Config.certByte (p + i) else 0)))

/-- The next 64 bits of the selected scan chain, once the secrets are cleared; zero past the chain's end (R413). -/
def Mgmt.scandata (m : Mgmt) : BitVec 64 :=
  if m.secrets ∨ Config.scanLength m.scansel ≤ m.scanpos then 0 else Config.scanWord m.scansel m.scanpos

/-- A register of a channel's block (R408). -/
def Channel.register (c : Channel) (i : Nat) : BitVec 64 :=
  match i with
  | 0x00 => c.ctl
  | 0x08 => c.base
  | 0x10 => c.wr.setWidth 64
  | 0x18 => c.rd.setWidth 64
  | 0x20 => c.stat.setWidth 64
  | _ => 0

/-- A register with an offset of its own (R405, R411, R412). -/
def State.ownRegister (s : State) (off : Nat) : BitVec 64 :=
  let m := s.mgmt
  match off with
  | 0x0000 => BitVec.ofNat 64 identWord
  | 0x0008 => Config.serial
  | 0x0010 => m.certsel
  | 0x0018 => m.certdata
  | 0x0020 => BitVec.ofNat 64 Config.certLen
  | 0x0100 => m.mcmd.setWidth 64
  | 0x0108 => m.marg0
  | 0x0110 => m.marg1
  | 0x0118 => BitVec.ofNat 64 (m.result.toNat * 2 ^ 8 + (if m.busy then 1 else 0))
  | 0x0200 => m.evrbase
  | 0x0208 => m.evrlog2.setWidth 64
  | 0x0210 => m.evrwr.setWidth 64
  | 0x0218 => m.evrrd.setWidth 64
  | 0x0300 => BitVec.ofNat 64 (m.portEn.toNat * 2 ^ 32 + m.reqto.toNat)
  | 0x0308 => m.pstat
  | 0x2000 => m.pwrlim.setWidth 64
  | 0x2008 => m.budget.setWidth 64
  | 0x2010 => m.pkgpw.setWidth 64
  | 0x2018 => m.diepw
  | 0x2020 => m.hbmpw.setWidth 64
  | 0x2028 => m.temp.setWidth 64
  | 0x2030 => m.ebudget.setWidth 64
  | 0x2038 => m.throttle
  | 0x8000 => m.scansel.setWidth 64
  | 0x8008 => m.scandata
  | _ => if rasOffsets.contains off then Map.get 0 s.mgmt.ras off else 0

/-- What a read of the management space returns (R404, R405): zero outside the blocks, and until step 6 of bring-up outside the identity
block, PSTAT and the scan block (R410). -/
def State.mgmtRead (s : State) (off : Nat) : BitVec 64 :=
  if s.mgmt.ready = false ∧ 0x0020 < off ∧ off ≠ 0x0308 ∧ off ≠ 0x8000 ∧ off ≠ 0x8008 then 0
  else if 0x1000 ≤ off ∧ off < 0x2000 then (s.channel ((off - 0x1000) / 64)).register (off % 64)
  else if 0x4000 ≤ off ∧ off < 0x8000 then (if off % 16 = 0 then (s.peer ((off - 0x4000) / 16)).entry else 0)
  else s.ownRegister off

/-- CERTDATA_READ (R405): 8 bytes of the certificate chain at CERTSEL, which advances; zero past the chain's end. -/
def execCertdataRead (s : State) : Host.Outcome State Fault Refusal :=
  .next ({ s with mgmt := { s.mgmt with certsel := s.mgmt.certsel + 8 } }.returned (s.mgmtRead 0x0018))

/-- SCANDATA_READ (R413): the next 64 bits of the selected chain, once the secrets are cleared. -/
def execScandataRead (s : State) : Host.Outcome State Fault Refusal :=
  let m := s.mgmt
  .next ((if m.secrets then s else { s with mgmt := { m with scanpos := m.scanpos + 1 } }).returned (s.mgmtRead 0x8008))

/-- RAS_COUNTER_WRITE (R412): any write clears a counter. -/
def execRasCounterWrite (off : BitVec 16) (_ : BitVec 64) (s : State) : Host.Outcome State Fault Refusal :=
  s.whenReady (if rasOffsets.contains off.toNat then s.setRas off.toNat 0 else s)

/-- PEER_ENTRY_WRITE (R400, R401). -/
def execPeerEntryWrite (peer : BitVec 10) (val : BitVec 64) (s : State) : Host.Outcome State Fault Refusal :=
  s.whenReady (s.writePeerEntry peer.toNat val)

/-! ## Power (R411) -/

/-- EBUDGET is set, never above BUDGET; a power event is sent when it first falls below BUDGET and when it returns. -/
def State.setBudgets (s : State) (budget ebudget : BitVec 32) : State :=
  let m := s.mgmt
  let e := if budget.ule ebudget then budget else ebudget
  let s1 : State := { s with mgmt := { m with budget := budget, ebudget := e } }
  if decide (m.ebudget.toNat < m.budget.toNat) != decide (e.toNat < budget.toNat) then
    s1.sendEvent { kind := 5, ctx := none, a := 0, b := s1.mgmt.pstat }
  else s1

/-- POWER_LOOP (R411): the readings of the last period, and the EBUDGET that the loop grants. -/
def execPowerLoop (pkgpw diepw0 diepw1 hbmpw : BitVec 32) (temp : BitVec 16) (ebudget : BitVec 32) (s : State) :
    Host.Outcome State Fault Refusal :=
  let s1 : State := { s with mgmt := { s.mgmt with
    pkgpw := pkgpw, diepw := diepw1 ++ diepw0, hbmpw := hbmpw, temp := temp } }
  .next (s1.setBudgets s.mgmt.budget ebudget)

/-- POWER_OVERDRAW (R411): EBUDGET halves. -/
def execPowerOverdraw (s : State) : Host.Outcome State Fault Refusal :=
  .next (s.setBudgets s.mgmt.budget (BitVec.ofNat 32 (s.mgmt.ebudget.toNat / 2)))

/-! ## Registers without behaviour of their own (R405) -/

/-- PORTCFG: a port whose PORTEN bit is clear is down (R397); REQTO 0 counts as 1. -/
def State.writePortcfg (s : State) (v : BitVec 64) : Res State :=
  let en : BitVec 16 := v.extractLsb' 32 16
  s.portsChange { s.mgmt with portEn := en, reqto := v.setWidth 16, portUp := s.mgmt.portUp &&& en } []

/-- A write to a register of the management space but PORTCFG: a bit that no table lists ignores it. -/
def State.writeRegister (s : State) (off : Nat) (v : BitVec 64) : State :=
  let m := s.mgmt
  match off with
  | 0x0010 => { s with mgmt := { m with certsel := v &&& ~~~(7#64) } }
  | 0x0100 => s.issueCommand (v.toNat % 256) m.marg0 m.marg1
  | 0x0108 => { s with mgmt := { m with marg0 := v } }
  | 0x0110 => { s with mgmt := { m with marg1 := v } }
  | 0x0200 => { s with mgmt := { m with evrbase := v &&& ~~~(0xFFF#64) } }
  | 0x0208 => State.drainEvents m.evheld.length { s with mgmt := { m with evrlog2 := v.setWidth 5 } }
  | 0x2000 => { s with mgmt := { m with pwrlim := BitVec.ofNat 32 (min 3200 (max 800 (v.toNat % 2 ^ 32))) } }
  | 0x2008 => s.setBudgets (v.setWidth 32) (if m.ebudget = m.budget then v.setWidth 32 else m.ebudget)
  | 0x8000 => { s with mgmt := { m with scansel := v.setWidth 8, scanpos := 0 } }
  | _ => s

/-- MGMT_REGISTER_WRITE (R405, R410): until step 6 only the identity and scan blocks answer. -/
def execMgmtRegisterWrite (off : BitVec 16) (val : BitVec 64) (s : State) : Host.Outcome State Fault Refusal :=
  if s.mgmt.ready = true ∧ off = 0x0300 then s.eventOut (s.writePortcfg val)
  else .next (if s.mgmt.ready ∨ off = 0x0010 ∨ off = 0x8000 then s.writeRegister off.toNat val else s)

/-! ## Bring-up (R410, R414) -/

/-- The boot ROM accepts the firmware image (R414). -/
def Firmware.accepted (f : Firmware) : Bool :=
  Config.shake256 f.keyBytes == Config.rootKeyDigest && Config.ed448Verify f.keyBytes f.header f.sigBytes &&
  Config.shake256 f.body == f.digestBytes && f.partNo == 0x5640 && f.step == 0xB0 && decide (Config.minFirmware ≤ f.version.toNat)

/-- The step at which a failure of a code stops bring-up. -/
def failStep (code : Nat) : Nat := match code with | 1 => 1 | 2 => 2 | 3 => 3 | 4 => 4 | _ => 5

/-- RESET (R410): the part comes up to step 6, or to the step that fails: `fail` is the code of the failure that occurs, 0 where
none does, and a refused firmware image is code 1. Memory outside the dies keeps its bytes. -/
def execReset (fail : BitVec 3) (s : State) : Host.Outcome State Fault Refusal :=
  let code := if s.mgmt.firmware.accepted = false then 1 else if 2 ≤ fail.toNat ∧ fail.toNat ≤ 5 then fail.toNat else 0
  let m : Mgmt := { firmware := s.mgmt.firmware, step := if code = 0 then 6 else failStep code, code := code, ready := code == 0 }
  .next { State.reset with
    cycle := s.cycle, dram := s.dram, dramBad := s.dramBad, rawLines := s.rawLines, hostMem := s.hostMem, agenda := s.agenda, fresh := s.fresh, mgmt := m }

end Sys2Proof.Machine
end

