-- ==== Sys2Proof/Machine/Migrate.lean ====
section
/-! DEFINITION. The switch-over of a migrating page (R194): the requests that slices hold for it are forwarded to their homes in the new
frame, in arrival order, and then the invalidation is acknowledged (R191). -/

namespace Sys2Proof.Machine

/-- A held store at the homes that the present translation names. -/
def State.movedBytes (s : State) (x : Context) (bs : List StoreByte) : List StoreByte :=
  bs.map (fun b => match s.page x b.va with
    | .ok t => if leafKind t.leaf = 0 then { b with place := .dram (leafFrame t.leaf + b.va % t.size) } else b
    | .error _ => b)

/-- The state after an event, or without it where it stops. -/
def nextOr (s : State) : Host.Outcome State Fault Refusal → State
  | .next t => t
  | _ => s

/-- Forward one held request (R194): no L1 keeps an older copy of what a store writes; an atomic is performed at its new home. -/
def State.forward1 (c : Nat) (x : Context) (r : HeldReq) (s : State) : State :=
  match r with
  | .store bs bad =>
    let ys := s.movedBytes x bs
    let t := (s.keepPrev ys).writeBytes ys bad
    (t.cores.map (fun k => k.1)).foldl (fun u n => ys.foldl (fun v b => v.storeL1 n true b) u) t
  | .atomic pack warp flight _ reply =>
    match s.flight? pack warp flight with
    | some (p, _, w, f) => (s.performReply pack warp p x w f reply).finish pack warp flight reply
    | none => s
  | .agent (.update core _ d code bad) va pas =>
    match s.movedBytes x (wholeBytes va (pas.map .dram) (pas.map (fun _ => 0))) with
    | [] => s
    | ys => s.updateAt core c d va (ys.map (fun b => b.place)) code bad
  | .agent (.near core tag) _ _ =>
    match (s.core core).nmcs.find? (fun k => k.tag == tag) with
    | some k => nextOr s (if nbOp k.block = 2 then execNcas core tag .none s else execNenq core tag .none s)
    | none => s
  | .agent (.peer src fctx tag cls req) va _ => nextOr s (execPeerRequest src fctx tag cls (BitVec.ofNat 64 va) req [] s)

/-- A held request's page still migrates. -/
def State.staysHeld (s : State) (x : Context) (r : HeldReq) : Bool :=
  match r with
  | .store bs _ => bs.any (fun b => s.migrating x b.va)
  | .atomic pack warp flight _ _ => match s.flight? pack warp flight with
    | some (_, _, _, f) => s.waitsForPage x f.kind
    | none => false
  | .agent _ va _ => s.migrating x va

/-- The switch-over (R194): held requests whose pages no longer migrate are forwarded, in order, to the homes that the
present translation names, and each atomic's reply returns. -/
def State.forwardHeld (s : State) (c : Nat) : State :=
  match s.ctx? c with
  | none => s
  | some x =>
    let y : Context := { x with ackEpoch := x.epoch, moving := [] }
    let s1 := s.modCtx c (fun z => { z with held := x.held.filter (s.staysHeld y), moving := [] })
    (x.held.filter (fun r => !s.staysHeld y r)).foldl (fun t r => State.forward1 c y r t) s1

/-- TLBINV_ACK (R191, R194): with no older request left in an egress queue, the held requests of pages that no longer migrate
are forwarded, and the invalidation is acknowledged. -/
def execTlbinvAck (ctx : Nat) (s : State) : Host.Outcome State Fault Refusal :=
  .next (match s.ctx? ctx with
  | none => s
  | some x =>
    if x.ackEpoch = x.epoch ∨ s.olderRequest ctx x = true then s
    else (s.forwardHeld ctx).modCtx ctx (fun y => { y with ackEpoch := y.epoch }))

end Sys2Proof.Machine
end

