-- ==== Sys2Proof/Machine/Flags.lean ====
section
/-! DEFINITION. FPMODE and FPFLAGS (R101, R102): every floating word's flags reach FPFLAGS here, from its active
lanes only, ORed with what the register holds (R67, R226). -/

namespace Sys2Proof.Machine

/-- The rounding mode of a warp (R101). -/
def Warp.mode (w : Warp) : Mode := modeOf w.fpmode.toNat

/-- The OR of the flags of the lanes. -/
def orFlags (fs : List (BitVec 5)) : BitVec 5 := fs.foldl (fun a f => a ||| f) 0

/-- Raise flags in the issuing warp: sticky (R102). -/
def State.raiseFlags (s : State) (f : BitVec 5) : State := s.setCur (fun w => { w with fpflags := w.fpflags ||| f })

/-- A vector result whose lanes carry flags: written as `vecResult`, and the flags raised. -/
def State.vecFlags (s : State) (w : BitVec 1) (d : BitVec 7) (vals : List (Nat × BitVec 32 × BitVec 5)) : State :=
  (s.vecResult w d (vals.map (fun x => (x.1, x.2.1)))).raiseFlags (orFlags (vals.map (fun x => x.2.2)))

end Sys2Proof.Machine
end

