-- ==== Sys2Proof/Machine/VecInt.lean ====
section
/-! DEFINITION. Vector integer and bit words (R226 to R234). -/

namespace Sys2Proof.Machine

/-- One value of each active lane (R226). -/
def perLane {α : Type} (w : Warp) (f : Nat → α) : List (Nat × α) := (lanesOf w.exec).map (fun l => (l, f l))

/-- A word of two integer sources: the result of each active lane (R231). -/
def intWord (w : BitVec 1) (d : BitVec 7) (a b : BitVec 8) (s : State) (f : BitVec 32 → BitVec 32 → BitVec 32)
    (h : Here) : Res State :=
  .ok (s.vecResult w d (perLane h.warp (fun l => f (h.warp.srcInt a l) (h.warp.srcIntB h.lit b l))))

/-- An accumulating integer word: the D field names the third source (R228). -/
def intAcc (w : BitVec 1) (d : BitVec 7) (a b : BitVec 8) (s : State)
    (f : BitVec 32 → BitVec 32 → BitVec 32 → BitVec 32) (h : Here) : Res State :=
  .ok (s.vecResult w d (perLane h.warp (fun l =>
    f (h.warp.srcInt a l) (h.warp.srcIntB h.lit b l) (h.warp.vreg d.toNat l))))

/-- A unary integer word (R233). -/
def intUnary (w : BitVec 1) (d : BitVec 7) (a : BitVec 8) (s : State) (f : BitVec 32 → BitVec 32) (h : Here) :
    Res State :=
  .ok (s.vecResult w d (perLane h.warp (fun l => f (h.warp.srcInt a l))))

/-- Write a predicate in the active lanes; inactive lanes keep their bit (R234). -/
def predResult (s : State) (h : Here) (n : BitVec 3) (f : Nat → Bool) : State :=
  let m := (lanesOf h.warp.exec).foldl (fun acc l => if f l then acc ||| (1#32 <<< l) else acc) 0#32
  s.setCur (fun u => u.setP n.toNat ((h.warp.preg n.toNat &&& ~~~h.warp.exec) ||| m))

/-- Saturate an integer to the signed 32-bit range. -/
def sat32 (i : Int) : BitVec 32 := BitVec.ofInt 32 (max (-2147483648) (min 2147483647 i))

/-- `vfsh` (R232). -/
def funnel (a b d : BitVec 32) : BitVec 32 :=
  BitVec.ofNat 32 ((a.toNat * 2 ^ 32 + b.toNat) / 2 ^ (d.toNat % 64))

/-- POS, LEN and S of `vbfe` and `vbfi` (R232). -/
def fieldPos (b : BitVec 32) : Nat := b.toNat % 32
def fieldLen (b : BitVec 32) : Nat := min 32 (b.toNat / 2 ^ 8 % 64)
def fieldSigned (b : BitVec 32) : Bool := b.getLsbD 16

/-- `vbfe` (R232). -/
def extractField (a b : BitVec 32) : BitVec 32 :=
  let len := fieldLen b
  let f := a.toNat / 2 ^ fieldPos b % 2 ^ len
  if fieldSigned b ∧ 0 < len ∧ f / 2 ^ (len - 1) = 1 then BitVec.ofInt 32 ((f : Int) - (2 ^ len : Nat))
  else BitVec.ofNat 32 f

/-- `vbfi` (R232). -/
def insertField (a b d : BitVec 32) : BitVec 32 :=
  let m := BitVec.ofNat 32 ((2 ^ fieldLen b - 1) * 2 ^ fieldPos b)
  (d &&& ~~~m) ||| ((a <<< fieldPos b) &&& m)

/-- The number of leading zero bits, and of set bits. -/
def clz32 (a : BitVec 32) : Nat := if a = 0 then 32 else 31 - Nat.log2 a.toNat
def popcount {w : Nat} (a : BitVec w) : Nat := ((upTo w).filter (fun i => a.getLsbD i)).length

/-- Bit i of the source goes to bit 31 - i. -/
def bitReverse (a : BitVec 32) : BitVec 32 :=
  (upTo 32).foldl (fun acc i => if a.getLsbD i then acc ||| (1#32 <<< (31 - i)) else acc) 0#32

/-- The conditions of `ucmp` and `vcmp` (R213, R234) on two words of one width. -/
def condHolds {w : Nat} (cond : Nat) (a b : BitVec w) : Bool :=
  match cond with
  | 0 => a == b
  | 1 => a != b
  | 2 => decide (a.toInt < b.toInt)
  | 3 => decide (a.toInt ≤ b.toInt)
  | 4 => decide (b.toInt < a.toInt)
  | 5 => decide (b.toInt ≤ a.toInt)
  | 6 => decide (a.toNat < b.toNat)
  | 7 => decide (a.toNat ≤ b.toNat)
  | 8 => decide (b.toNat < a.toNat)
  | _ => decide (b.toNat ≤ a.toNat)

def execVadd (w : BitVec 1) (d : BitVec 7) (a b : BitVec 8) (s : State) : Host.Outcome State Fault Refusal :=
  runWord (.vadd w d a b) s (intWord w d a b s (fun x y => x + y))

def execVsub (w : BitVec 1) (d : BitVec 7) (a b : BitVec 8) (s : State) : Host.Outcome State Fault Refusal :=
  runWord (.vsub w d a b) s (intWord w d a b s (fun x y => x - y))

def execVmul (w : BitVec 1) (d : BitVec 7) (a b : BitVec 8) (s : State) : Host.Outcome State Fault Refusal :=
  runWord (.vmul w d a b) s (intWord w d a b s (fun x y => x * y))

def execVmulh (w : BitVec 1) (d : BitVec 7) (a b : BitVec 8) (s : State) : Host.Outcome State Fault Refusal :=
  runWord (.vmulh w d a b) s (intWord w d a b s (fun x y => BitVec.ofNat 32 (x.toNat * y.toNat / 2 ^ 32)))

def execVmad (w : BitVec 1) (d : BitVec 7) (a b : BitVec 8) (s : State) : Host.Outcome State Fault Refusal :=
  runWord (.vmad w d a b) s (intAcc w d a b s (fun x y z => x * y + z))

def execVadds (w : BitVec 1) (d : BitVec 7) (a b : BitVec 8) (s : State) : Host.Outcome State Fault Refusal :=
  runWord (.vadds w d a b) s (intWord w d a b s (fun x y => sat32 (x.toInt + y.toInt)))

def execVsubs (w : BitVec 1) (d : BitVec 7) (a b : BitVec 8) (s : State) : Host.Outcome State Fault Refusal :=
  runWord (.vsubs w d a b) s (intWord w d a b s (fun x y => sat32 (x.toInt - y.toInt)))

def execVand (w : BitVec 1) (d : BitVec 7) (a b : BitVec 8) (s : State) : Host.Outcome State Fault Refusal :=
  runWord (.vand w d a b) s (intWord w d a b s (fun x y => x &&& y))

def execVor (w : BitVec 1) (d : BitVec 7) (a b : BitVec 8) (s : State) : Host.Outcome State Fault Refusal :=
  runWord (.vor w d a b) s (intWord w d a b s (fun x y => x ||| y))

def execVxor (w : BitVec 1) (d : BitVec 7) (a b : BitVec 8) (s : State) : Host.Outcome State Fault Refusal :=
  runWord (.vxor w d a b) s (intWord w d a b s (fun x y => x ^^^ y))

def execVshl (w : BitVec 1) (d : BitVec 7) (a b : BitVec 8) (s : State) : Host.Outcome State Fault Refusal :=
  runWord (.vshl w d a b) s (intWord w d a b s (fun x y => x <<< (y.toNat % 32)))

def execVshr (w : BitVec 1) (d : BitVec 7) (a b : BitVec 8) (s : State) : Host.Outcome State Fault Refusal :=
  runWord (.vshr w d a b) s (intWord w d a b s (fun x y => x >>> (y.toNat % 32)))

def execVsar (w : BitVec 1) (d : BitVec 7) (a b : BitVec 8) (s : State) : Host.Outcome State Fault Refusal :=
  runWord (.vsar w d a b) s (intWord w d a b s (fun x y => x.sshiftRight (y.toNat % 32)))

def execVfsh (w : BitVec 1) (d : BitVec 7) (a b : BitVec 8) (s : State) : Host.Outcome State Fault Refusal :=
  runWord (.vfsh w d a b) s (intAcc w d a b s funnel)

def execVmin (w : BitVec 1) (d : BitVec 7) (a b : BitVec 8) (s : State) : Host.Outcome State Fault Refusal :=
  runWord (.vmin w d a b) s (intWord w d a b s (fun x y => if y.toInt < x.toInt then y else x))

def execVmax (w : BitVec 1) (d : BitVec 7) (a b : BitVec 8) (s : State) : Host.Outcome State Fault Refusal :=
  runWord (.vmax w d a b) s (intWord w d a b s (fun x y => if x.toInt < y.toInt then y else x))

def execVminu (w : BitVec 1) (d : BitVec 7) (a b : BitVec 8) (s : State) : Host.Outcome State Fault Refusal :=
  runWord (.vminu w d a b) s (intWord w d a b s (fun x y => if y.toNat < x.toNat then y else x))

def execVmaxu (w : BitVec 1) (d : BitVec 7) (a b : BitVec 8) (s : State) : Host.Outcome State Fault Refusal :=
  runWord (.vmaxu w d a b) s (intWord w d a b s (fun x y => if x.toNat < y.toNat then y else x))

def execVbfe (w : BitVec 1) (d : BitVec 7) (a b : BitVec 8) (s : State) : Host.Outcome State Fault Refusal :=
  runWord (.vbfe w d a b) s (intWord w d a b s extractField)

def execVbfi (w : BitVec 1) (d : BitVec 7) (a b : BitVec 8) (s : State) : Host.Outcome State Fault Refusal :=
  runWord (.vbfi w d a b) s (intAcc w d a b s insertField)

def execVcmp (cond : BitVec 4) (n : BitVec 3) (a b : BitVec 8) (s : State) : Host.Outcome State Fault Refusal :=
  runWord (.vcmp cond n a b) s (fun h => .ok (predResult s h n (fun l =>
    condHolds cond.toNat (h.warp.srcInt a l) (h.warp.srcIntB h.lit b l))))

def execVsel (w : BitVec 1) (d : BitVec 7) (a b : BitVec 8) (s : State) : Host.Outcome State Fault Refusal :=
  runWord (.vsel w d a b) s (intAcc w d a b s (fun x y z => if z = 0 then y else x))

def execVabs (w : BitVec 1) (d : BitVec 7) (a : BitVec 8) (s : State) : Host.Outcome State Fault Refusal :=
  runWord (.vabs w d a) s (intUnary w d a s (fun x => if x.toInt < 0 then -x else x))

def execVclz (w : BitVec 1) (d : BitVec 7) (a : BitVec 8) (s : State) : Host.Outcome State Fault Refusal :=
  runWord (.vclz w d a) s (intUnary w d a s (fun x => BitVec.ofNat 32 (clz32 x)))

def execVcnt (w : BitVec 1) (d : BitVec 7) (a : BitVec 8) (s : State) : Host.Outcome State Fault Refusal :=
  runWord (.vcnt w d a) s (intUnary w d a s (fun x => BitVec.ofNat 32 (popcount x)))

def execVbrev (w : BitVec 1) (d : BitVec 7) (a : BitVec 8) (s : State) : Host.Outcome State Fault Refusal :=
  runWord (.vbrev w d a) s (intUnary w d a s bitReverse)

def execVmov (w : BitVec 1) (d : BitVec 7) (a : BitVec 8) (s : State) : Host.Outcome State Fault Refusal :=
  runWord (.vmov w d a) s (intUnary w d a s (fun x => x))

/-- `vpm` (R233): all ones where the predicate is set. -/
def execVpm (w : BitVec 1) (d : BitVec 7) (n : BitVec 3) (s : State) : Host.Outcome State Fault Refusal :=
  runWord (.vpm w d n) s (fun h =>
    .ok (s.vecResult w d (perLane h.warp (fun l => if (h.warp.preg n.toNat).getLsbD l then 0xFFFFFFFF else 0))))

/-- `vmp` (R233): the predicate is set where the source is not zero. -/
def execVmp (n : BitVec 3) (a : BitVec 8) (s : State) : Host.Outcome State Fault Refusal :=
  runWord (.vmp n a) s (fun h => .ok (predResult s h n (fun l => h.warp.srcInt a l != 0)))

end Sys2Proof.Machine
end

