-- ==== Sys2Proof/Machine/VecFloat.lean ====
section
/-! DEFINITION. Vector floating words, conversions, special functions and the codebook (R235 to R241, R107, R119). -/

namespace Sys2Proof.Machine

/-- The immediate of a source code as a floating value of a format (R63). -/
def immFloat (f : FloatFmt) (c : BitVec 8) : Nat := f.rne (valInt (imm6 c).toInt)

/-- A source of a floating word (R227): an immediate is converted exactly to FP32. -/
def Warp.srcFp (w : Warp) (c : BitVec 8) (lane : Nat) : BitVec 32 :=
  if 0xC0 ≤ c.toNat then BitVec.ofNat 32 (immFloat fp32 c) else w.srcInt c lane

/-- Operand B of a floating word: a literal supplies bits [31:8] of an FP32 value (R72). -/
def Warp.srcFpB (w : Warp) (lit : Option (BitVec 24)) (c : BitVec 8) (lane : Nat) : BitVec 32 :=
  match lit with
  | some p => p.setWidth 32 <<< 8
  | none => w.srcFp c lane

/-- A code and its flags as a lane's result. -/
def fpOut (r : Nat × BitVec 5) : BitVec 32 × BitVec 5 := (BitVec.ofNat 32 r.1, r.2)

/-- A floating word of two sources (R235). -/
def fpWord (w : BitVec 1) (d : BitVec 7) (a b : BitVec 8) (s : State) (f : Mode → Nat → Nat → Nat × BitVec 5)
    (h : Here) : Res State :=
  .ok (s.vecFlags w d (perLane h.warp (fun l =>
    fpOut (f h.warp.mode (h.warp.srcFp a l).toNat (h.warp.srcFpB h.lit b l).toNat))))

/-- A floating word of one source (R239). -/
def fpUnary (w : BitVec 1) (d : BitVec 7) (a : BitVec 8) (s : State) (f : Mode → Nat → Nat × BitVec 5) (h : Here) :
    Res State :=
  .ok (s.vecFlags w d (perLane h.warp (fun l => fpOut (f h.warp.mode (h.warp.srcFp a l).toNat))))

/-- Half `hf` of a source of `vfma2` (R65, R235): the registers of a pair, the halves of a k register, an immediate
or literal in both. A special code's value is zero-extended (log entry 8). -/
def Warp.srcHalf (w : Warp) (c : BitVec 8) (lane hf : Nat) : BitVec 32 :=
  let n := c.toNat
  if n < 0x70 then w.vreg (n + hf) lane
  else if 0x80 ≤ n ∧ n < 0xC0 then (w.kreg (n - 0x80)).extractLsb' (32 * hf) 32
  else if 0xC0 ≤ n then BitVec.ofNat 32 (immFloat fp32 c)
  else if hf = 0 then w.srcInt c lane else 0

def Warp.srcHalfB (w : Warp) (lit : Option (BitVec 24)) (c : BitVec 8) (lane hf : Nat) : BitVec 32 :=
  match lit with
  | some p => p.setWidth 32 <<< 8
  | none => w.srcHalf c lane hf

/-- A source of `vhfma2` (R235): an immediate is converted to FP16 in both halves. -/
def Warp.srcFp16 (w : Warp) (c : BitVec 8) (lane : Nat) : BitVec 32 :=
  if 0xC0 ≤ c.toNat then BitVec.ofNat 32 (immFloat fp16 c * 65537) else w.srcInt c lane

def execVfadd (w : BitVec 1) (d : BitVec 7) (a b : BitVec 8) (s : State) : Host.Outcome State Fault Refusal :=
  runWord (.vfadd w d a b) s (fpWord w d a b s (fun m x y => fp32.add m x y))

def execVfsub (w : BitVec 1) (d : BitVec 7) (a b : BitVec 8) (s : State) : Host.Outcome State Fault Refusal :=
  runWord (.vfsub w d a b) s (fpWord w d a b s (fun m x y => fp32.sub m x y))

def execVfmul (w : BitVec 1) (d : BitVec 7) (a b : BitVec 8) (s : State) : Host.Outcome State Fault Refusal :=
  runWord (.vfmul w d a b) s (fpWord w d a b s (fun m x y => fp32.mul m x y))

/-- `vfma` (R235): one rounding of a x b + d. -/
def execVfma (w : BitVec 1) (d : BitVec 7) (a b : BitVec 8) (s : State) : Host.Outcome State Fault Refusal :=
  runWord (.vfma w d a b) s (fun h => .ok (s.vecFlags w d (perLane h.warp (fun l =>
    fpOut (fp32.fma h.warp.mode (h.warp.srcFp a l).toNat (h.warp.srcFpB h.lit b l).toNat (h.warp.vreg d.toNat l).toNat)))))

/-- One half of `vfma2` in a lane. -/
def fma2Half (h : Here) (d : BitVec 7) (a b : BitVec 8) (l hf : Nat) : BitVec 32 × BitVec 5 :=
  fpOut (fp32.fma h.warp.mode (h.warp.srcHalf a l hf).toNat (h.warp.srcHalfB h.lit b l hf).toNat
    (h.warp.vreg (d.toNat + hf) l).toNat)

/-- `vfma2` (R235): two FP32 results in a register pair; its latch stays empty (R228). -/
def execVfma2 (w : BitVec 1) (d : BitVec 7) (a b : BitVec 8) (s : State) : Host.Outcome State Fault Refusal :=
  runWord (.vfma2 w d a b) s (fun h =>
    let lo := perLane h.warp (fun l => fma2Half h d a b l 0)
    let hi := perLane h.warp (fun l => fma2Half h d a b l 1)
    let put (u : Warp) := (u.setLanes d.toNat (lo.map (fun x => (x.1, x.2.1)))).setLanes (d.toNat + 1)
      (hi.map (fun x => (x.1, x.2.1)))
    let t := if w = 1 then s.setCur put else s
    .ok (t.raiseFlags (orFlags ((lo ++ hi).map (fun x => x.2.2)))))

/-- One half of `vhfma2` in a lane, in FP16. -/
def hfmaHalf (h : Here) (d : BitVec 7) (a b : BitVec 8) (l hf : Nat) : Nat × BitVec 5 :=
  let part (x : BitVec 32) : Nat := x.toNat / 2 ^ (16 * hf) % 65536
  fp16.fma h.warp.mode (part (h.warp.srcFp16 a l)) (part (h.warp.srcFp16 b l)) (part (h.warp.vreg d.toNat l))

/-- `vhfma2` (R235): two FP16 results in one register. -/
def execVhfma2 (w : BitVec 1) (d : BitVec 7) (a b : BitVec 8) (s : State) : Host.Outcome State Fault Refusal :=
  runWord (.vhfma2 w d a b) s (fun h => .ok (s.vecFlags w d (perLane h.warp (fun l =>
    let lo := hfmaHalf h d a b l 0
    let hi := hfmaHalf h d a b l 1
    (BitVec.ofNat 32 (lo.1 + hi.1 * 65536), lo.2 ||| hi.2)))))

def execVfmin (w : BitVec 1) (d : BitVec 7) (a b : BitVec 8) (s : State) : Host.Outcome State Fault Refusal :=
  runWord (.vfmin w d a b) s (fpWord w d a b s (fun _ x y => fp32.pick false x y))

def execVfmax (w : BitVec 1) (d : BitVec 7) (a b : BitVec 8) (s : State) : Host.Outcome State Fault Refusal :=
  runWord (.vfmax w d a b) s (fpWord w d a b s (fun _ x y => fp32.pick true x y))

/-- `vfcmp` (R237). -/
def execVfcmp (cond : BitVec 4) (n : BitVec 3) (a b : BitVec 8) (s : State) : Host.Outcome State Fault Refusal :=
  runWord (.vfcmp cond n a b) s (fun h =>
    let r (l : Nat) : Bool × BitVec 5 :=
      fp32.compare cond.toNat (h.warp.srcFp a l).toNat (h.warp.srcFpB h.lit b l).toNat
    .ok ((predResult s h n (fun l => (r l).1)).raiseFlags (orFlags ((lanesOf h.warp.exec).map (fun l => (r l).2)))))

/-- `vfcvt` (R104, R238): the source is read as in an integer word; rounding code 4 is FPMODE. -/
def execVfcvt (w : BitVec 1) (d : BitVec 7) (a : BitVec 8) (rnd : BitVec 3) (conv : BitVec 5) (s : State) : Host.Outcome State Fault Refusal :=
  runWord (.vfcvt w d a rnd conv) s (fun h =>
    let mode := if rnd.toNat < 4 then modeOf rnd.toNat else h.warp.mode
    .ok (s.vecFlags w d (perLane h.warp (fun l => convert conv.toNat mode (h.warp.srcInt a l)))))

def execVfrcp (w : BitVec 1) (d : BitVec 7) (a : BitVec 8) (s : State) : Host.Outcome State Fault Refusal :=
  runWord (.vfrcp w d a) s (fpUnary w d a s specRcp)

def execVfrsq (w : BitVec 1) (d : BitVec 7) (a : BitVec 8) (s : State) : Host.Outcome State Fault Refusal :=
  runWord (.vfrsq w d a) s (fpUnary w d a s specRsq)

def execVfsqrt (w : BitVec 1) (d : BitVec 7) (a : BitVec 8) (s : State) : Host.Outcome State Fault Refusal :=
  runWord (.vfsqrt w d a) s (fpUnary w d a s specSqrt)

def execVfexp2 (w : BitVec 1) (d : BitVec 7) (a : BitVec 8) (s : State) : Host.Outcome State Fault Refusal :=
  runWord (.vfexp2 w d a) s (fpUnary w d a s (fun _ x => specExp2 x))

def execVflog2 (w : BitVec 1) (d : BitVec 7) (a : BitVec 8) (s : State) : Host.Outcome State Fault Refusal :=
  runWord (.vflog2 w d a) s (fpUnary w d a s (fun _ x => specLog2 x))

def execVfsin (w : BitVec 1) (d : BitVec 7) (a : BitVec 8) (s : State) : Host.Outcome State Fault Refusal :=
  runWord (.vfsin w d a) s (fpUnary w d a s (fun _ x => specTrig true x))

def execVfcos (w : BitVec 1) (d : BitVec 7) (a : BitVec 8) (s : State) : Host.Outcome State Fault Refusal :=
  runWord (.vfcos w d a) s (fpUnary w d a s (fun _ x => specTrig false x))

/-- `vcbld` (R240): active lanes 0 to 15 write their codebook entries. -/
def execVcbld (a : BitVec 8) (s : State) : Host.Outcome State Fault Refusal :=
  runWord (.vcbld a) s (fun h => done s (fun u => (fun cb => { u with codebook := cb }) (
    ((lanesOf h.warp.exec).filter (fun l => decide (l < 16))).foldl
      (fun cb l => Map.set 0 cb l ((h.warp.srcInt a l).extractLsb' 0 16)) u.codebook)))

/-- A codebook entry. -/
def Warp.entry (w : Warp) (i : Nat) : BitVec 16 := Map.get 0 w.codebook i

/-- Nibble `b and 7` of a word. -/
def nibbleOf (a b : BitVec 32) : Nat := a.toNat / 2 ^ (4 * (b.toNat % 8)) % 16

/-- `vcbx` (R241): the entry that a nibble names, widened exactly; bits are copied. -/
def execVcbx (w : BitVec 1) (d : BitVec 7) (a b : BitVec 8) (s : State) : Host.Outcome State Fault Refusal :=
  runWord (.vcbx w d a b) s (intWord w d a b s (fun x y => (s.iss.pre.entry (nibbleOf x y)).setWidth 32 <<< 16))

/-- Entry `e` lies nearer to the finite value `x` than entry `c`, in exact distance; an infinite entry is infinitely
far (R107). -/
def nearer (x e c : Val) : Bool :=
  match (addVal .rne x e.neg).1, (addVal .rne x c.neg).1 with
  | .num _ m p, .num _ n q => dyLt m p n q
  | .num _ _ _, _ => true
  | _, _ => false

/-- The best of the entries that are not NaNs, the lower index winning a tie (R107). -/
def bestEntry (better : Val → Val → Bool) (cb : List (Nat × Val)) : Option (Nat × Val) :=
  cb.foldl (fun best e => match best with
    | none => some e
    | some b => if better e.2 b.2 then some e else some b) none

/-- `vcbq`'s index and flags (R107, R119). -/
def quantise (cb : List (Nat × Val)) (x : Val) : Nat × BitVec 5 :=
  let nums := cb.filter (fun e => !e.2.isNan)
  match x with
  | .nan sg => match cb.find? (fun e => e.2.isNan) with
    | some e => (e.1, if sg then flagNV else 0)
    | none => (0, flagNV)
  | _ =>
    let best := match x with
      | .inf neg => bestEntry (fun e c => if neg then ltVal e c else ltVal c e) nums
      | _ => bestEntry (fun e c => nearer x e c) nums
    match best with
    | some e => (e.1, if eqVal e.2 x then 0 else flagNX)
    | none => (0, flagNV)

/-- `vcbq` (R241): the index replaces nibble `b and 7` of d. -/
def execVcbq (w : BitVec 1) (d : BitVec 7) (a b : BitVec 8) (s : State) : Host.Outcome State Fault Refusal :=
  runWord (.vcbq w d a b) s (fun h =>
    let cb := (upTo 16).map (fun i => (i, bf16.decode (h.warp.entry i).toNat))
    .ok (s.vecFlags w d (perLane h.warp (fun l =>
      let q := quantise cb (fp32.decode (h.warp.srcInt a l).toNat)
      let sh := 4 * ((h.warp.srcIntB h.lit b l).toNat % 8)
      let dv := h.warp.vreg d.toNat l
      ((dv &&& ~~~(0xF#32 <<< sh)) ||| (BitVec.ofNat 32 q.1 <<< sh), q.2)))))

end Sys2Proof.Machine
end

