-- ==== Sys2Proof/Machine/VecLane.lean ====
section
/-! DEFINITION. Cross-lane words (R242 to R245). -/

namespace Sys2Proof.Machine

/-- `vshfl` (R243): the source lane of each active lane, by mode; outside 0 to 31 a lane receives its own value. -/
def shuffle (w : BitVec 1) (d : BitVec 7) (a b : BitVec 8) (s : State) (pick : Nat → Nat → Int) (h : Here) :
    Res State :=
  .ok (s.vecResult w d (perLane h.warp (fun l => h.warp.srcInt a (h.warp.shuffleLane h.lit pick b l))))

def execVshflIdx (w : BitVec 1) (d : BitVec 7) (a b : BitVec 8) (s : State) : Host.Outcome State Fault Refusal :=
  runWord (.vshflIdx w d a b) s (shuffle w d a b s pickIdx)

def execVshflUp (w : BitVec 1) (d : BitVec 7) (a b : BitVec 8) (s : State) : Host.Outcome State Fault Refusal :=
  runWord (.vshflUp w d a b) s (shuffle w d a b s pickUp)

def execVshflDown (w : BitVec 1) (d : BitVec 7) (a b : BitVec 8) (s : State) : Host.Outcome State Fault Refusal :=
  runWord (.vshflDown w d a b) s (shuffle w d a b s pickDown)

def execVshflXor (w : BitVec 1) (d : BitVec 7) (a b : BitVec 8) (s : State) : Host.Outcome State Fault Refusal :=
  runWord (.vshflXor w d a b) s (shuffle w d a b s pickXor)

/-- `vvote` (R244): one value for every active lane from the active lanes' predicate bits. -/
def vote (w : BitVec 1) (d : BitVec 7) (n : BitVec 3) (s : State) (f : BitVec 32 → BitVec 32 → BitVec 32) (h : Here) :
    Res State :=
  .ok (s.vecResult w d (perLane h.warp (fun _ => f (h.warp.exec &&& h.warp.preg n.toNat) h.warp.exec)))

def execVvoteAny (w : BitVec 1) (d : BitVec 7) (n : BitVec 3) (s : State) : Host.Outcome State Fault Refusal :=
  runWord (.vvoteAny w d n) s (vote w d n s (fun m _ => if m = 0 then 0 else 1))

def execVvoteAll (w : BitVec 1) (d : BitVec 7) (n : BitVec 3) (s : State) : Host.Outcome State Fault Refusal :=
  runWord (.vvoteAll w d n) s (vote w d n s (fun m e => if m = e then 1 else 0))

def execVvoteBallot (w : BitVec 1) (d : BitVec 7) (n : BitVec 3) (s : State) : Host.Outcome State Fault Refusal :=
  runWord (.vvoteBallot w d n) s (vote w d n s (fun m _ => m))

/-- The operations of `vred` and `vscan` on two lanes' values, the lower lanes' first (R245). -/
def treeOp (mode : Mode) (op : Nat) (x y : BitVec 32) : BitVec 32 × BitVec 5 :=
  match op with
  | 0 => (x + y, 0)
  | 1 => fpOut (fp32.add mode x.toNat y.toNat)
  | 2 => (if y.toInt < x.toInt then y else x, 0)
  | 3 => (if x.toInt < y.toInt then y else x, 0)
  | 4 => (if y.toNat < x.toNat then y else x, 0)
  | 5 => (if x.toNat < y.toNat then y else x, 0)
  | 6 => fpOut (fp32.pick false x.toNat y.toNat)
  | 7 => fpOut (fp32.pick true x.toNat y.toNat)
  | 8 => (x &&& y, 0)
  | 9 => (x ||| y, 0)
  | _ => (x ^^^ y, 0)

/-- A node of the tree: empty, or a value with the flags raised in forming it from its two children. -/
structure Node where
  val   : Option (BitVec 32)
  flags : BitVec 5
  deriving DecidableEq, Repr

/-- `comb` (R245): an empty operand causes no operation. The flags are those of this operation alone. -/
def comb (mode : Mode) (op : Nat) (x y : Option (BitVec 32)) : Node :=
  match x, y with
  | none, y => { val := y, flags := 0 }
  | x, none => { val := x, flags := 0 }
  | some a, some b => let r := treeOp mode op a b; { val := some r.1, flags := r.2 }

/-- The next level of the tree: neighbours combined. -/
def pairUp (mode : Mode) (op : Nat) : List Node → List Node
  | x :: y :: rest => comb mode op x.val y.val :: pairUp mode op rest
  | _ => []

/-- The levels 0 to 5 of the tree over the lanes. -/
def treeLevels (mode : Mode) (op : Nat) (leaves : List Node) : List (List Node) :=
  (upTo 5).foldl (fun acc _ => acc ++ [pairUp mode op (acc.getLastD [])]) [leaves]

/-- The value of node (k, j), and every flag raised in the tree. -/
def nodeVal (t : List (List Node)) (k j : Nat) : Option (BitVec 32) := ((t.getD k []).getD j ⟨none, 0⟩).val
def treeFlags (t : List (List Node)) : BitVec 5 := orFlags (t.flatMap (fun l => l.map (fun n => n.flags)))

/-- The tree of a cross-lane word's source over the active lanes. R227 does not say whether `vred` and `vscan` with a floating
operation are floating words: here an immediate code in A is sign-extended, as in an integer word (log entry 97). -/
def laneTree (h : Here) (a : BitVec 8) (op : Nat) : List (List Node) :=
  treeLevels h.warp.mode op ((upTo 32).map (fun l =>
    { val := if h.warp.exec.getLsbD l then some (h.warp.srcInt a l) else none, flags := 0 }))

/-- `vred` (R245): every active lane receives the root of the tree. -/
def execVred (w : BitVec 1) (d : BitVec 7) (a : BitVec 8) (op : BitVec 4) (s : State) : Host.Outcome State Fault Refusal :=
  runWord (.vred w d a op) s (fun h =>
    let t := laneTree h a op.toNat
    .ok ((s.vecResult w d (perLane h.warp (fun _ => (nodeVal t 5 0).getD 0))).raiseFlags (treeFlags t)))

/-- The inclusive prefix of lane `i` from the nodes that cover lanes 0 to i, from the highest (R245); `n` counts the
levels still to visit. -/
def scanLane (mode : Mode) (op : Nat) (t : List (List Node)) (i : Nat) :
    Nat → Option (BitVec 32) → Nat → BitVec 5 → Option (BitVec 32) × BitVec 5
  | 0, acc, _, fl => (acc, fl)
  | k + 1, acc, base, fl =>
    if (i + 1) / 2 ^ k % 2 = 1 then
      let c := comb mode op acc (nodeVal t k (base / 2 ^ k))
      scanLane mode op t i k c.val (base + 2 ^ k) (fl ||| c.flags)
    else scanLane mode op t i k acc base fl

/-- `vscan` (R245). -/
def execVscan (w : BitVec 1) (d : BitVec 7) (a : BitVec 8) (op : BitVec 4) (s : State) : Host.Outcome State Fault Refusal :=
  runWord (.vscan w d a op) s (fun h =>
    let t := laneTree h a op.toNat
    .ok ((s.vecFlags w d (perLane h.warp (fun l =>
      let r := scanLane h.warp.mode op.toNat t l 6 none 0 0
      (r.1.getD 0, r.2)))).raiseFlags (treeFlags t)))

/-- `vbcast` (R244): the lane that the lowest active lane's b names. -/
def execVbcast (w : BitVec 1) (d : BitVec 7) (a b : BitVec 8) (s : State) : Host.Outcome State Fault Refusal :=
  runWord (.vbcast w d a b) s (fun h =>
    .ok (s.vecResult w d (perLane h.warp (fun _ => h.warp.srcInt a (h.warp.bcastLane h.lit b)))))

/-- `vmatch` (R244): the active lanes that hold the same value. -/
def execVmatch (w : BitVec 1) (d : BitVec 7) (a : BitVec 8) (s : State) : Host.Outcome State Fault Refusal :=
  runWord (.vmatch w d a) s (intUnary w d a s (fun x =>
    (lanesOf s.iss.pre.exec).foldl (fun acc l =>
      if s.iss.pre.srcInt a l = x then acc ||| (1#32 <<< l) else acc) 0#32))

end Sys2Proof.Machine
end

