-- ==== Sys2Proof/Machine/Dispatch.lean ====
section
/-! DEFINITION. The meaning of every instruction and event: one arm a constructor. -/

namespace Sys2Proof.Machine

/-- What an instruction or event does. -/
def exec (i : Instr) (s : State) : Host.Outcome State Fault Refusal :=
  match i with
  | .nop => Sys2Proof.Machine.execNop s
  | .bra off => Sys2Proof.Machine.execBra off s
  | .brc n off => Sys2Proof.Machine.execBrc n off s
  | .brcF n off => Sys2Proof.Machine.execBrcF n off s
  | .brp n off => Sys2Proof.Machine.execBrp n off s
  | .call off => Sys2Proof.Machine.execCall off s
  | .callC n off => Sys2Proof.Machine.execCallC n off s
  | .callF n off => Sys2Proof.Machine.execCallF n off s
  | .brx ka => Sys2Proof.Machine.execBrx ka s
  | .ret ka => Sys2Proof.Machine.execRet ka s
  | .mark off => Sys2Proof.Machine.execMark off s
  | .join => Sys2Proof.Machine.execJoin s
  | .exit => Sys2Proof.Machine.execExit s
  | .yield => Sys2Proof.Machine.execYield s
  | .waitc ka fn => Sys2Proof.Machine.execWaitc ka fn s
  | .lit payload => Sys2Proof.Machine.execLit payload s
  | .rep cnt sd sa sb sk str => Sys2Proof.Machine.execRep cnt sd sa sb sk str s
  | .trap fn => Sys2Proof.Machine.execTrap fn s
  | .uadd kd ka kb => Sys2Proof.Machine.execUadd kd ka kb s
  | .usub kd ka kb => Sys2Proof.Machine.execUsub kd ka kb s
  | .umul kd ka kb => Sys2Proof.Machine.execUmul kd ka kb s
  | .umulh kd ka kb => Sys2Proof.Machine.execUmulh kd ka kb s
  | .uand kd ka kb => Sys2Proof.Machine.execUand kd ka kb s
  | .uor kd ka kb => Sys2Proof.Machine.execUor kd ka kb s
  | .uxor kd ka kb => Sys2Proof.Machine.execUxor kd ka kb s
  | .ushl kd ka kb => Sys2Proof.Machine.execUshl kd ka kb s
  | .ushr kd ka kb => Sys2Proof.Machine.execUshr kd ka kb s
  | .usar kd ka kb => Sys2Proof.Machine.execUsar kd ka kb s
  | .umin kd ka kb => Sys2Proof.Machine.execUmin kd ka kb s
  | .umax kd ka kb => Sys2Proof.Machine.execUmax kd ka kb s
  | .umov kd ka => Sys2Proof.Machine.execUmov kd ka s
  | .ubfe kd ka kb => Sys2Proof.Machine.execUbfe kd ka kb s
  | .uclz kd ka => Sys2Proof.Machine.execUclz kd ka s
  | .ucnt kd ka => Sys2Proof.Machine.execUcnt kd ka s
  | .umad kd ka kb => Sys2Proof.Machine.execUmad kd ka kb s
  | .ucmp n ka kb fn => Sys2Proof.Machine.execUcmp n ka kb fn s
  | .usel kd ka kb n => Sys2Proof.Machine.execUsel kd ka kb n s
  | .uli kd imm => Sys2Proof.Machine.execUli kd imm s
  | .uld kd ka off => Sys2Proof.Machine.execUld kd ka off s
  | .ust kd ka off => Sys2Proof.Machine.execUst kd ka off s
  | .usr kd idx => Sys2Proof.Machine.execUsr kd idx s
  | .uws ka idx => Sys2Proof.Machine.execUws ka idx s
  | .vadd w d a b => Sys2Proof.Machine.execVadd w d a b s
  | .vsub w d a b => Sys2Proof.Machine.execVsub w d a b s
  | .vmul w d a b => Sys2Proof.Machine.execVmul w d a b s
  | .vmulh w d a b => Sys2Proof.Machine.execVmulh w d a b s
  | .vmad w d a b => Sys2Proof.Machine.execVmad w d a b s
  | .vadds w d a b => Sys2Proof.Machine.execVadds w d a b s
  | .vsubs w d a b => Sys2Proof.Machine.execVsubs w d a b s
  | .vand w d a b => Sys2Proof.Machine.execVand w d a b s
  | .vor w d a b => Sys2Proof.Machine.execVor w d a b s
  | .vxor w d a b => Sys2Proof.Machine.execVxor w d a b s
  | .vshl w d a b => Sys2Proof.Machine.execVshl w d a b s
  | .vshr w d a b => Sys2Proof.Machine.execVshr w d a b s
  | .vsar w d a b => Sys2Proof.Machine.execVsar w d a b s
  | .vfsh w d a b => Sys2Proof.Machine.execVfsh w d a b s
  | .vmin w d a b => Sys2Proof.Machine.execVmin w d a b s
  | .vmax w d a b => Sys2Proof.Machine.execVmax w d a b s
  | .vminu w d a b => Sys2Proof.Machine.execVminu w d a b s
  | .vmaxu w d a b => Sys2Proof.Machine.execVmaxu w d a b s
  | .vbfe w d a b => Sys2Proof.Machine.execVbfe w d a b s
  | .vbfi w d a b => Sys2Proof.Machine.execVbfi w d a b s
  | .vcmp cond n a b => Sys2Proof.Machine.execVcmp cond n a b s
  | .vsel w d a b => Sys2Proof.Machine.execVsel w d a b s
  | .vabs w d a => Sys2Proof.Machine.execVabs w d a s
  | .vclz w d a => Sys2Proof.Machine.execVclz w d a s
  | .vcnt w d a => Sys2Proof.Machine.execVcnt w d a s
  | .vbrev w d a => Sys2Proof.Machine.execVbrev w d a s
  | .vmov w d a => Sys2Proof.Machine.execVmov w d a s
  | .vpm w d n => Sys2Proof.Machine.execVpm w d n s
  | .vmp n a => Sys2Proof.Machine.execVmp n a s
  | .vfadd w d a b => Sys2Proof.Machine.execVfadd w d a b s
  | .vfsub w d a b => Sys2Proof.Machine.execVfsub w d a b s
  | .vfmul w d a b => Sys2Proof.Machine.execVfmul w d a b s
  | .vfma w d a b => Sys2Proof.Machine.execVfma w d a b s
  | .vfma2 w d a b => Sys2Proof.Machine.execVfma2 w d a b s
  | .vhfma2 w d a b => Sys2Proof.Machine.execVhfma2 w d a b s
  | .vfmin w d a b => Sys2Proof.Machine.execVfmin w d a b s
  | .vfmax w d a b => Sys2Proof.Machine.execVfmax w d a b s
  | .vfcmp cond n a b => Sys2Proof.Machine.execVfcmp cond n a b s
  | .vfcvt w d a rnd conv => Sys2Proof.Machine.execVfcvt w d a rnd conv s
  | .vfrcp w d a => Sys2Proof.Machine.execVfrcp w d a s
  | .vfrsq w d a => Sys2Proof.Machine.execVfrsq w d a s
  | .vfsqrt w d a => Sys2Proof.Machine.execVfsqrt w d a s
  | .vfexp2 w d a => Sys2Proof.Machine.execVfexp2 w d a s
  | .vflog2 w d a => Sys2Proof.Machine.execVflog2 w d a s
  | .vfsin w d a => Sys2Proof.Machine.execVfsin w d a s
  | .vfcos w d a => Sys2Proof.Machine.execVfcos w d a s
  | .vcbld a => Sys2Proof.Machine.execVcbld a s
  | .vcbx w d a b => Sys2Proof.Machine.execVcbx w d a b s
  | .vcbq w d a b => Sys2Proof.Machine.execVcbq w d a b s
  | .vshflIdx w d a b => Sys2Proof.Machine.execVshflIdx w d a b s
  | .vshflUp w d a b => Sys2Proof.Machine.execVshflUp w d a b s
  | .vshflDown w d a b => Sys2Proof.Machine.execVshflDown w d a b s
  | .vshflXor w d a b => Sys2Proof.Machine.execVshflXor w d a b s
  | .vvoteAny w d n => Sys2Proof.Machine.execVvoteAny w d n s
  | .vvoteAll w d n => Sys2Proof.Machine.execVvoteAll w d n s
  | .vvoteBallot w d n => Sys2Proof.Machine.execVvoteBallot w d n s
  | .vred w d a op => Sys2Proof.Machine.execVred w d a op s
  | .vscan w d a op => Sys2Proof.Machine.execVscan w d a op s
  | .vbcast w d a b => Sys2Proof.Machine.execVbcast w d a b s
  | .vmatch w d a => Sys2Proof.Machine.execVmatch w d a s
  | .vld sem data off view size => Sys2Proof.Machine.execVld sem data off view size s
  | .vst sem data off view size => Sys2Proof.Machine.execVst sem data off view size s
  | .vstm sem data off view size => Sys2Proof.Machine.execVstm sem data off view size s
  | .vatom sem data off view op => Sys2Proof.Machine.execVatom sem data off view op s
  | .vcas sem data off view wide => Sys2Proof.Machine.execVcas sem data off view wide s
  | .sld sem data off view size => Sys2Proof.Machine.execSld sem data off view size s
  | .sst sem data off view size => Sys2Proof.Machine.execSst sem data off view size s
  | .satom sem data off view op => Sys2Proof.Machine.execSatom sem data off view op s
  | .trd data off t size => Sys2Proof.Machine.execTrd data off t size s
  | .twr data off t size => Sys2Proof.Machine.execTwr data off t size s
  | .vprf off view lvl => Sys2Proof.Machine.execVprf off view lvl s
  | .fence kind scope => Sys2Proof.Machine.execFence kind scope s
  | .bari ka bar => Sys2Proof.Machine.execBari ka bar s
  | .barv ka bar => Sys2Proof.Machine.execBarv ka bar s
  | .bard bar => Sys2Proof.Machine.execBard bar s
  | .barw ka bar => Sys2Proof.Machine.execBarw ka bar s
  | .bart ka bar => Sys2Proof.Machine.execBart ka bar s
  | .qpush ka q => Sys2Proof.Machine.execQpush ka q s
  | .qpop ka q => Sys2Proof.Machine.execQpop ka q s
  | .qpeek ka m q => Sys2Proof.Machine.execQpeek ka m q s
  | .qrel q => Sys2Proof.Machine.execQrel q s
  | .spawn ka m => Sys2Proof.Machine.execSpawn ka m s
  | .spawnDc ka m kc => Sys2Proof.Machine.execSpawnDc ka m kc s
  | .fget data off view => Sys2Proof.Machine.execFget data off view s
  | .fput data off view => Sys2Proof.Machine.execFput data off view s
  | .dcnew ka kb => Sys2Proof.Machine.execDcnew ka kb s
  | .dcdec ka => Sys2Proof.Machine.execDcdec ka s
  | .launch ka => Sys2Proof.Machine.execLaunch ka s
  | .evset ka g => Sys2Proof.Machine.execEvset ka g s
  | .evclr ka g => Sys2Proof.Machine.execEvclr ka g s
  | .evwait ka g => Sys2Proof.Machine.execEvwait ka g s
  | .seqadd ka kb => Sys2Proof.Machine.execSeqadd ka kb s
  | .seqwait ka kb => Sys2Proof.Machine.execSeqwait ka kb s
  | .tcopy ka kb kc => Sys2Proof.Machine.execTcopy ka kb kc s
  | .tgath ka kb kc => Sys2Proof.Machine.execTgath ka kb kc s
  | .tscat ka kb kc => Sys2Proof.Machine.execTscat ka kb kc s
  | .tred ka kb kc => Sys2Proof.Machine.execTred ka kb kc s
  | .tfill ka kb kc => Sys2Proof.Machine.execTfill ka kb kc s
  | .nmc ka kb kc => Sys2Proof.Machine.execNmc ka kb kc s
  | .rld ka kb ord => Sys2Proof.Machine.execRld ka kb ord s
  | .rst ka kb rel => Sys2Proof.Machine.execRst ka kb rel s
  | .ratom ka kb kc op => Sys2Proof.Machine.execRatom ka kb kc op s
  | .cstep ka kb kc => Sys2Proof.Machine.execCstep ka kb kc s
  | .cfence mask => Sys2Proof.Machine.execCfence mask s
  | .alw ka kb => Sys2Proof.Machine.execAlw ka kb s
  | .bralw ka n => Sys2Proof.Machine.execBralw ka n s
  | .cwait ka kb => Sys2Proof.Machine.execCwait ka kb s
  | .mloop ka kb kc t => Sys2Proof.Machine.execMloop ka kb kc t s
  | .mstep ka kb kc t => Sys2Proof.Machine.execMstep ka kb kc t s
  | .mfmt ka kb => Sys2Proof.Machine.execMfmt ka kb s
  | .madr ka => Sys2Proof.Machine.execMadr ka s
  | .mcfg ka kb => Sys2Proof.Machine.execMcfg ka kb s
  | .mbatch ka => Sys2Proof.Machine.execMbatch ka s
  | .mwait ka => Sys2Proof.Machine.execMwait ka s
  | .mest ka => Sys2Proof.Machine.execMest ka s
  | .mzero t => Sys2Proof.Machine.execMzero t s
  | .mtld ka kb t => Sys2Proof.Machine.execMtld ka kb t s
  | .mtst ka kb t => Sys2Proof.Machine.execMtst ka kb t s
  | .mfft ka t => Sys2Proof.Machine.execMfft ka t s
  | .mtwid ka t => Sys2Proof.Machine.execMtwid ka t s
  | .retx => Sys2Proof.Machine.execRetx s
  | .park => Sys2Proof.Machine.execPark s
  | .idle => Sys2Proof.Machine.execIdle s
  | .sev => Sys2Proof.Machine.execSev s
  | .chalt => Sys2Proof.Machine.execChalt s
  | .sysr ka idx => Sys2Proof.Machine.execSysr ka idx s
  | .sysw ka idx => Sys2Proof.Machine.execSysw ka idx s
  | .tlbinv ka kb => Sys2Proof.Machine.execTlbinv ka kb s
  | .wpset ka kb => Sys2Proof.Machine.execWpset ka kb s
  | .tsave ka => Sys2Proof.Machine.execTsave ka s
  | .trest ka => Sys2Proof.Machine.execTrest ka s
  | .channelSlotRead c => Sys2Proof.Machine.execChannelSlotRead c s
  | .packDispatch ctx lseq places => Sys2Proof.Machine.execPackDispatch ctx lseq places s
  | .priorityAging => Sys2Proof.Machine.execPriorityAging s
  | .kennelTimerExpiry ctx kennel => Sys2Proof.Machine.execKennelTimerExpiry ctx kennel s
  | .packRetire pack => Sys2Proof.Machine.execPackRetire pack s
  | .packPark pack => Sys2Proof.Machine.execPackPark pack s
  | .packResume pack core quad => Sys2Proof.Machine.execPackResume pack core quad s
  | .allowanceReturn peer units => Sys2Proof.Machine.execAllowanceReturn peer units s
  | .sliceEnd ctx => Sys2Proof.Machine.execSliceEnd ctx s
  | .timeout pack => Sys2Proof.Machine.execTimeout pack s
  | .laneLoadReply pack warp flight reply => Sys2Proof.Machine.execLaneLoadReply pack warp flight reply s
  | .laneStorePerformed pack warp flight reply => Sys2Proof.Machine.execLaneStorePerformed pack warp flight reply s
  | .wcbDrain pack warp flight => Sys2Proof.Machine.execWcbDrain pack warp flight s
  | .remoteReply pack warp flight reply => Sys2Proof.Machine.execRemoteReply pack warp flight reply s
  | .copySegment core tag reply => Sys2Proof.Machine.execCopySegment core tag reply s
  | .engineFaultRetry ctx fseq => Sys2Proof.Machine.execEngineFaultRetry ctx fseq s
  | .engineFaultAbort ctx fseq => Sys2Proof.Machine.execEngineFaultAbort ctx fseq s
  | .engineLeashPush core tag => Sys2Proof.Machine.execEngineLeashPush core tag s
  | .engineBarrierDelivery core tag => Sys2Proof.Machine.execEngineBarrierDelivery core tag s
  | .matrixStep core => Sys2Proof.Machine.execMatrixStep core s
  | .adapterFillArrival core tag row reply => Sys2Proof.Machine.execAdapterFillArrival core tag row reply s
  | .creditRefill => Sys2Proof.Machine.execCreditRefill s
  | .nmx core tag block reply => Sys2Proof.Machine.execNmx core tag block reply s
  | .ncas core tag reply => Sys2Proof.Machine.execNcas core tag reply s
  | .nenq core tag reply => Sys2Proof.Machine.execNenq core tag reply s
  | .nchase core tag reply => Sys2Proof.Machine.execNchase core tag reply s
  | .nfill core tag block reply => Sys2Proof.Machine.execNfill core tag block reply s
  | .cstepPeerOffer peer ctx step count red senc lower => Sys2Proof.Machine.execCstepPeerOffer peer ctx step count red senc lower s
  | .cstepDataArrival tag data poisoned last => Sys2Proof.Machine.execCstepDataArrival tag data poisoned last s
  | .cstepAbandonNotice peer ctx step => Sys2Proof.Machine.execCstepAbandonNotice peer ctx step s
  | .peerRequest src fctx tag cls va req retired => Sys2Proof.Machine.execPeerRequest src fctx tag cls va req retired s
  | .retryReissue req => Sys2Proof.Machine.execRetryReissue req s
  | .requestReissue req port => Sys2Proof.Machine.execRequestReissue req port s
  | .portUp port => Sys2Proof.Machine.execPortUp port s
  | .portDown port lost => Sys2Proof.Machine.execPortDown port lost s
  | .peerCapabilities peer proto decode nmcv recv coll => Sys2Proof.Machine.execPeerCapabilities peer proto decode nmcv recv coll s
  | .dieLinkLost => Sys2Proof.Machine.execDieLinkLost s
  | .registerUe pack warp => Sys2Proof.Machine.execRegisterUe pack warp s
  | .tlbinvAck ctx => Sys2Proof.Machine.execTlbinvAck ctx s
  | .haltMessageArrival ctx unit => Sys2Proof.Machine.execHaltMessageArrival ctx unit s
  | .unitStop ctx unit => Sys2Proof.Machine.execUnitStop ctx unit s
  | .haltSettle ctx => Sys2Proof.Machine.execHaltSettle ctx s
  | .ctxcreate desc ctx => Sys2Proof.Machine.execCtxcreate desc ctx s
  | .ctxdestroy ctx => Sys2Proof.Machine.execCtxdestroy ctx s
  | .ctxclear ctx => Sys2Proof.Machine.execCtxclear ctx s
  | .hostevSet ctx g mask => Sys2Proof.Machine.execHostevSet ctx g mask s
  | .hostevClear ctx g mask => Sys2Proof.Machine.execHostevClear ctx g mask s
  | .dma desc => Sys2Proof.Machine.execDma desc s
  | .dmaComplete dma => Sys2Proof.Machine.execDmaComplete dma s
  | .freeze => Sys2Proof.Machine.execFreeze s
  | .attest nonce report => Sys2Proof.Machine.execAttest nonce report s
  | .chwrWrite c val => Sys2Proof.Machine.execChwrWrite c val s
  | .chstatWrite c val => Sys2Proof.Machine.execChstatWrite c val s
  | .chctlWrite c val => Sys2Proof.Machine.execChctlWrite c val s
  | .chbaseWrite c val => Sys2Proof.Machine.execChbaseWrite c val s
  | .evrrdWrite val => Sys2Proof.Machine.execEvrrdWrite val s
  | .certdataRead => Sys2Proof.Machine.execCertdataRead s
  | .scandataRead => Sys2Proof.Machine.execScandataRead s
  | .rasCounterWrite off val => Sys2Proof.Machine.execRasCounterWrite off val s
  | .peerEntryWrite peer val => Sys2Proof.Machine.execPeerEntryWrite peer val s
  | .mgmtRegisterWrite off val => Sys2Proof.Machine.execMgmtRegisterWrite off val s
  | .powerLoop pkgpw diepw0 diepw1 hbmpw temp ebudget => Sys2Proof.Machine.execPowerLoop pkgpw diepw0 diepw1 hbmpw temp ebudget s
  | .powerOverdraw => Sys2Proof.Machine.execPowerOverdraw s
  | .reset fail => Sys2Proof.Machine.execReset fail s
  | .unassignedEncoding word => Sys2Proof.Machine.execUnassignedEncoding word s
  | .dlReplay port => Sys2Proof.Machine.execDlReplay port s

end Sys2Proof.Machine
end

