-- ==== Sys2Proof/Machine/Schedule.lean ====
section
/-! DEFINITION. What the part does next by itself (R12): the events that could happen now, in the order in which the model takes
them where nothing else asks for one. The manual leaves their timing open; the agenda may hold any others. -/

namespace Sys2Proof.Machine

/-- The events of an operation in flight, without an answer from a peer that still answers. -/
def State.flightEvents (s : State) (pid wi : Nat) (f : Flight) : List Instr :=
  let here : List Instr := match f.kind with
    | .load _ _ _ _ _ | .atomic _ _ _ | .cas _ _ _ | .uload _ _ | .tileLoad _ _ => [.laneLoadReply pid wi f.id .none]
    | .store _ _ _ _ => [.wcbDrain pid wi f.id, .laneStorePerformed pid wi f.id .none]
    | .tileStore => [.laneStorePerformed pid wi f.id .none]
    | .rload _ _ _ _ | .rstore _ _ _ _ | .ratomic _ _ _ _ _ _ => [.remoteReply pid wi f.id .none]
    | _ => []
  if f.done then [] else if s.peersGone f.kind then (lostReply pid wi f).toList else here

/-- The events of the operations in flight of a pack. -/
def State.packFlights (s : State) (p : Pack) : List Instr :=
  p.seats.flatMap (fun iw => iw.2.flight.flatMap (s.flightEvents p.id iw.1))

/-- The events of a near-memory command. -/
def NmcCmd.events (c : NmcCmd) : List Instr :=
  if c.phase ≠ .running then [] else
  match nbOp c.block with
  | 1 => c.left.map (fun b => .nmx c.core c.tag b .none)
  | 5 => c.left.map (fun b => .nfill c.core c.tag b .none)
  | _ => [c.event .none]

/-- The events of a core's engines. -/
def State.coreEvents (s : State) (n : Nat) : List Instr :=
  let k := s.core n
  k.copies.map (fun c => .copySegment n c.tag .none) ++ k.nmcs.flatMap NmcCmd.events ++
  (if k.mats.isEmpty then [] else
    k.mats.flatMap (fun c => match s.pack? c.pack, s.ctx? c.ctx with
      | some p, some x => (x.absentRows p c).map (fun r => .adapterFillArrival n c.tag r .none)
      | _, _ => []) ++ [.matrixStep n])

/-- Signals of completions that wait. -/
def State.signalEvents (s : State) : List Instr :=
  let again (core tag : Nat) : List Instr := [.engineLeashPush core tag, .engineBarrierDelivery core tag]
  s.cores.flatMap (fun k =>
    (k.2.copies.filter (fun c => c.phase == .signal)).flatMap (fun c => again k.1 c.tag) ++
    (k.2.nmcs.filter (fun c => c.phase == .signal)).flatMap (fun c => again k.1 c.tag)) ++
  (s.colls.filter (fun c => c.phase == .signal)).flatMap (fun c => again c.core c.tag) ++
  (s.packs.filter (fun p => p.status == .running)).flatMap (fun p => p.heldDone.flatMap (fun d => again p.core d.tag))

/-- The events of a halt under way (R375 to R377). -/
def State.haltEvents (s : State) : List Instr :=
  (upTo 16).flatMap (fun c => match s.ctx? c with
    | some x => (match x.halt with
      | .raised us _ =>
        (upTo us.length).map (fun i => .haltMessageArrival c i) ++ (upTo us.length).map (fun i => .unitStop c i) ++
        (s.residentPacks c).flatMap s.packFlights ++ [.haltSettle c]
      | _ => [])
    | none => [])

/-- A place for each of `n` packs of a packet on a cluster. -/
def State.findPlaces (s : State) (cluster : Nat) (pkt : BitVec 2048) : Nat → List (Nat × Nat × BitVec 2048) → Option (List (Nat × Nat))
  | 0, _ => some []
  | n + 1, extra =>
    match s.placeOne extra cluster pkt with
    | some (c, q) => (s.findPlaces cluster pkt n ((c, q, pkt) :: extra)).map (fun l => (c, q) :: l)
    | none => none

/-- The dispatcher's events: each item that waits, on each cluster that it may use. -/
def State.dispatchEvents (s : State) : List Instr :=
  s.work.flatMap (fun w =>
    let (clusters, pkt, n, _) := s.itemNeeds w
    match w.pack with
    | some id =>
      let home := match s.pack? id with | some p => [clusterOf p.core] | none => []
      (home ++ clusters).flatMap (fun k => (upTo 8).flatMap (fun c => (upTo 4).map (fun q => .packResume id (8 * k + c) q)))
    | none => clusters.filterMap (fun k => (s.findPlaces k pkt n []).map (fun l => .packDispatch w.ctx (BitVec.ofNat 64 w.lseq) l)))

/-- Everything that could happen by itself, in the order in which the model tries it. -/
def State.nextEvents (s : State) : List Instr :=
  s.haltEvents ++
  (match s.pack? s.cur.1 with | some p => s.packFlights p | none => []) ++
  s.packs.flatMap s.packFlights ++ s.lostEvents ++ s.signalEvents ++
  (s.colls.filter (fun c => c.phase == .paired)).map (fun c => .cstepDataArrival c.id {} false false) ++ s.cores.flatMap (fun k => s.coreEvents k.1) ++
  ((upTo 16).filter (fun c => (s.ctx? c).any (fun x => x.ackEpoch != x.epoch))).map .tlbinvAck ++
  (s.packs.filter (fun p => p.status == .running)).map (fun p => .packRetire p.id) ++
  s.dispatchEvents ++
  (upTo 16).flatMap (fun c => match s.ctx? c with
    | some x => (upTo x.kennels.length).map (fun k => .kennelTimerExpiry c k)
    | none => []) ++
  s.mgmt.channels.map (fun c => .channelSlotRead (BitVec.ofNat 6 c.1)) ++
  (upTo s.mgmt.dmas.length).map .dmaComplete ++
  (s.packs.filter (fun p => p.status == .running)).map (fun p => .packPark p.id) ++
  s.packs.map (fun p => .timeout p.id) ++ (upTo 16).map .sliceEnd ++
  (if s.cores.any (fun k => !k.2.mats.isEmpty) then [.creditRefill] else [])

/-- The event changes something. -/
def State.effective (s : State) (e : Instr) : Bool :=
  match exec e s with
  | .next t => decide (t ≠ s)
  | _ => true

/-- What the part does next by itself: after power-on, its bring-up (R410). -/
def State.nextEvent (s : State) : Option Instr :=
  if s.mgmt.step = 0 ∧ s.contexts.all Option.isNone = true then some (.reset 0) else s.nextEvents.find? s.effective

/-- What a halt under way does next. -/
def State.haltEvent (s : State) : Option Instr := s.haltEvents.find? s.effective

/-- Everything that could happen by itself, every 256 cycles, so that warps that wait by polling hold up neither the dispatcher
nor an operation in flight. -/
def State.dueEvents (s : State) : List Instr :=
  if s.cycle % 256 = 255 then s.nextEvents.filter s.effective else []

end Sys2Proof.Machine
end

