-- ==== Sys2Proof/Machine/Issue.lean ====
section
/-! DEFINITION. Issuing a packet, a latched pair or one iteration of a `rep` (R57, R58, R70, R71, R75), and what
the part does in one step: the next event of the agenda, or the next packet of the warp `cur` names. -/

namespace Sys2Proof.Machine

/-- The state in which word `ix` of a packet runs. -/
def State.atWord (s : State) (ws : List PWord) (ix : Nat) : State :=
  { s with iss := { s.iss with
      ix := ix
      lit := (ws[ix]?).bind (fun p => p.lit)
      next := match ws[ix + 1]? with | some q => q.word | none => 0 } }

/-- Run word `ix` of a packet. -/
def runAt (ws : List PWord) (s : State) (ix : Nat) : Host.Outcome State Fault Refusal :=
  match ws[ix]? with
  | some p => exec p.run (s.atWord ws ix)
  | none => .next s

/-- The result of the word that ran last. -/
def outcomeIs (r : WordResult) : Host.Outcome State Fault Refusal → Bool
  | .next t => t.iss.result == r
  | _ => false

/-- The outcome that keeps a packet from issuing (R58, R41): the first word that stops the model, else the lowest
word that raises, else one that blocks, else one that is held. That a cause goes before another word's block or hold is the model's
choice (log entry 112). -/
def firstStop (outs : List (Host.Outcome State Fault Refusal)) : Option (Host.Outcome State Fault Refusal) :=
  match outs.find? (fun o => match o with | .next _ => false | _ => true) with
  | some o => some o
  | none =>
    match outs.find? (outcomeIs .raised) with
    | some o => some o
    | none =>
      match outs.find? (outcomeIs .blocked) with
      | some o => some o
      | none => outs.find? (outcomeIs .held)

/-- The order in which the words of a packet take effect: none sees another's write (R57), so a word that reads the context's state or
memory at issue comes before one that stores, one whose access a range lock could catch before the engine command that takes locks,
and a write of FPFLAGS before the flags it is ORed with (R67). -/
def commitRank (i : Instr) : Nat :=
  match pipeClass i with
  | .px => 0 | .br => 1 | .un => 2 | .en => 4 | _ => 3

/-- The indices of a packet's words in that order. -/
def commitOrder (ws : List PWord) : List Nat :=
  (upTo 5).flatMap (fun r => (upTo ws.length).filter (fun i => match ws[i]? with
    | some p => commitRank p.run == r
    | none => false))

/-- Let the words take effect in turn. -/
def commit (ws : List PWord) : List Nat → State → Host.Outcome State Fault Refusal
  | [], s => .next s
  | i :: is, s =>
    match runAt ws s i with
    | .next t => if t.iss.result = .done then commit ws is t else .next t
    | o => o

/-- Undo what words did before one that raised a cause (R58, R71): the warp as before them, with the trap registers that
the cause wrote; a halt that it raised stands. -/
def State.undoPair (s0 : State) (w0 : Warp) (t : State) : State :=
  match t.curWarp, s0.pack? s0.cur.1 with
  | some w, some p =>
    let w1 := if w0.level = .supervisor then { w0 with preHeld := w.preHeld, latch := [], midPair := none }
      else { w0 with xpc := w.xpc, xaddr := w.xaddr, xinfo := w.xinfo, xcause := w.xcause, level := w.level,
                     pc := if w.level = .supervisor then w.pc else w0.pc,
                     preHeld := w.preHeld, latch := [], block := none, skipWatch := w.skipWatch, pending := w.pending,
                     midPair := none }
    let s1 := s0.setCur (fun _ => w1)
    let s2 := s1.modCtx p.ctx (fun x => match t.ctx? p.ctx with | some y => { x with halt := y.halt } | none => x)
    s2.setResult .raised
  | _, _ => s0

/-- The warp goes at heel with all the units that its packet needs of a peer (R42): a place that it has in the queue, or a reservation
of fewer units, stays first. -/
def State.heelAll (s : State) (p units : Nat) : State :=
  let r := Requester.warp s.cur.1 s.cur.2
  let e := s.peer p
  let rest := e.queue.filter (fun q => q.1 != r)
  s.setPeer p { e with
    reserved := e.reserved.filter (fun q => q.1 != r)
    queue := if reservedFor e r then (r, units) :: rest
      else if e.queue.any (fun q => q.1 == r) then e.queue.map (fun q => if q.1 = r then (r, units) else q)
      else e.queue ++ [(r, units)] }

/-- What became of words that started in `s0` with warp `w0` and ended in `t`: they have all taken effect, or none has (R57, R58, R70,
R71). A warp at heel waits for the units of all of them. -/
def State.undo (s0 : State) (w0 : Warp) (t : State) : State :=
  match t.iss.result with
  | .done => t
  | .raised => s0.undoPair w0 t
  | .held => (s0.setCur (fun _ => w0)).setResult .held
  | .blocked =>
    match t.curWarp.bind (fun w => w.block) with
    | some b => (match b.why with
      | .heel p units =>
        let all := units + ((s0.peer p).allow - (t.peer p).allow)
        ((s0.blockCur w0 (.heel p all)).heelAll p all).setResult .blocked
      | why => (s0.blockCur w0 why).setResult .blocked)
    | none => (s0.setCur (fun _ => w0)).setResult .held

/-- The words of a packet, none of which takes effect unless all do (R57, R58). -/
def runWords (ws : List PWord) (s : State) : Host.Outcome State Fault Refusal :=
  match ws with
  | [_] => runAt ws s 0
  | _ =>
    match firstStop ((upTo ws.length).map (runAt ws s)) with
    | some o => o
    | none =>
      match commit ws (commitOrder ws) s with
      | .next t => .next (s.undo s.iss.pre t)
      | o => o

/-- The packet has issued: its latches replace the warp's (R68), and the warp counts as having issued (R50). A packet that returned
from a trap leaves every latch empty, and its mark for the watchpoints to the next packet (R364). -/
def State.issued (s : State) : State :=
  s.setCur (fun w =>
    let returned := decide (s.iss.pre.level = .supervisor ∧ w.level = .user)
    { w with
      latch := if w.role = .epilogue ∧ returned = false then s.iss.latch else []
      block := none, skipWatch := returned && w.skipWatch, lastIssue := s.cycle })

/-- The state in which a packet at the warp's pc starts. -/
def State.begin (s : State) (w : Warp) : State :=
  { s with iss := { base := w.pc, words := 0, ix := 0, next := 0, lit := none, pre := w, restart := w.pc,
                    repJ := none, result := .done, latch := [none, none, none] } }

def State.withWords (s : State) (n : Nat) : State := { s with iss := { s.iss with words := n } }

/-- The pc moves past the packet before its words run (R200). -/
def State.advance (s : State) (n : Nat) : State := s.setCur (fun w => { w with pc := w.pc + BitVec.ofNat 64 (4 * n) })

/-- One iteration of a `rep` packet (R75): the prefix names the iteration, and the target issues with its fields
stepped. -/
def runRep (r t : PWord) (s : State) : Host.Outcome State Fault Refusal :=
  match runAt [r, t] s 0 with
  | .next s1 =>
    if s1.iss.result ≠ .done then .next s1 else
    match r.run, s1.iss.repJ with
    | .rep _ sd sa sb sk _, some (j, stride) =>
      match stepFields t.run t.word.toNat (sd == 1) (sa == 1) (sb == 1) (sk == 1) with
      | some fs =>
        let w := BitVec.ofNat 32 (stepWord t.word.toNat fs (j * stride))
        match runAt [r, { t with word := w, instr := decode w }] s1 1 with
        | .next s2 => .next { s2 with iss := { s2.iss with latch := [none, none, none] } }
        | o => o
      | none => .next s1
    | _, _ => .next s1
  | o => o

/-- The packet at an address of the issuing warp, where it reads a latch (R69). A packet that cannot be fetched is none: the
producer issues alone, and the fault is reported when that packet issues, which is the model's choice (log entry 113). -/
def State.consumerAt (s : State) (h : Here) (pc : BitVec 64) : Option (List PWord) :=
  match s.fetchChain h.ctx pc.toNat 3 with
  | .error _ => none
  | .ok raw => if isConsumer (formWords none raw) then some (formWords none raw) else none

/-- The warp as its consumer's checks see it: the mark for the watchpoints holds for both packets of a pair (R394), and an acquire of
the producer orders the consumer's access but does not keep it from issuing (R70, R170). -/
def Warp.asConsumer (w w0 : Warp) : Warp :=
  { w with
    skipWatch := w0.skipWatch
    flight := w.flight.map (fun f => if w0.flight.any (fun g => g.id == f.id) then f else { f with acquire := none }) }

/-- A packet at `pc` of warp `w` raises a cause that the decoder finds in word `i` of the packet after it (R71). -/
def State.raiseAtProducer (s : State) (w : Warp) (pc : BitVec 64) (words : Nat) (c : Cause) (i : Nat) : Host.Outcome State Fault Refusal :=
  { s with iss := { s.iss with base := pc, words := words, ix := i, pre := w, restart := pc, repJ := none } }.stop (.raise c 0 0 false)

/-- A consumer that is the producer of a further one (R69): that one raises its cause, so the consumer `cs` takes no effect either, and
XPC names it (R71). `t` is the state before the consumer, `u` that after it. -/
def runChain (w : Warp) (pc : BitVec 64) (cs : List PWord) (t u : State) : Host.Outcome State Fault Refusal :=
  match u.here, u.curWarp with
  | some h, some v =>
    match (if v.live = 0 then none else u.consumerAt h v.pc) with
    | none => .next u
    | some ds =>
      match packetCheck v v.pc.toNat (some ⟨cs, v.latch⟩) ds with
      | some (k, i) => t.raiseAtProducer w pc ds.length k i
      | none => .next u
  | _, _ => .next u

/-- The identities of the operations that a producer has put in flight for a warp that was `w0` before it. -/
def Warp.flownSince (w w0 : Warp) : List Nat :=
  ((w.flight.filter (fun f => !w0.flight.any (fun g => g.id == f.id))).map (fun f => f.id))

/-- The state after an event that has taken place at once, if it can. -/
def State.after (s : State) (event : State → Host.Outcome State Fault Refusal) : State :=
  match event s with
  | .next t => t
  | _ => s

/-- An operation of the issuing warp is performed at once, as far as no peer must answer it. -/
def State.performNow (s : State) (id : Nat) : State :=
  ((s.after (execWcbDrain s.cur.1 s.cur.2 id)).after (execLaneLoadReply s.cur.1 s.cur.2 id .none)).after
    (execLaneStorePerformed s.cur.1 s.cur.2 id .none)

/-- The consumer `cs`, at `pc`, of a latched pair, after its producer `ws` has taken effect in `t` (R70, R71). -/
def tryConsumer (s0 : State) (w0 : Warp) (pc : BitVec 64) (cs : List PWord) (t : State) : Host.Outcome State Fault Refusal :=
  match t.curWarp with
  | some w =>
    let c : State := { t with iss := { t.iss with base := pc, words := cs.length, ix := 0, pre := w.asConsumer w0, repJ := none,
                                                  latch := [none, none, none] } }
    (match runWords cs ((c.advance cs.length).setCur (fun v => { v with skipWatch := w0.skipWatch })) with
    | .next u => if u.iss.result = .done then runChain w pc cs t u.issued else .next (s0.undo w0 u)
    | o => o)
  | none => .next t

/-- The consumer of a latched pair whose producer's own accesses in flight keep it from issuing: they are performed at once, so that the
two issue together; one that a peer must answer lets the producer issue first, where nothing else keeps the consumer, and nothing
comes between them (R70; log entry 109). -/
def issuePair (s0 : State) (w0 : Warp) (pc : BitVec 64) (cs : List PWord) (t : State) : Host.Outcome State Fault Refusal :=
  match tryConsumer s0 w0 pc cs t, t.curWarp with
  | .next u, some w =>
    let flown := w.flownSince w0
    if u.iss.result ≠ .held ∨ flown.isEmpty = true then .next u else
    let t1 := flown.foldl State.performNow t
    match tryConsumer s0 w0 pc cs t1 with
    | .next u1 =>
      let alone := t1.setCur (fun v => { v with flight := v.flight.filter (fun f => !flown.contains f.id) })
      if u1.iss.result = .held ∧ outcomeIs .done (tryConsumer s0 w0 pc cs alone) = true
        then .next (t1.setCur (fun v => { v with midPair := some w0.pc, skipWatch := w0.skipWatch }))
        else .next u1
    | o => o
  | o, _ => o

/-- The consumer of a latched pair, after its producer `ws` has taken effect in `t` (R70, R71). `s0` is the state before the
pair. After an iteration of a `rep` packet that is not its last, the
consumer that follows the packet raises its BADPAIR (R69) already, so that no iteration of the producer takes effect (R71). -/
def runConsumer (s0 : State) (w0 : Warp) (ws : List PWord) (t : State) : Host.Outcome State Fault Refusal :=
  match t.here, t.curWarp with
  | some h, some w =>
    let pc := if w.pc = w0.pc && ws.any (fun p => match p.run with | .rep _ _ _ _ _ _ => true | _ => false)
      then w0.pc + BitVec.ofNat 64 (4 * ws.length) else w.pc
    match t.consumerAt h pc with
    | none => .next t
    | some cs =>
      if ws.any (fun p => match p.run with | .retx => true | _ => false) then .next t else
      match packetCheck w pc.toNat (some ⟨ws, w.latch⟩) cs with
      | some (k, i) => s0.raiseAtProducer w0 w0.pc cs.length k i
      | none => issuePair s0 w0 pc cs (t.fetched h.ctx pc.toNat cs.length)
  | _, _ => .next t

/-- The consumer of a pair whose producer has issued, at address `start` (R70). -/
def issueSecond (s : State) (h : Here) (w : Warp) (start : BitVec 64) : Host.Outcome State Fault Refusal :=
  let b := s.begin w
  let s1 : State := { b with iss := { b.iss with restart := start } }
  match s1.fetchChain h.ctx w.pc.toNat 3 with
  | .error e => s1.stop e
  | .ok raw =>
    let ws := formWords none raw
    match runWords ws (((s1.fetched h.ctx w.pc.toNat ws.length).withWords ws.length).advance ws.length) with
    | .next t => if t.iss.result = .done then .next (t.setCur (fun v => { v with midPair := none })).issued else .next t
    | o => o

/-- Issue the next packet of warp `cur`, with its consumer if the two form a latched pair. -/
def issuePacket (s : State) (h : Here) (w : Warp) : Host.Outcome State Fault Refusal :=
  match w.midPair with
  | some start => issueSecond s h w start
  | none =>
  let s1 := s.begin w
  match s1.fetchChain h.ctx w.pc.toNat 3 with
  | .error e => s1.stop e
  | .ok raw =>
    let ws := formWords none raw
    let s2 := (s1.fetched h.ctx w.pc.toNat ws.length).withWords ws.length
    match packetCheck w w.pc.toNat none ws with
    | some (c, i) => { s2 with iss := { s2.iss with ix := i } }.stop (.raise c 0 0 false)
    | none =>
      let s3 := s2.advance ws.length
      let out := match ws with
        | [r, t] => (match r.run with | .rep _ _ _ _ _ _ => runRep r t s3 | _ => runWords ws s3)
        | _ => runWords ws s3
      match out with
      | .next t =>
        if t.iss.result ≠ .done then .next t
        else if w.role = .epilogue ∧ (t.curWarp.any (fun v => v.live != 0)) = true then
          runConsumer s2 w ws t.issued
        else .next t.issued
      | o => o

/-! ## One step -/

/-- The warps that may issue: of running packs, with live lanes, not held (R41, R366, R367) but for a pair that has begun (R70). -/
def Warp.mayIssue (w : Warp) : Bool := w.live != 0 && (!w.preHeld || w.midPair.isSome)

/-- The warps of the part that may issue, in order. -/
def State.issuers (s : State) : List (Nat × Nat) :=
  (s.packs.filter (fun p => p.status == .running)).flatMap (fun p =>
    ((upTo p.warps.length).filter (fun i => p.warps[i]?.any Warp.mayIssue)).map (fun i => (p.id, i)))

/-- What every step settles: the heads of the peers' queues (R42), and parked packs whose conditions hold (R46). -/
def State.settleWaits (s : State) : State := s.readyHeads.queueParked

/-- Where nothing issued, what the part does next by itself comes first. -/
def State.waitEvent (s : State) : State :=
  { s with agenda := match s.dueEvents with
      | [] => s.nextEvent.toList
      | l => l }

/-- A halt under way goes on beside the warps that issue, and from time to time everything else does. -/
def State.withHalts (s : State) : State :=
  { s with agenda := match s.haltEvent with
      | some e => [e]
      | none => s.dueEvents }

/-- The issue port of a warp (R379): 0 copy, 1 maths, then two for each quadrant. -/
def issuePort (w : Warp) : Nat :=
  match w.role with
  | .copy => 0
  | .maths => 1
  | .epilogue => 2 + 2 * w.quad + w.slot % 2

/-- A halt leaves a warp's port open (R376): at most 3 packets issue on it after the message, and a latched pair counts as two. -/
def Context.portOpen (x : Context) (core : Nat) (w : Warp) : Bool :=
  match x.halt with
  | .clear => true
  | .halted => false
  | .raised us _ => !us.any (fun u => u.kind == 0 && u.place == core && (u.stopped || (u.arrived && decide (2 ≤ u.done.getD (issuePort w) 0))))

/-- A latched pair has begun on the port of a warp of core `core`: no switch of the port falls between its packets (R70). -/
def State.portTaken (s : State) (core : Nat) (w : Warp) : Bool :=
  s.packs.any (fun p => p.core == core && p.status == .running && p.warps.any (fun v => v.midPair.isSome && issuePort v == issuePort w))

/-- The warp `cur` names may issue: its pack runs, and no halt has closed its port (R376, R377); the second packet of a pair that has
begun is the next on its port (R70). -/
def State.issuer (s : State) : Option (Here × Warp) :=
  match s.here, s.curWarp with
  | some h, some w =>
    if h.pack.status = .running ∧ w.mayIssue = true ∧
      (if w.midPair.isSome then True else h.ctx.portOpen h.pack.core w = true ∧ s.portTaken h.pack.core w = false) then some (h, w) else none
  | _, _ => none

/-- An element put in front of the first of a list whose key is not below its own. -/
def insertBy {α : Type} (key : α → Nat × Nat) (a : α) : List α → List α
  | [] => [a]
  | b :: rest =>
    if (key a).1 < (key b).1 ∨ ((key a).1 = (key b).1 ∧ (key a).2 ≤ (key b).2) then a :: b :: rest else b :: insertBy key a rest

/-- A list in the order of a key, equal keys as they stood. -/
def sortBy {α : Type} (key : α → Nat × Nat) (l : List α) : List α := l.foldr (insertBy key) []

/-- The core and the issue port of a warp, as one number. -/
def State.portOf (s : State) (c : Nat × Nat) : Nat :=
  match s.pack? c.1 with
  | some p => p.core * 16 + ((p.warps[c.2]?).map issuePort).getD 0
  | none => 0

/-- How a port orders its warps (R50): by the cycle of the last issue, the oldest first, then by slot. -/
def State.ageOf (s : State) (c : Nat × Nat) : Nat × Nat :=
  match (s.pack? c.1).bind (fun p => p.warps[c.2]?) with
  | some w => (w.lastIssue, w.slot)
  | none => (0, 0)

/-- A warp is ready: its next packet issues now, or raises its cause. -/
def State.canIssue (s : State) (c : Nat × Nat) : Bool :=
  let t := { s with cur := c }
  match t.issuer with
  | some (h, w) => (match issuePacket t h w with
    | .next u => u.iss.result == .done || u.iss.result == .raised
    | _ => true)
  | none => false

/-- The warp that issues next. The ports take turns, which is the model's choice (log entry 66); a port picks, of its ready warps, the
one whose last issue is oldest, and of those the one in the lowest slot (R50). With no warp ready, the next in order has its turn. -/
def State.nextCur (s : State) : Nat × Nat :=
  match s.issuers with
  | [] => s.cur
  | [c] => c
  | l =>
    let ports := sortBy (fun k => (k, 0)) ((l.map s.portOf).eraseDups)
    let here := s.portOf s.cur
    match (ports.filter (fun k => decide (here < k)) ++ ports.filter (fun k => decide (k ≤ here))).findSome? (fun k =>
        (sortBy s.ageOf (l.filter (fun c => s.portOf c == k))).find? s.canIssue) with
    | some c => c
    | none => ((l.dropWhile (fun c => c != s.cur)).drop 1).headD (l.headD s.cur)

/-- A correctable error that has struck the registers of the warp that had its turn is corrected and counted (R390, R412). -/
def State.corrected (s : State) : State :=
  if s.curWarp.any (fun w => w.softErr) then (s.setCur (fun u => { u with softErr := false })).bumpRas 0x3020 else s

/-- A cycle passes on both dies (R220), and the next warp has its turn. -/
def State.tick (s0 : State) : State :=
  let s := s0.corrected
  { s with cycle := s.cycle + 1, dieCycle := s.dieCycle.map (· + 1), cur := s.nextCur }

/-- A warp whose packet has issued, or has raised its cause, is no longer at heel: what is left of its reservations returns (R309). -/
def State.leaveHeel (s : State) (pid wi : Nat) : State :=
  let mine (q : Requester × Nat) : Bool := q.1 == .warp pid wi
  if s.peers.any (fun p => p.2.reserved.any mine || p.2.queue.any mine) then s.leaveQueues (fun r => r == .warp pid wi) else s

/-- After an issue attempt of warp `w`: what issued counts on its port where a halt has reached it. -/
def afterIssue (h : Here) (w : Warp) : Host.Outcome State Fault Refusal → Host.Outcome State Fault Refusal
  | .next t => match t.iss.result with
    | .done => .next ((t.countHalt h.pack.ctx 0 h.pack.core (issuePort w) (if t.iss.base = w.pc then 1 else 2)).leaveHeel h.pid h.wi).withHalts.tick.settleWaits
    | .raised => .next (t.leaveHeel h.pid h.wi).withHalts.tick.settleWaits
    | .blocked | .held => .next t.waitEvent.tick.settleWaits
  | o => o

/-- Whether an instruction is a word, and so part of a program, not an event. -/
def isWord (i : Instr) : Bool :=
  (encode i).isSome || (match i with | .unassignedEncoding _ => true | _ => false)

/-- The management block and the scan controller, which a frozen part keeps running (R413), serve the event; or it is the reset
that ends the freeze. -/
def runsFrozen : Instr → Bool
  | .reset _ | .freeze | .attest _ _ | .ctxcreate _ _ | .ctxdestroy _ | .ctxclear _ | .hostevSet _ _ _ | .hostevClear _ _ _ | .dma _ => true
  | .chwrWrite _ _ | .chstatWrite _ _ | .chctlWrite _ _ | .chbaseWrite _ _ | .evrrdWrite _ | .certdataRead | .scandataRead => true
  | .rasCounterWrite _ _ | .peerEntryWrite _ _ | .mgmtRegisterWrite _ _ => true
  | _ => false

/-- After an event. -/
def afterEvent : Host.Outcome State Fault Refusal → Host.Outcome State Fault Refusal
  | .next t => .next t.settleWaits
  | o => o

/-- One step of the part: the next event of the agenda, else the next packet of warp `cur`. A frozen part stands
still but for its management block (R413). -/
def stepPart (s : State) : Host.Outcome State Fault Refusal :=
  match s.agenda with
  | e :: rest =>
    let t := { s with agenda := rest }
    if isWord e then .next t
    else if s.mgmt.frozen then (if runsFrozen e then exec e t else .next t)
    else afterEvent (exec e t)
  | [] =>
    if s.mgmt.frozen then .next s else
    match s.issuer with
    | some (h, w) => afterIssue h w (issuePacket s h w)
    | none => .next s.waitEvent.tick.settleWaits

end Sys2Proof.Machine
end

