-- ==== Sys2Proof/Machine/Step.lean ====
section
/-! DEFINITION. The step of the part, and the placing of one instruction where the next step fetches it. -/

namespace Sys2Proof.Machine

/-- One step of the part. -/
def step (s : State) : Host.Outcome State Fault Refusal := stepPart s

/-- The first address of the page that `withFetchWord` maps, which is also its place in local memory. -/
def fetchBase : Nat := 0

/-- The leaf of that page: valid, a leaf, writable, executable, local. -/
def fetchLeaf : BitVec 64 := BitVec.ofNat 64 (2 ^ 63 + 2 ^ 62 + 2 ^ 61 + 2 ^ 56 + fetchBase)

/-- The role whose warps may issue a word (R82): the copy warp or a maths warp for their own groups, else an epilogue warp. -/
def roleFor (i : Option Instr) : Role :=
  match i with
  | some j => if mayUse .epilogue (group j) then .epilogue else if mayUse .copy (group j) then .copy else .maths
  | none => .epilogue

/-- A warp about to issue a word: every lane live, the whole register budgets, and the level that the word asks for. -/
def fetchWarp (i : Option Instr) : Warp :=
  let role := roleFor i
  let lanes : BitVec 32 := if role = .epilogue then BitVec.allOnes 32 else 1
  { role := role, kbud := 3, vbud := 2, pc := BitVec.ofNat 64 fetchBase, exec := lanes, live := lanes
    level := if i.any privileged then .supervisor else .user }

/-- `s` with one instruction stored where the next step fetches: a context whose one cached page is executable, a pack on core 0
with a warp that may issue the word, the word in local memory with zero words after it, and that warp's turn to issue. -/
def State.withFetchWord (s : State) (_nbits w : Nat) : State :=
  let word := BitVec.ofNat 32 w
  let x : Context := { desc := BitVec.ofNat 2048 (2 ^ (8 * 0x48)), tlb := [{ base := fetchBase, size := 65536, leaf := fetchLeaf }] }
  let p : Pack := { id := s.packSeq, warps := [fetchWarp (decode word)] }
  { s with
    agenda := [], cur := (s.packSeq, 0), packSeq := s.packSeq + 1, packs := p :: s.packs
    contexts := s.contexts.set 0 (some x), mgmt := { s.mgmt with frozen := false }
    dram := s.dram.writeBytes fetchBase (wordBytes word ++ List.replicate 12 0) }

end Sys2Proof.Machine
end

