-- ==== Sys2Proof/Safety.lean ====
section
/-! DEFINITION. The terms in which claims speak of a run: when a word takes effect, what a finished word leaves, what
two states agree on, and the canonical form that every step keeps. -/

namespace Sys2Proof.Machine

/-- Word `i` takes effect for the issuing warp `h` in state `s`: a warp issues; the word passes the decoder's checks
(R83); no fault held pending is raised by it (R192, R308, R339, R371, R417); no register it names is still to be written
(R67), no acquire is in flight (R170) and no `tlbinv` waits for its acknowledgement (R369); and it reads no tagged register
(R257). -/
abbrev Issues (i : Instr) (s : State) (h : Here) : Prop :=
  s.here = some h ∧
  decodeCheck i h.lit h.warp = none ∧
  raisedPending i h.lit h.warp = none ∧
  h.warp.awaits (reads h.lit i ++ writes i) = false ∧
  h.warp.acquiring = false ∧
  (match h.warp.ackWait with | some e => decide (h.ctx.ackEpoch < e) | none => false) = false ∧
  poisonedRead i h.lit h.warp = none

/-- The word has taken effect and left state `t`. -/
abbrev Took (i : Instr) (s t : State) : Prop := exec i s = .next (t.setResult .done)

/-- Word `i` blocks its warp for a reason (R41): the warp stands as before its packet, with the block. -/
abbrev Blocks (i : Instr) (s : State) (why : BlockWhy) : Prop :=
  exec i s = .next ((s.blockCur s.iss.pre why).setResult .blocked)

/-- Word `i` is held: its warp stands as before its packet and tries again. -/
abbrev Holds (i : Instr) (s : State) : Prop :=
  exec i s = .next ((s.setCur (fun _ => s.iss.pre)).setResult .held)

/-- Word `i` raises a cause that is not held pending, with XADDR and XINFO as given: the warp, as before its packet, takes it
(R58, R359). -/
abbrev Raises (i : Instr) (s : State) (c : Cause) (xaddr xinfo : BitVec 64) : Prop :=
  ∀ t, s.takeTrap s.cur.1 s.cur.2 s.iss.pre c s.iss.restart xaddr (s.fullInfo xinfo) false = .ok t →
    exec i s = .next (t.setResult .raised)

/-- Two states agree on every byte of memory (R165) and on every granule's poison (R390). -/
def SameMemory (s t : State) : Prop :=
  ∀ p : Place, t.readPlace p = s.readPlace p ∧ t.badPlace p = s.badPlace p

/-- Nothing keeps an operation of the issuing warp from going in flight: its path counts fewer than 255 operations, those of the
words of its packet before it among them (R129). -/
abbrev CanFly (s : State) (h : Here) (path : Path) : Prop := (s.curWarp.getD h.warp).counter path < 255

/-- A word has put an operation in flight (R129, R130): the issuing warp's list gains one entry, on `path`, of the given kind, acquire
and release scopes, that names the word's address and is not done; `lanes` are the lanes that have now made a side effect
(R38). Nothing else of the warp changes. -/
def Flies (s t : State) (path : Path) (kind : FlightKind) (acq rel : Option Scope) (lanes : BitVec 32) : Prop :=
  ∃ (f : Flight) (w : Warp), s.curWarp = some w ∧
    t.curWarp = some { w with flight := w.flight ++ [f], sideEff := w.sideEff ||| lanes } ∧
    f.path = path ∧ f.kind = kind ∧ f.acquire = acq ∧ f.release = rel ∧ f.pc = s.wordPc ∧ f.done = false

/-- A word has put an operation in flight, and no byte of memory has changed, unless an error that had struck what the word reads
has been found (R392). -/
def Launches (s t : State) (path : Path) (kind : FlightKind) (acq rel : Option Scope) (lanes : BitVec 32) : Prop :=
  Flies s t path kind acq rel lanes ∧ (s.strikes = [] → SameMemory s t)

/-- Every memory of the part is in its canonical form: local memory, host memory, and each core's scratchpad; and so are the
files that hold the cores and the poison. -/
def State.canonical (s : State) : Bool :=
  s.dram.wf && s.hostMem.wf && Map.wf false s.dramBad && Map.wf false s.rawLines && Map.wf {} s.cores &&
  s.cores.all (fun c => c.2.scratch.wf && Map.wf false c.2.scrBad)

end Sys2Proof.Machine
end

