-- ==== Sys2Proof/Certificates/Slice0/Obligations.lean ====
section
/-! DEFINITION. The statements about the part, one `def Obligations.<Name> : Prop` each. The tables in front of a statement list
the instructions that it covers with what the manual gives each of them. -/

section Statements

open Sys2Proof Sys2Proof.Machine

/-! ## Reset, decoding, the step -/

/-- After reset (R405, R410, R411): bring-up has not begun (PSTAT is 0), no context exists, no warp issues, every port is
enabled (PORTEN), REQTO is 50, no port is up, PWRLIM is 3,200, the management command register is idle with result 0, no peer
entry is valid, and the event ring is empty. Reset memory lists nothing and is in canonical form. That memory lists nothing, so
that its bytes read as 0, is the model's choice (log 1). -/
def Obligations.ResetState : Prop :=
  (State.reset.mgmt.step = 0 ∧ State.reset.mgmt.ready = false ∧ State.reset.mgmt.fatal = false ∧
  (∀ c, State.reset.ctx? c = none) ∧ State.reset.here = none ∧ State.reset.mgmt.portEn = 0xFFFF ∧
  State.reset.mgmt.reqto = 50 ∧ State.reset.mgmt.portUp = 0 ∧ State.reset.mgmt.pwrlim = 3200 ∧
  State.reset.mgmt.busy = false ∧ State.reset.mgmt.result = 0 ∧ (∀ p, (State.reset.peer p).entry = 0) ∧
  State.reset.mgmt.evrwr = 0 ∧ State.reset.mgmt.evrrd = 0) ∧
  (State.reset.canonical = true ∧ ∀ p : Place, State.reset.readPlace p = Memory.blank)

/-- A well-formed instruction that has a word decodes from that word to itself, with every operand at every value that its
encoding admits (R77 to R82). -/
def Obligations.DecodeEncode : Prop :=
  ∀ i w, wf i = true → encode i = some w → decode w = some i

/-- A word that decodes is the encoding of what it decodes to, but for bit 31, the chain bit (R55): so no two words that differ
in another bit decode to one instruction. -/
def Obligations.EncodeDecode : Prop :=
  ∀ w i, decode w = some i → ∃ v, encode i = some v ∧ w.extractLsb' 0 31 = v.extractLsb' 0 31

/-- Four words written out from the encodings of R77 to R81 decode to what they stand for: `uadd k1, k2, k3`; `bra` with offset
-1; `vadd v4, v5, 7` with its write bit; `retx`. -/
def Obligations.DecodeWords : Prop :=
  decode 0b00010000000001000010000011000000#32 = some (.uadd 1 2 3) ∧
  decode 0b00000001000001111111111111111111#32 = some (.bra (BitVec.allOnes 19)) ∧
  decode 0b00100000100001000000010111000111#32 = some (.vadd 1 4 5 0xC7) ∧
  decode 0b01111100000000000000000000000000#32 = some .retx

/-- A step issues the word at the warp's pc (R55, R200): where the agenda is empty, the part is not frozen, a warp may issue,
the packet at its pc, which no pair has begun before (R70), is one word `word` that decodes to `i`, and the packet passes the
decoder's checks (R83), the step is `exec i` in the state whose pc has moved past the packet and whose issue record names it.
Around it the step adds: what the fetch finds of errors that have struck (R392), the packet's consumer where the two form a
latched pair (R70), and what follows every attempt (a cycle passes, and the next warp has its turn). That one step issues one
packet is the model's choice (log 3). -/
def Obligations.StepRunsWord : Prop :=
  ∀ (s : State) (h : Here) (w : Warp) (word : BitVec 32) (i : Instr),
    s.agenda = [] → s.mgmt.frozen = false → s.issuer = some (h, w) → w.midPair = none →
    (s.begin w).fetchChain h.ctx w.pc.toNat 3 = .ok [word] → decode word = some i →
    packetCheck w w.pc.toNat none [⟨word, some i, none⟩] = none →
    let s1 := ((s.begin w).fetched h.ctx w.pc.toNat 1).withWords 1
    step s = afterIssue h w
      (match exec i ((s1.advance 1).atWord [⟨word, some i, none⟩] 0) with
       | .next t =>
         if t.iss.result ≠ .done then .next t
         else if w.role = .epilogue ∧ (t.curWarp.any (fun v => v.live != 0)) = true then
           runConsumer s1 w [⟨word, some i, none⟩] t.issued
         else .next t.issued
       | o => o)

/-- A step takes the first event of the agenda before any packet: it does what the event's meaning says, and then lets the heads
of the peers' queues (R42) and the parked packs (R46) settle. A frozen part stands still but for its management block (R413): no
packet issues; an event that the block serves, or the RESET that ends the freeze, has its effect and no other; any other event
leaves everything but the agenda as it was. The agenda is the model's own (log 3), and so is the reading of what a frozen part
still does (log 55). -/
def Obligations.StepTakesEvent : Prop :=
  (∀ (s : State) (e : Instr) (rest : List Instr), s.agenda = e :: rest → isWord e = false → s.mgmt.frozen = false →
    step s = (match exec e { s with agenda := rest } with
      | .next t => .next t.settleWaits
      | o => o)) ∧
  (∀ s : State, s.mgmt.frozen = true →
    (s.agenda = [] → step s = .next s) ∧
    (∀ e rest, s.agenda = e :: rest → isWord e = false → runsFrozen e = true → step s = exec e { s with agenda := rest }) ∧
    (∀ e rest, s.agenda = e :: rest → runsFrozen e = false → step s = .next { s with agenda := rest }))

/-- What a frozen part keeps (R413): it stays frozen, and its packs, cores, contexts, collective steps and local memory stay as
they are, until a RESET. The invariant also says that no RESET is due. What a frozen part does is the model's reading (log 55).
-/
def Obligations.FrozenInvariant : Prop :=
  ∀ s t : State, s.mgmt.frozen = true → (∀ e ∈ s.agenda, ∀ f, e ≠ .reset f) → step s = .next t →
    t.mgmt.frozen = true ∧ (∀ e ∈ t.agenda, ∀ f, e ≠ .reset f) ∧
    t.packs = s.packs ∧ t.cores = s.cores ∧ t.contexts = s.contexts ∧ t.colls = s.colls ∧ t.dram = s.dram ∧ t.dramBad = s.dramBad

namespace Sys2Proof.Claims

/-- The words that write no memory when they issue: all but `qpush` (which writes leash storage), the words on futures, `launch` and
`cstep` (which may write a record), the answer to an engine fault, and the words that move tiles. -/
def keepsMemory (i : Instr) : Bool :=
  isWord i && (match i with
    | .qpush _ _ | .fget _ _ _ | .fput _ _ _ | .launch _ | .cstep _ _ _ | .sysw _ _ | .tsave _ | .trest _ => false
    | .trd _ _ _ _ | .twr _ _ _ _ => false
    | .mloop _ _ _ _ | .mstep _ _ _ _ | .mzero _ | .mtld _ _ _ | .mtst _ _ _ | .mfft _ _ | .mtwid _ _ => false
    | _ => true)

/-- No page-table walk of a context touches a local physical address that the part does not have (R126, R132). -/
def walkable (s : State) : Prop := ∀ c x va pa, s.ctx? c = some x → s.page x va ≠ .error (.absent pa)

/-- Of the words of `keepsMemory`, those that read memory or walk page tables when they issue, and so may find an error that has
struck them (R392): the finding poisons a granule, and sends an event to the host. -/
def mayFind : Instr → Bool
  | .vld _ _ _ _ _ | .sld _ _ _ _ _ | .vatom _ _ _ _ _ | .satom _ _ _ _ _ | .vcas _ _ _ _ _ => true
  | .vst _ _ _ _ _ | .vstm _ _ _ _ _ | .sst _ _ _ _ _ | .nmc _ _ _ | .mfmt _ _ => true
  | .uld _ _ _ | .ust _ _ _ | .rld _ _ _ | .rst _ _ _ | .ratom _ _ _ _ => true
  | .tcopy _ _ _ | .tgath _ _ _ | .tscat _ _ _ | .tred _ _ _ | .tfill _ _ _ => true
  | _ => false

end Sys2Proof.Claims

/-- What every instruction, event and step answers. None is refused. The one fault is an address that the part does not have: a
page-table walk would read 8 bytes there that local memory does not hold (R126, R132). No word that writes no memory at issue
faults where no walk of a context would. And a next state keeps every memory in its canonical form. That an address outside
local memory stops the machine is the model's choice (log 24). -/
def Obligations.EveryStepAnswers : Prop :=
  (∀ i s r, exec i s ≠ .refused r) ∧ (∀ s r, step s ≠ .refused r) ∧
  (∀ i s pa, exec i s = .fault (.absentAddress pa) → Config.dramEnd < pa + 8) ∧
  (∀ s pa, step s = .fault (.absentAddress pa) → Config.dramEnd < pa + 8) ∧
  (∀ i s f, Claims.keepsMemory i = true → Claims.walkable s → exec i s ≠ .fault f) ∧
  (∀ i s t, s.canonical = true → exec i s = .next t → t.canonical = true) ∧
  (∀ s t, s.canonical = true → step s = .next t → t.canonical = true)

/-! ## Memory -/

/-- A byte that was written at its home is read there, and every other byte of the part reads as before (R165). A peer's memory
lies outside the part: nothing is written. -/
def Obligations.MemoryReadWrite : Prop :=
  (∀ (s : State) (p q : Place) (b : BitVec 8), p.peer? = none →
    (s.writePlace p b).readPlace q = if q = p then b else s.readPlace q) ∧
  (∀ (s : State) (p : Place) (b : BitVec 8), p.peer?.isSome → s.writePlace p b = s)

/-- Writes, and changes of poison, keep every memory in its canonical form. Memories in canonical form that read alike at every
address are equal data. -/
def Obligations.MemoryCanonical : Prop :=
  (∀ (s : State) (p : Place), s.canonical = true →
    (∀ b, (s.writePlace p b).canonical = true) ∧ (∀ v, (s.setBad p v).canonical = true)) ∧
  (∀ m n : Memory, m.wf = true → n.wf = true → (∀ a, m.read a = n.read a) → m = n)

/-- A store of bytes writes, in each byte, the bits that its mask enables, and no other byte of the part (R146, R250): outside
the stored bytes every byte reads as before, and a byte that one entry names holds that entry's bits under its mask. Multi-byte
values are little-endian (R13): the `n` bytes of a number hold it from its least significant byte at the lowest address, and
reading `n` bytes written so gives the number back. -/
def Obligations.StoreWritesItsBytes : Prop :=
  (∀ (s : State) (bs : List StoreByte),
    (∀ q : Place, (∀ b ∈ bs, b.place ≠ q) → (s.writeAll bs).readPlace q = s.readPlace q) ∧
    (∀ b ∈ bs, b.place.peer? = none → (∀ c ∈ bs, c.place = b.place → c = b) →
      (s.writeAll bs).readPlace b.place = (s.readPlace b.place &&& ~~~b.mask) ||| (b.val &&& b.mask))) ∧
  ((∀ n x : Nat, x < 2 ^ (8 * n) → leNat (leBytes n x) = x) ∧
  (∀ n x i : Nat, i < n → (leBytes n x)[i]? = some (BitVec.ofNat 8 (x / 2 ^ (8 * i)))) ∧
  (∀ (m : Memory) (a n x : Nat), x < 2 ^ (8 * n) → leNat (bytesAt (m.writeBytes a (leBytes n x)).read a n) = x))

/-- A word that writes no memory at issue leaves every byte of memory and every granule's poison as it was, whether it takes
effect, raises a cause, blocks or is held, unless it is one that finds an error that has struck memory (R392): stores are
performed by later events (R130). -/
def Obligations.WordsKeepMemory : Prop :=
  ∀ (i : Instr) (s t : State), Claims.keepsMemory i = true → Claims.mayFind i = false ∨ s.strikes = [] → exec i s = .next t →
    SameMemory s t

/-! ## Operations on registers -/

/-- Reading registers after a write (R62, R64, R257): a k, p or c register that is written holds the value, a lane of a v or o
register does and loses its poison tag, and every other register of the file reads as before. -/
def Obligations.RegisterFiles : Prop :=
  (∀ (w : Warp) (n m : Nat) (x : BitVec 64), (w.setK n x).kreg m = if m = n then x else w.kreg m) ∧
  (∀ (w : Warp) (n m : Nat) (x : BitVec 32), (w.setP n x).preg m = if m = n then x else w.preg m) ∧
  (∀ (w : Warp) (n m : Nat) (b : Bool), n < 8 → m < 8 →
    (w.setC n b).c.getLsbD m = if m = n then b else w.c.getLsbD m) ∧
  (∀ (w : Warp) (c d l m : Nat) (x : BitVec 32), l < 32 → m < 32 →
    (w.setV c l x).vreg d m = (if d = c ∧ m = l then x else w.vreg d m) ∧
    Map.get false (w.setV c l x).tags (d * 32 + m) = (if d = c ∧ m = l then false else Map.get false w.tags (d * 32 + m)))

/-- A vector result (R68, R226, R229): with W = 1 each listed lane of the destination receives its value, and no other lane and
no other register changes; the value also stands in the latch of the word's index; with W = 0 no register changes. -/
def Obligations.VectorResult : Prop :=
  ∀ (s : State) (u : Warp) (wb : BitVec 1) (d : BitVec 7) (f : Nat → BitVec 32) (m : BitVec 32), s.curWarp = some u →
    let vals := (lanesOf m).map (fun l => (l, f l))
    ∃ u', (s.vecResult wb d vals).curWarp = some u' ∧
      (∀ c l, l < 32 → u'.vreg c l = if wb = 1 ∧ c = d.toNat ∧ m.getLsbD l = true then f l else u.vreg c l) ∧
      u' = { u with v := u'.v, tags := u'.tags } ∧
      (s.iss.ix < s.iss.latch.length →
        ∃ y, (s.vecResult wb d vals).iss.latch[s.iss.ix]? = some (some y) ∧
          ∀ l, Map.get 0 y l = if m.getLsbD l = true then f l else 0)

namespace Sys2Proof.Claims

/-! ## Uniform words -/

/-- The result of a uniform word and the register that takes it (R211 to R214): `a` is k[KA], `b` is k[KB] or the sign-extended
literal (R72). -/
def uniformRow (h : Here) (i : Instr) : Option (BitVec 6 × BitVec 64) :=
  let a (ka : BitVec 6) : BitVec 64 := h.warp.kreg ka.toNat
  let b (kb : BitVec 6) : BitVec 64 := h.warp.kregB h.lit kb
  match i with
  | .uadd kd ka kb => some (kd, a ka + b kb)
  | .usub kd ka kb => some (kd, a ka - b kb)
  | .umul kd ka kb => some (kd, a ka * b kb)
  | .umulh kd ka kb => some (kd, BitVec.ofNat 64 ((a ka).toNat * (b kb).toNat / 2 ^ 64))
  | .uand kd ka kb => some (kd, a ka &&& b kb)
  | .uor kd ka kb => some (kd, a ka ||| b kb)
  | .uxor kd ka kb => some (kd, a ka ^^^ b kb)
  | .ushl kd ka kb => some (kd, a ka <<< ((b kb).toNat % 64))
  | .ushr kd ka kb => some (kd, a ka >>> ((b kb).toNat % 64))
  | .usar kd ka kb => some (kd, (a ka).sshiftRight ((b kb).toNat % 64))
  | .umin kd ka kb => some (kd, if (a ka).toInt ≤ (b kb).toInt then a ka else b kb)
  | .umax kd ka kb => some (kd, if (b kb).toInt ≤ (a ka).toInt then a ka else b kb)
  | .umov kd ka => some (kd, a ka)
  | .umad kd ka kb => some (kd, a ka * b kb + h.warp.kreg kd.toNat)
  | .usel kd ka kb n => some (kd, if h.warp.c.getLsbD n.toNat then a ka else b kb)
  | .uli kd imm => some (kd, match h.lit with | some p => (p ++ imm).signExtend 64 | none => imm.signExtend 64)
  | _ => none

/-- The number of set bits of a word below bit `n`. -/
def onesBelow (x : BitVec 64) : Nat → Nat
  | 0 => 0
  | n + 1 => onesBelow x n + (if x.getLsbD n then 1 else 0)

/-- The words that have a control offset, and whether the branch is taken (R201, R202). -/
def branchRow (h : Here) : Instr → Option (Bool × BitVec 19)
  | .bra off => some (true, off)
  | .brc n off => some (h.warp.c.getLsbD n.toNat, off)
  | .brcF n off => some (!h.warp.c.getLsbD n.toNat, off)
  | _ => none

def callRow (h : Here) : Instr → Option (Bool × BitVec 19)
  | .call off => some (true, off)
  | .callC n off => some (h.warp.c.getLsbD n.toNat, off)
  | .callF n off => some (!h.warp.c.getLsbD n.toNat, off)
  | _ => none

def jumpRow : Instr → Option (BitVec 6)
  | .brx ka => some ka
  | .ret ka => some ka
  | _ => none

/-- The address after the packet, and the target of a branch (R78, R200): four times the signed offset from the word's own
address. -/
def afterPacket (s : State) : BitVec 64 := s.iss.base + BitVec.ofNat 64 (4 * s.iss.words)
def branchTarget (s : State) (off : BitVec 19) : BitVec 64 :=
  s.iss.base + BitVec.ofNat 64 (4 * s.iss.ix) + BitVec.ofInt 64 (4 * off.toInt)

end Sys2Proof.Claims

/-- The uniform arithmetic words write one k register and change nothing else (R211, R213, R214). The uniform bit words (R211,
R212): `uclz` and `ucnt` count, `ubfe` extracts the field of LEN bits from bit POS, sign-extended where S is set; LEN above 64
acts as 64 and bits past bit 63 read as zero. `ucmp` writes one condition bit from a comparison of k[KA] with k[KB] or the
literal (R213): the codes 0 to 9 are eq, ne, lt, le, gt, ge (signed), ltu, leu, gtu, geu. -/
def Obligations.UniformWords : Prop :=
  (∀ (i : Instr) (s : State) (h : Here) (kd : BitVec 6) (x : BitVec 64), Issues i s h → Claims.uniformRow h i = some (kd, x) →
    Took i s (s.setCur (fun w => w.setK kd.toNat x))) ∧
  ((∀ (s : State) (h : Here) (kd ka : BitVec 6), Issues (.uclz kd ka) s h →
    ∃ n : Nat, Took (.uclz kd ka) s (s.setCur (fun w => w.setK kd.toNat (BitVec.ofNat 64 n))) ∧ n ≤ 64 ∧
      (∀ i, 64 - n ≤ i → (h.warp.kreg ka.toNat).getLsbD i = false) ∧
      (n < 64 → (h.warp.kreg ka.toNat).getLsbD (63 - n) = true)) ∧
  (∀ (s : State) (h : Here) (kd ka : BitVec 6), Issues (.ucnt kd ka) s h →
    Took (.ucnt kd ka) s (s.setCur (fun w => w.setK kd.toNat (BitVec.ofNat 64 (Claims.onesBelow (h.warp.kreg ka.toNat) 64))))) ∧
  (∀ (s : State) (h : Here) (kd ka kb : BitVec 6), Issues (.ubfe kd ka kb) s h →
    let a := h.warp.kreg ka.toNat
    let b := h.warp.kregB h.lit kb
    let pos := b.toNat % 64
    let len := min (b.toNat / 256 % 128) 64
    ∃ r : BitVec 64, Took (.ubfe kd ka kb) s (s.setCur (fun w => w.setK kd.toNat r)) ∧
      ∀ j, j < 64 → r.getLsbD j =
        if j < len then a.getLsbD (pos + j)
        else b.getLsbD 16 && decide (0 < len) && a.getLsbD (pos + len - 1))) ∧
  (∀ (s : State) (h : Here) (n : BitVec 3) (ka kb fn : BitVec 6), Issues (.ucmp n ka kb fn) s h →
    let a := h.warp.kreg ka.toNat
    let b := h.warp.kregB h.lit kb
    ∃ r : Bool, Took (.ucmp n ka kb fn) s (s.setCur (fun w => w.setC n.toNat r)) ∧
      (r = true ↔ match fn.toNat with
        | 0 => a = b | 1 => a ≠ b
        | 2 => a.toInt < b.toInt | 3 => a.toInt ≤ b.toInt | 4 => b.toInt < a.toInt | 5 => b.toInt ≤ a.toInt
        | 6 => a.toNat < b.toNat | 7 => a.toNat ≤ b.toNat | 8 => b.toNat < a.toNat | _ => b.toNat ≤ a.toNat))

/-- `uld` and `ust` (R215, R216): where the access passes its checks and nothing keeps the operation from going in flight (R129,
R184), `uld` puts a load of 8 bytes on LANE-LD, and `ust`, whose unit for a peer is there (R256), a store on LANE-ST of the 8
bytes of k[KD], the least significant at the lowest address. What stops `uld` and `ust` (R215): an address in global memory that
is no multiple of 8 raises MISALIGN with the effective address in XADDR. -/
def Obligations.UniformMemory : Prop :=
  ((∀ (s : State) (h : Here) (kd ka : BitVec 6) (off : BitVec 12) (acc : LaneAcc) (ts : List TlbEntry),
    Issues (.uld kd ka off) s h → s.uniformAccess h .load (uniformEa h ka off) = .ok (acc, ts) →
    CanFly s h .laneLd →
    ∃ t, Took (.uld kd ka off) s t ∧ Launches s t .laneLd (.uload kd acc) none none 0) ∧
  (∀ (s s1 : State) (h : Here) (kd ka : BitVec 6) (off : BitVec 12) (acc : LaneAcc) (ts : List TlbEntry),
    Issues (.ust kd ka off) s h → s.uniformAccess h .store (uniformEa h ka off) = .ok (acc, ts) →
    s.charge (match acc.place.peer? with | some p => [(p, 1)] | none => []) = .ok s1 →
    CanFly s h .laneSt →
    ∃ t bytes, Took (.ust kd ka off) s t ∧ Launches s t .laneSt (.store bytes 0 8 []) none none h.warp.exec ∧
      bytes.map (fun b => (b.va, b.place, b.mask)) = (List.range 8).map (fun i => (acc.va + i, acc.place.plus i, 0xFF#8)) ∧
      leNat (bytes.map (fun b => b.val)) = (h.warp.kreg kd.toNat).toNat)) ∧
  (∀ (s : State) (h : Here) (kd ka : BitVec 6) (off : BitVec 12), (uniformSpace (uniformEa h ka off)).1 = 0 →
    (uniformEa h ka off).toNat % 8 ≠ 0 →
    (Issues (.uld kd ka off) s h → Raises (.uld kd ka off) s .misalign (uniformEa h ka off) 0) ∧
    (Issues (.ust kd ka off) s h → Raises (.ust kd ka off) s .misalign (uniformEa h ka off) 0))

namespace Sys2Proof.Claims

/-! ## Special registers -/

/-- The special registers and their values (R218 to R223, R361, R362): `n` below is the entry that RSSEL names. -/
def specials (s : State) (h : Here) : List (Nat × BitVec 64) :=
  let p := h.pack
  let w := h.warp
  let n := w.rssel.toNat
  let cluster := p.core / 8
  [(0x000, BitVec.ofNat 64 ((match w.role with
      | .copy => 1 * 2 ^ 16 + 0 * 2 ^ 14
      | .maths => 1 * 2 ^ 16 + 1 * 2 ^ 14
      | .epilogue => 32 * 2 ^ 16 + 2 * 2 ^ 14 + w.vbud.toNat * 2 ^ 10) + w.kbud.toNat * 2 ^ 12 + w.num)),
   (0x001, BitVec.ofNat 64 (if p.wave then 0 else p.x)),
   (0x002, BitVec.ofNat 64 (if p.wave then 0 else p.z * 2 ^ 16 + p.y)),
   (0x003, BitVec.ofNat 64 (if p.wave then 1 else pktGx p.pkt)),
   (0x004, BitVec.ofNat 64 (if p.wave then 1 * 2 ^ 16 + 1 else pktGz p.pkt * 2 ^ 16 + pktGy p.pkt)),
   (0x005, BitVec.ofNat 64 (if p.wave then 1 else p.x % pktClsz p.pkt * 2 ^ 4 + pktClsz p.pkt)),
   (0x006, p.lseq),
   (0x007, BitVec.ofNat 64 (cluster / 21 * 2 ^ 16 + cluster % 21 * 2 ^ 8 + p.core % 8 * 2 ^ 4 +
      (if w.role = .epilogue then w.quad else 0))),
   (0x008, w.exec.setWidth 64), (0x010, w.fpmode.setWidth 64), (0x011, w.fpflags.setWidth 64), (0x012, w.repc.setWidth 64),
   (0x013, w.depth.setWidth 64),
   (0x014, BitVec.ofNat 64 (w.counter .fab * 2 ^ 32 + w.counter .math * 2 ^ 24 + w.counter .copy * 2 ^ 16 +
      w.counter .laneSt * 2 ^ 8 + w.counter .laneLd)),
   (0x015, s.dieCycle.getD (cluster / 21) 0),
   (0x020, w.xpc), (0x021, w.xcause), (0x022, w.xaddr), (0x023, w.xinfo), (0x024, w.rssel.setWidth 64),
   (0x025, (Map.get {} w.stack n).addr),
   (0x026, BitVec.ofNat 64 ((if (Map.get {} w.stack n).kind = .pending then 2 ^ 32 else 0) + (Map.get {} w.stack n).mask.toNat)),
   (0x027, w.xscr0), (0x028, w.xscr1)]

/-- The special registers that can be written, and the warp after `x` has been written there (R76, R101, R102, R222, R223, R361, R362):
reserved bits are not kept. -/
def specialWrites (w : Warp) (x : BitVec 64) : List (Nat × Warp) :=
  let n := w.rssel.toNat
  let e := Map.get {} w.stack n
  let e1 : StackEntry := { e with kind := if x.getLsbD 32 then .pending else .rejoin, mask := x.setWidth 32 }
  [(0x008, if w.role ≠ .epilogue ∨ x.setWidth 32 &&& w.live = 0 then w else { w with exec := x.setWidth 32 &&& w.live }),
   (0x010, { w with fpmode := x.setWidth 2 }), (0x011, { w with fpflags := x.setWidth 5 }),
   (0x012, { w with repc := x.setWidth 32 &&& 0x01FF007F }),
   (0x013, { w with depth := BitVec.ofNat 6 (min 32 (x.toNat % 64)) }),
   (0x020, { w with xpc := x }), (0x021, { w with xcause := x &&& 0x3003F }), (0x022, { w with xaddr := x }),
   (0x023, { w with xinfo := x &&& (if x.getLsbD 63 then 0x81FFFFFFFFFFFFFC else 0xF73F3F0F) }),
   (0x024, { w with rssel := x.setWidth 5 }),
   (0x025, { w with stack := Map.set {} w.stack n { e with addr := x } }),
   (0x026, { w with stack := Map.set {} w.stack n e1 }),
   (0x027, { w with xscr0 := x }), (0x028, { w with xscr1 := x })]

end Sys2Proof.Claims

/-- `usr` and `uws` (R217, R218, R222, R223, R361, R362). `usr` writes the value of its special register into k[KD] and changes
nothing else; `uws` writes k[KA] into its special register and changes nothing else. The tables `specials` and `specialWrites`
give every register that either may name. -/
def Obligations.SpecialRegisters : Prop :=
  (∀ (s : State) (h : Here) (kd : BitVec 6) (idx : BitVec 12), Issues (.usr kd idx) s h →
    ∃ x, (idx.toNat, x) ∈ Claims.specials s h ∧ Took (.usr kd idx) s (s.setCur (fun w => w.setK kd.toNat x))) ∧
  (∀ (s : State) (h : Here) (ka : BitVec 6) (idx : BitVec 12), Issues (.uws ka idx) s h →
    ∃ f : Warp → Warp, (∀ w, (idx.toNat, f w) ∈ Claims.specialWrites w (h.warp.kreg ka.toNat)) ∧
      Took (.uws ka idx) s (s.setCur f))

/-! ## Control -/

/-- Branches (R201, R202): taken, the warp continues at the target; not taken, at the next packet. A call that is taken also
writes the address after its packet to k15. Nothing else changes. Jumps to an address in a register (R203): a multiple of 4
becomes the pc; any other raises MISALIGN with that address in XADDR. -/
def Obligations.Branches : Prop :=
  ((∀ (i : Instr) (s : State) (h : Here) (taken : Bool) (off : BitVec 19), Issues i s h → Claims.branchRow h i = some (taken, off) →
    Took i s (s.setCur (fun w => { w with pc := if taken then Claims.branchTarget s off else Claims.afterPacket s }))) ∧
  (∀ (i : Instr) (s : State) (h : Here) (taken : Bool) (off : BitVec 19), Issues i s h → Claims.callRow h i = some (taken, off) →
    Took i s (s.setCur (fun w => if taken then { w.setK 15 (Claims.afterPacket s) with pc := Claims.branchTarget s off }
      else { w with pc := Claims.afterPacket s })))) ∧
  (∀ (i : Instr) (s : State) (h : Here) (ka : BitVec 6), Issues i s h → Claims.jumpRow i = some ka →
    ((h.warp.kreg ka.toNat).toNat % 4 = 0 → Took i s (s.setCur (fun w => { w with pc := h.warp.kreg ka.toNat }))) ∧
    ((h.warp.kreg ka.toNat).toNat % 4 ≠ 0 → Raises i s .misalign (h.warp.kreg ka.toNat) 0))

namespace Sys2Proof.Claims

/-- The lanes that live after `join` or `exit` (R80, R223); `none` where the word raises RSTACK. -/
def leaves (h : Here) : Instr → Option (BitVec 32)
  | .join => if h.warp.depth = 0 then none else some h.warp.live
  | .exit => some (h.warp.live &&& ~~~h.warp.exec)
  | _ => none

/-- The lanes that leave a wave free the records of their tasks (R32). -/
def afterLeaving (h : Here) (i : Instr) (t : State) : State :=
  if i = .exit ∧ h.pack.wave = true then
    t.modCtx h.pack.ctx (fun x => { x with poolUsed := x.poolUsed - (lanesOf h.warp.exec).length })
  else t

/-- The stack `st` is that of `w` with the mask of every entry it holds cut to `live` (R80, R223). -/
def cutTo (w : Warp) (live : BitVec 32) (st : Map StackEntry) : Prop :=
  ∀ m, Map.get {} st m = (if m < w.depth.toNat then
    { Map.get {} w.stack m with mask := (Map.get {} w.stack m).mask &&& live } else Map.get {} w.stack m)

end Sys2Proof.Claims

/-- The words that push (R79, R204). `brp`: where every active lane has its predicate set the branch is taken, where none has it
the warp falls through, and otherwise the lanes that fall through are pushed as PENDING with the address after the packet, and
the others branch; `mark` pushes its target and EXEC as REJOIN. A full stack raises RSTACK, and so does `join` at an empty one.
`join` at a stack that is not empty, and `exit` (R79, R80, R205, R223). At `exit` the active lanes leave LIVE and, in a wave,
free the records of their tasks (R32). At either, every mask on the stack is cut to LIVE; then entries are popped until one
names a live lane: its lanes become EXEC, its address the pc, and the entries below it stay. Where no entry names a lane that
lives, `join` and `exit` retire the warp: no lane is live or active, the stack is empty, and the pc is after the packet. But a
fault held pending is raised, the oldest first (R416), and a store that must be translated again holds the word (R192). That the
last lanes wait at `exit` for a store that must be translated again (R192) is the model's reading (log 90); so is it that
entries at and above the depth keep their masks (log 30), and that a retirement discards the faults that it does not raise (log
29). -/
def Obligations.Divergence : Prop :=
  ((∀ (s : State) (h : Here) (n : BitVec 3) (off : BitVec 19), Issues (.brp n off) s h →
    let t := h.warp.exec &&& h.warp.preg n.toNat
    let f := h.warp.exec &&& ~~~(h.warp.preg n.toNat)
    let d := h.warp.depth.toNat
    (f = 0 → Took (.brp n off) s (s.setCur (fun w => { w with pc := Claims.branchTarget s off }))) ∧
    (f ≠ 0 → t = 0 → Took (.brp n off) s (s.setCur (fun w => { w with pc := Claims.afterPacket s }))) ∧
    (f ≠ 0 → t ≠ 0 → d ≠ 32 → Took (.brp n off) s (s.setCur (fun w => { w with
      stack := Map.set {} h.warp.stack d { kind := .pending, addr := Claims.afterPacket s, mask := f }
      depth := h.warp.depth + 1, exec := t, pc := Claims.branchTarget s off }))) ∧
    (f ≠ 0 → t ≠ 0 → d = 32 → Raises (.brp n off) s .rstack 0 0)) ∧
  (∀ (s : State) (h : Here) (off : BitVec 19), Issues (.mark off) s h →
    (h.warp.depth.toNat ≠ 32 → Took (.mark off) s (s.setCur (fun w => { w with
      stack := Map.set {} h.warp.stack h.warp.depth.toNat
        { kind := .rejoin, addr := Claims.branchTarget s off, mask := h.warp.exec }
      depth := h.warp.depth + 1 }))) ∧
    (h.warp.depth.toNat = 32 → Raises (.mark off) s .rstack 0 0)) ∧
  (∀ (s : State) (h : Here), Issues .join s h → h.warp.depth = 0 → Raises .join s .rstack 0 0)) ∧
  (∀ (i : Instr) (s : State) (h : Here) (live : BitVec 32) (n : Nat), Issues i s h → Claims.leaves h i = some live →
    n < h.warp.depth.toNat → (Map.get {} h.warp.stack n).mask &&& live ≠ 0 →
    (∀ m, n < m → m < h.warp.depth.toNat → (Map.get {} h.warp.stack m).mask &&& live = 0) →
    ∃ st, Claims.cutTo h.warp live st ∧ Took i s (Claims.afterLeaving h i (s.setCur (fun w => { w with
      stack := st, live := live, exec := (Map.get {} h.warp.stack n).mask &&& live
      depth := BitVec.ofNat 6 n, pc := (Map.get {} h.warp.stack n).addr })))) ∧
  (∀ (i : Instr) (s : State) (h : Here) (live : BitVec 32), Issues i s h → Claims.leaves h i = some live →
    (∀ m, m < h.warp.depth.toNat → (Map.get {} h.warp.stack m).mask &&& live = 0) →
    (h.staleStore = false → h.warp.pending = [] →
      ∃ st, Claims.cutTo h.warp live st ∧ Took i s (Claims.afterLeaving h i (s.setCur (fun w => { w with
        stack := st, live := 0, exec := 0, depth := 0, pc := Claims.afterPacket s })))) ∧
    (∀ (f : PendFault) (fs : List PendFault), h.staleStore = false → h.warp.pending = f :: fs →
      ∀ t, s.takeTrap s.cur.1 s.cur.2 { s.iss.pre with pending := [] } f.cause s.iss.restart f.addr (s.fullInfo (originInfo f.pc)) true = .ok t →
        exec i s = .next (t.setResult .raised)) ∧
    (h.staleStore = true → Holds i s))

/-- Control words without a result (R72, R206, R207, R209): `nop` changes nothing; `yield` counts as an issue of this cycle;
`lit` gives its payload to the word that follows; `waitc` passes where the path's counter is at or below k[KA], and blocks its
warp otherwise. -/
def Obligations.ControlWords : Prop :=
  (∀ (s : State) (h : Here), Issues .nop s h → Took .nop s (s.setCur id)) ∧
  (∀ (s : State) (h : Here), Issues .yield s h → Took .yield s (s.setCur (fun w => { w with lastIssue := s.cycle }))) ∧
  (∀ (s : State) (h : Here) (p : BitVec 24), Issues (.lit p) s h → Took (.lit p) s { s with iss := { s.iss with lit := some p } }) ∧
  (∀ (s : State) (h : Here) (ka fn : BitVec 6), Issues (.waitc ka fn) s h →
    (h.warp.counter (pathOf fn.toNat) ≤ (h.warp.kreg ka.toNat).toNat → Took (.waitc ka fn) s (s.setCur id)) ∧
    ((h.warp.kreg ka.toNat).toNat < h.warp.counter (pathOf fn.toNat) →
      Blocks (.waitc ka fn) s (.waitc (pathOf fn.toNat) (h.warp.kreg ka.toNat))))

namespace Sys2Proof.Claims

/-- The iteration at which a `rep` of count `cnt` starts or goes on (R76): LEFT is REPC[6:0]. -/
def repAt (h : Here) (cnt : BitVec 6) : Nat :=
  if h.warp.repc.toNat % 128 = 0 then 0 else cnt.toNat + 1 - h.warp.repc.toNat % 128

/-- REPC agrees with the `rep` (R76): LEFT is at most CNT + 1, and OFFSET, which is REPC[24:16], is the iterations done times the
stride. -/
def repcFits (h : Here) (cnt : BitVec 6) (str : BitVec 2) : Prop :=
  h.warp.repc.toNat % 128 = 0 ∨
    (h.warp.repc.toNat % 128 ≤ cnt.toNat + 1 ∧ h.warp.repc.toNat / 2 ^ 16 % 512 = repAt h cnt * 2 ^ str.toNat)

end Sys2Proof.Claims

/-- `rep` (R74 to R76), before a target that it may repeat and whose selected fields may take every step, with a REPC that
agrees: it names the iteration, the first or the one that REPC has reached, and the stride. After the last iteration REPC is
zero and the warp goes on after the packet. Before it REPC records the iterations that will be done and those left, and the pc
stays at the packet. `rep` raises REPBAD (R74, R76) before a target that no `rep` may repeat, before one whose selected fields
name no register or cannot take every step, and with a REPC that disagrees. -/
def Obligations.Repeat : Prop :=
  (∀ (s : State) (h : Here) (cnt : BitVec 6) (sd sa sb sk : BitVec 1) (str : BitVec 2) (t : Instr) (fs : List Stepped),
    Issues (.rep cnt sd sa sb sk str) s h → decode s.iss.next = some t →
    stepFields t s.iss.next.toNat (sd == 1) (sa == 1) (sb == 1) (sk == 1) = some fs →
    unrepeatable t = false → stepsBad fs cnt.toNat (2 ^ str.toNat) = false → Claims.repcFits h cnt str →
    let j := Claims.repAt h cnt
    let u := s.setCur (fun w => { w with
      repc := if j = cnt.toNat then 0 else BitVec.ofNat 32 ((j + 1) * 2 ^ str.toNat * 2 ^ 16 + (cnt.toNat - j))
      pc := if j = cnt.toNat then Claims.afterPacket s else s.iss.base })
    Took (.rep cnt sd sa sb sk str) s { u with iss := { u.iss with repJ := some (j, 2 ^ str.toNat) } }) ∧
  (∀ (s : State) (h : Here) (cnt : BitVec 6) (sd sa sb sk : BitVec 1) (str : BitVec 2) (t : Instr),
    Issues (.rep cnt sd sa sb sk str) s h → decode s.iss.next = some t →
    (unrepeatable t = true ∨ stepFields t s.iss.next.toNat (sd == 1) (sa == 1) (sb == 1) (sk == 1) = none ∨
      (∃ fs, stepFields t s.iss.next.toNat (sd == 1) (sa == 1) (sb == 1) (sk == 1) = some fs ∧
        stepsBad fs cnt.toNat (2 ^ str.toNat) = true) ∨ ¬ Claims.repcFits h cnt str) →
    Raises (.rep cnt sd sa sb sk str) s .repbad 0 0)

/-! ## Exceptions -/

namespace Sys2Proof.Claims

/-- What a trap records (R359, R361), `code` being the cause's number in XCAUSE[5:0] and bit 16 set where the fault was held
pending. -/
def trapped (w : Warp) (c : Cause) (xpc xaddr xinfo : BitVec 64) (pend : Bool) : Warp :=
  { w with latch := [], block := none, launchRead := none, midPair := none, xpc := xpc, xaddr := xaddr, xinfo := xinfo, skipWatch := false,
           xcause := BitVec.ofNat 64 (causeCode c + (if pend then 65536 else 0)) }

/-- The words that raise a cause whatever their operands: `trap`, with its code in XINFO[13:8], and a word that is no
instruction. -/
def trapRow : Instr → Option (Cause × Nat)
  | .trap fn => some (.usertrap, fn.toNat * 256)
  | _ => none

end Sys2Proof.Claims

/-- Taking a cause but UE at user level with a handler (R357, R359, R361): XPC is the restart address, XCAUSE the cause's code,
XADDR and XINFO as the cause gives them; the latches empty, the warp waits for nothing, the mark that a `retx` left for the
watchpoints is spent, the level becomes supervisor, and the pc is the handler's address. Nothing else of the part changes. Where
a handler's address comes from (R357): the 16-byte entry of the context's trap table at 16 times the cause's code holds it in
its first 8 bytes; an address of zero, or bit 0 of the next 8 bytes, means that there is no handler; an address that is not a
multiple of 4 halts the context as an entry that cannot be read does. The word count and index in XINFO are read as log 17 says,
and the mark as log 27 says. -/
def Obligations.TrapEntersHandler : Prop :=
  (∀ (s : State) (pid wi : Nat) (p : Pack) (x : Context) (w : Warp) (c : Cause) (xpc xaddr xinfo pc : BitVec 64) (pend : Bool),
    c ≠ .ue → s.pack? pid = some p → s.ctx? p.ctx = some x → w.level = .user → s.handler x c = .ok (.at pc) →
    s.takeTrap pid wi w c xpc xaddr xinfo pend =
      .ok (s.modWarp pid wi (fun _ => { Claims.trapped w c xpc xaddr xinfo pend with level := .supervisor, pc := pc }))) ∧
  (∀ (s : State) (x : Context) (c : Cause) (bs : List (BitVec 8)),
    s.partRead x (descTraps x.desc + 16 * causeCode c) 16 = .ok bs →
    let hpc := leNat (bs.take 8)
    (hpc = 0 ∨ leNat (bs.drop 8) % 2 = 1 → s.handler x c = .ok .none) ∧
    (hpc ≠ 0 → leNat (bs.drop 8) % 2 = 0 → hpc % 4 ≠ 0 → s.handler x c = .ok .bad) ∧
    (hpc ≠ 0 → leNat (bs.drop 8) % 2 = 0 → hpc % 4 = 0 → s.handler x c = .ok (.at (BitVec.ofNat 64 hpc))))

/-- A cause but UE that halts the context (R357, R359, R367). Without a handler to enter, a warp at user level records the cause
and is held, and the context's halt line is raised with SOURCE cause; a cause raised at supervisor level is recorded nowhere in
the warp: its latches empty, it waits for nothing and is held, and the halt line is raised with that SOURCE. SLICE without a
handler does nothing. Raising the halt line (R375): a clear line becomes raised with the raise's record; a raise while a halt is
under way is only recorded; a halted context ignores it. The restart address in the record is the model's reading (log 86). -/
def Obligations.TrapHalts : Prop :=
  (∀ (s : State) (pid wi : Nat) (p : Pack) (x : Context) (w : Warp) (c : Cause) (xpc xaddr xinfo : BitVec 64) (pend : Bool),
    c ≠ .ue → s.pack? pid = some p → s.ctx? p.ctx = some x →
    (w.level = .user → (s.handler x c = .ok .none ∧ c ≠ .slice ∨ s.handler x c = .ok .bad) →
      s.takeTrap pid wi w c xpc xaddr xinfo pend =
        .ok ((s.modWarp pid wi (fun _ => { Claims.trapped w c xpc xaddr xinfo pend with preHeld := true })).raiseHalt p.ctx
          (raiseRec p w .cause (causeCode c) xpc))) ∧
    (∀ hd, w.level = .supervisor → s.handler x c = .ok hd → ¬(c = .slice ∧ hd = .none) →
      s.takeTrap pid wi w c xpc xaddr xinfo pend =
        .ok ((s.modWarp pid wi (fun _ => { w with latch := [], block := none, launchRead := none, midPair := none, preHeld := true })).raiseHalt p.ctx
          (raiseRec p w .superCause (causeCode c) xpc))) ∧
    (s.handler x .slice = .ok .none → s.takeTrap pid wi w .slice xpc xaddr xinfo pend = .ok s)) ∧
  (∀ (s : State) (c : Nat) (x : Context) (r : RaiseRec), c < s.contexts.length → s.ctx? c = some x →
    (x.halt = .clear → ∃ us, (s.raiseHalt c r).ctx? c = some { x with halt := .raised us [r] }) ∧
    (∀ us rs, x.halt = .raised us rs → (s.raiseHalt c r).ctx? c = some { x with halt := .raised us (rs ++ [r]) }) ∧
    (x.halt = .halted → (s.raiseHalt c r).ctx? c = some x) ∧
    (∀ d, d ≠ c → (s.raiseHalt c r).ctx? d = s.ctx? d))

/-- A word that is no instruction, by its opcode or by a reserved operand, is refused by the decoder, and as a packet of its own
it raises ILLEGAL (R9, R83). `trap` and words that are no instruction (R9, R83, R208): `trap` raises USERTRAP with its code in
XINFO[13:8]; an unassigned encoding raises ILLEGAL. `retx` (R364): the level becomes user, the pc becomes XPC, the latches
empty, and bit 17 of XCAUSE is consumed: set, it lets the next packet pass the watchpoints. An XPC that is not a multiple of 4
halts the context instead, with MISALIGN, and one that is not canonical with XLATE. That a bad XPC halts with the SOURCE of a
cause at supervisor level is the model's reading (log 31), and so is the restart address in the record (log 86). -/
def Obligations.TrapWords : Prop :=
  (∀ (w : Warp) (base : Nat) (word : BitVec 32), decode word = none →
    packetCheck w base none (formWords none [word]) = some (.illegal, 0)) ∧
  ((∀ (s : State) (h : Here) (fn : BitVec 6), Issues (.trap fn) s h →
    Raises (.trap fn) s .usertrap 0 (BitVec.ofNat 64 (fn.toNat * 256))) ∧
  (∀ (s : State) (h : Here) (w : BitVec 32), s.here = some h → Raises (.unassignedEncoding w) s .illegal 0 0)) ∧
  (∀ (s : State) (h : Here), Issues .retx s h →
    (h.warp.xpc.toNat % 4 = 0 → canonical h.warp.xpc.toNat = true → Took .retx s (s.setCur (fun v => { v with
      level := .user, pc := h.warp.xpc, latch := [], skipWatch := h.warp.xcause.getLsbD 17
      xcause := v.xcause &&& ~~~(1#64 <<< 17) }))) ∧
    (h.warp.xpc.toNat % 4 ≠ 0 ∨ canonical h.warp.xpc.toNat = false →
      let c : Cause := if h.warp.xpc.toNat % 4 ≠ 0 then .misalign else .xlate
      Took .retx s ((s.setCur (fun v => { v with preHeld := true })).raiseHalt h.pack.ctx (raiseRec h.pack h.warp .superCause (causeCode c) s.iss.restart))))

namespace Sys2Proof.Claims

/-- R82's table: the roles that may issue a word, by the major opcode of its encoding. -/
def rights (role : Role) (major : Nat) (i : Instr) : Bool :=
  let spawns := match i with | .spawn _ _ | .spawnDc _ _ _ => true | _ => false
  let asks := match i with | .alw _ _ | .bralw _ _ => true | _ => false
  if major ≤ 0x1F then true
  else if major ≤ 0x63 then role == .epilogue
  else if major ≤ 0x6B then role == .epilogue || !spawns
  else if major ≤ 0x73 then role == .copy || asks
  else if major ≤ 0x7B then role == .maths
  else true

/-- The system words of R82 that are not allowed at user level. -/
def system (major : Nat) (i : Instr) : Bool :=
  decide (0x7C ≤ major) && i != .park && i != .idle && i != .sev

/-- Special registers (R217): the one that a word names, and whether it writes it. -/
def special : Instr → Option (Nat × Bool)
  | .usr _ idx => some (idx.toNat, false)
  | .uws _ idx => some (idx.toNat, true)
  | _ => none

/-- A word stands with its literal as R72, R82 and R83 ask: `bralw` has one; a word that takes one has zero in the field that it
replaces; and the literal of an event word names an event. -/
def placed (i : Instr) (lit : Option (BitVec 24)) : Bool :=
  match lit with
  | none => (match i with | .bralw _ _ => false | _ => true)
  | some p => (match i with
    | .evset _ _ | .evclr _ _ | .evwait _ _ => litFieldZero i && decide (p.toNat < 256)
    | _ => takesLit i && litFieldZero i)

/-- The word needs supervisor level (R82, R217, R218): a system word, or an access to a special register without the right. -/
def supervisor (i : Instr) : Bool :=
  privileged i || (special i).any (fun x => decide (0x020 ≤ x.1) || (x.2 && (x.1 == 0x008 || x.1 == 0x012 || x.1 == 0x013)))

end Sys2Proof.Claims

/-- Who may issue what (R72, R82, R83, R217, R362). Each role may use the groups of R82's table, by the word's major opcode, and
the system words but `park`, `idle` and `sev` are privileged. A word, with a literal before it or without, is checked in R83's
order: ILLEGAL where it stands with its literal as no rule lets it, or names FPMODE or FPFLAGS in another role than the
epilogue's; ROLE where its group is outside its warp's role; PRIV where it needs supervisor level at user level, which `usr` or
`uws` of a register from 0x020 upwards does, and `uws` of EXECR, REPC and RSDEPTH; REGRANGE where it names a register that the
warp lacks; and a word that none of these meets passes. -/
def Obligations.RightsChecked : Prop :=
  (∀ (i : Instr) (e : BitVec 32) (role : Role), wf i = true → encode i = some e →
    mayUse role (group i) = Claims.rights role (e.toNat / 2 ^ 24 % 128) i ∧
    privileged i = Claims.system (e.toNat / 2 ^ 24 % 128) i) ∧
  (∀ (i : Instr) (lit : Option (BitVec 24)) (w : Warp),
    let lacks := (reads lit i ++ writes i).any w.lacks
    let fp := (Claims.special i).any (fun x => x.1 == 0x010 || x.1 == 0x011)
    let sound := wf i = true ∧ Claims.placed i lit = true ∧ (fp = true → w.role = .epilogue)
    (¬sound → decodeCheck i lit w = some (1, .illegal)) ∧
    (sound → mayUse w.role (group i) = false → decodeCheck i lit w = some (2, .role)) ∧
    (sound → mayUse w.role (group i) = true → Claims.supervisor i = true → w.level = .user → decodeCheck i lit w = some (3, .priv)) ∧
    (sound → mayUse w.role (group i) = true → (Claims.supervisor i = false ∨ w.level = .supervisor) →
      decodeCheck i lit w = if lacks then some (6, .regrange) else none))

/-! ## Vector words -/

namespace Sys2Proof.Claims

/-- The value that an integer or bit word gives lane `l`, with its write bit and destination (R231 to R233): `a` and `b` are the two
sources, `b` the sign-extended literal where there is one, `d` the accumulator of R228. -/
def intRow (h : Here) (i : Instr) : Option (BitVec 1 × BitVec 7 × (Nat → BitVec 32)) :=
  let A (c : BitVec 8) (l : Nat) : BitVec 32 := h.warp.srcInt c l
  let B (c : BitVec 8) (l : Nat) : BitVec 32 := h.warp.srcIntB h.lit c l
  let D (d : BitVec 7) (l : Nat) : BitVec 32 := h.warp.vreg d.toNat l
  let least (x y : BitVec 32) : BitVec 32 := if x.toInt ≤ y.toInt then x else y
  let most (x y : BitVec 32) : BitVec 32 := if y.toInt ≤ x.toInt then x else y
  match i with
  | .vadd w d a b => some (w, d, fun l => A a l + B b l)
  | .vsub w d a b => some (w, d, fun l => A a l - B b l)
  | .vmul w d a b => some (w, d, fun l => A a l * B b l)
  | .vmulh w d a b => some (w, d, fun l => BitVec.ofNat 32 ((A a l).toNat * (B b l).toNat / 2 ^ 32))
  | .vmad w d a b => some (w, d, fun l => A a l * B b l + D d l)
  | .vadds w d a b => some (w, d, fun l => BitVec.ofInt 32 (max (-2 ^ 31) (min (2 ^ 31 - 1) ((A a l).toInt + (B b l).toInt))))
  | .vsubs w d a b => some (w, d, fun l => BitVec.ofInt 32 (max (-2 ^ 31) (min (2 ^ 31 - 1) ((A a l).toInt - (B b l).toInt))))
  | .vand w d a b => some (w, d, fun l => A a l &&& B b l)
  | .vor w d a b => some (w, d, fun l => A a l ||| B b l)
  | .vxor w d a b => some (w, d, fun l => A a l ^^^ B b l)
  | .vshl w d a b => some (w, d, fun l => A a l <<< ((B b l).toNat % 32))
  | .vshr w d a b => some (w, d, fun l => A a l >>> ((B b l).toNat % 32))
  | .vsar w d a b => some (w, d, fun l => (A a l).sshiftRight ((B b l).toNat % 32))
  | .vfsh w d a b => some (w, d, fun l => ((A a l ++ B b l) >>> ((D d l).toNat % 64)).setWidth 32)
  | .vmin w d a b => some (w, d, fun l => least (A a l) (B b l))
  | .vmax w d a b => some (w, d, fun l => most (A a l) (B b l))
  | .vminu w d a b => some (w, d, fun l => if (A a l).toNat ≤ (B b l).toNat then A a l else B b l)
  | .vmaxu w d a b => some (w, d, fun l => if (B b l).toNat ≤ (A a l).toNat then A a l else B b l)
  | .vsel w d a b => some (w, d, fun l => if D d l ≠ 0 then A a l else B b l)
  | .vabs w d a => some (w, d, fun l => if (A a l).toInt < 0 then -(A a l) else A a l)
  | .vmov w d a => some (w, d, fun l => A a l)
  | .vpm w d n => some (w, d, fun l => if (h.warp.preg n.toNat).getLsbD l then BitVec.allOnes 32 else 0)
  | .vcbx w d a b => some (w, d, fun l =>
      (h.warp.entry ((A a l).toNat / 2 ^ (4 * ((B b l).toNat % 8)) % 16)).setWidth 32 <<< 16)
  | _ => none

end Sys2Proof.Claims

/-- The vector integer and bit words and `vcbx` (R228, R231 to R233, R241): each active lane receives the word's value; the
result goes where W and D say, and to the latch, and nothing else changes (the rule of VectorResult). The bit-field words (R232,
R233), by the bits of what each lane receives: `vbfe` the field of LEN bits from bit POS, sign-extended where S is set; `vbfi`
the accumulator with that field replaced by the low bits of a; `vbrev` the bits in reverse; `vclz` the number of leading zeros;
`vcnt` the number of ones. -/
def Obligations.VectorInteger : Prop :=
  (∀ (i : Instr) (s : State) (h : Here) (w : BitVec 1) (d : BitVec 7) (f : Nat → BitVec 32), Issues i s h →
    Claims.intRow h i = some (w, d, f) → Took i s (s.vecResult w d ((lanesOf h.warp.exec).map (fun l => (l, f l))))) ∧
  ((∀ (s : State) (h : Here) (w : BitVec 1) (d : BitVec 7) (a b : BitVec 8), Issues (.vbfe w d a b) s h →
    ∃ f : Nat → BitVec 32, Took (.vbfe w d a b) s (s.vecResult w d ((lanesOf h.warp.exec).map (fun l => (l, f l)))) ∧
      ∀ l j, j < 32 →
        let x := h.warp.srcInt a l
        let c := h.warp.srcIntB h.lit b l
        let pos := c.toNat % 32
        let len := min 32 (c.toNat / 256 % 64)
        (f l).getLsbD j = if j < len then x.getLsbD (pos + j) else c.getLsbD 16 && decide (0 < len) && x.getLsbD (pos + len - 1)) ∧
  (∀ (s : State) (h : Here) (w : BitVec 1) (d : BitVec 7) (a b : BitVec 8), Issues (.vbfi w d a b) s h →
    ∃ f : Nat → BitVec 32, Took (.vbfi w d a b) s (s.vecResult w d ((lanesOf h.warp.exec).map (fun l => (l, f l)))) ∧
      ∀ l j, j < 32 →
        let x := h.warp.srcInt a l
        let c := h.warp.srcIntB h.lit b l
        let pos := c.toNat % 32
        let len := min 32 (c.toNat / 256 % 64)
        (f l).getLsbD j = if pos ≤ j ∧ j < pos + len then x.getLsbD (j - pos) else (h.warp.vreg d.toNat l).getLsbD j) ∧
  (∀ (s : State) (h : Here) (w : BitVec 1) (d : BitVec 7) (a : BitVec 8), Issues (.vbrev w d a) s h →
    ∃ f : Nat → BitVec 32, Took (.vbrev w d a) s (s.vecResult w d ((lanesOf h.warp.exec).map (fun l => (l, f l)))) ∧
      ∀ l j, j < 32 → (f l).getLsbD j = (h.warp.srcInt a l).getLsbD (31 - j)) ∧
  (∀ (s : State) (h : Here) (w : BitVec 1) (d : BitVec 7) (a : BitVec 8), Issues (.vclz w d a) s h →
    ∃ f : Nat → Nat, Took (.vclz w d a) s (s.vecResult w d ((lanesOf h.warp.exec).map (fun l => (l, BitVec.ofNat 32 (f l))))) ∧
      ∀ l, let x := h.warp.srcInt a l
        f l ≤ 32 ∧ (∀ i, 32 - f l ≤ i → x.getLsbD i = false) ∧ (f l < 32 → x.getLsbD (31 - f l) = true)) ∧
  (∀ (s : State) (h : Here) (w : BitVec 1) (d : BitVec 7) (a : BitVec 8), Issues (.vcnt w d a) s h →
    Took (.vcnt w d a) s (s.vecResult w d ((lanesOf h.warp.exec).map (fun l =>
      (l, BitVec.ofNat 32 ((List.range 32).countP (fun j => (h.warp.srcInt a l).getLsbD j))))))))

namespace Sys2Proof.Claims

/-- The flags of the active lanes `e` are ORed into FPFLAGS (R102, R226). -/
def flagged (t : State) (e : BitVec 32) (f : Nat → BitVec 5) : State :=
  t.setCur (fun v => { v with fpflags := v.fpflags ||| orFlags ((lanesOf e).map f) })

end Sys2Proof.Claims

namespace Sys2Proof.Claims

/-! ## Numbers, by their bits (R92, R98 to R100) -/

/-- The sign, exponent and mantissa fields of a code of a format (R92). -/
def negative (f : FloatFmt) (x : Nat) : Bool := x / 2 ^ (f.eb + f.mb) % 2 == 1
def expField (f : FloatFmt) (x : Nat) : Nat := x / 2 ^ f.mb % 2 ^ f.eb
def manField (f : FloatFmt) (x : Nat) : Nat := x % 2 ^ f.mb

/-- What a code is (R92, R93): an infinity, a NaN, a signalling one, or a finite number. -/
def infinite (f : FloatFmt) (x : Nat) : Bool := f.hasInf && expField f x == 2 ^ f.eb - 1 && manField f x == 0
def notNumber (f : FloatFmt) (x : Nat) : Bool :=
  if f.hasInf then expField f x == 2 ^ f.eb - 1 && manField f x != 0 else f.nan != 0 && x % 2 ^ (f.eb + f.mb) == f.nan
def signals (f : FloatFmt) (x : Nat) : Bool := f.sigs && notNumber f x && decide (manField f x < 2 ^ (f.mb - 1))
def finite (f : FloatFmt) (x : Nat) : Bool := !infinite f x && !notNumber f x

/-- The value of a finite code, in units of the format's smallest subnormal. -/
def units (f : FloatFmt) (x : Nat) : Int :=
  let u : Nat := if expField f x = 0 then manField f x else (2 ^ f.mb + manField f x) * 2 ^ (expField f x - 1)
  if negative f x then -(u : Int) else u

/-- The place of a code that is no NaN in the order of its format, both zeros being equal. -/
def place (f : FloatFmt) (x : Nat) : Int :=
  let u : Nat := x % 2 ^ (f.eb + f.mb)
  if negative f x then -(u : Int) else u

end Sys2Proof.Claims

/-- The words that write a predicate (R234, R237): each active lane's bit becomes the result, and inactive lanes keep theirs;
nothing else changes but, for `vfcmp`, that the flags of its active lanes are ORed into FPFLAGS. `vcmp` has the conditions of
`ucmp`; `vmp` is set where the source is not zero; `vfcmp` compares as R100 says. What `vfcmp` finds (R100, R237), by the codes'
bits: with no NaN the conditions EQ, NE, LT, LE, GT, GE, UN and OR are those of the order in which -0 and +0 are equal, and no
flag is set; with a NaN all but NE and UN are false, LT, LE, GT and GE set NV, and the others set it for a signalling NaN alone.
-/
def Obligations.Predicates : Prop :=
  ((∀ (s : State) (h : Here) (cond : BitVec 4) (n : BitVec 3) (a b : BitVec 8), Issues (.vcmp cond n a b) s h →
    ∃ m : BitVec 32, Took (.vcmp cond n a b) s (s.setCur (fun w => w.setP n.toNat m)) ∧
      ∀ l, l < 32 →
        let x := h.warp.srcInt a l
        let y := h.warp.srcIntB h.lit b l
        (h.warp.exec.getLsbD l = true → (m.getLsbD l = true ↔ match cond.toNat with
          | 0 => x = y | 1 => x ≠ y
          | 2 => x.toInt < y.toInt | 3 => x.toInt ≤ y.toInt | 4 => y.toInt < x.toInt | 5 => y.toInt ≤ x.toInt
          | 6 => x.toNat < y.toNat | 7 => x.toNat ≤ y.toNat | 8 => y.toNat < x.toNat | _ => y.toNat ≤ x.toNat)) ∧
        (h.warp.exec.getLsbD l = false → m.getLsbD l = (h.warp.preg n.toNat).getLsbD l)) ∧
  (∀ (s : State) (h : Here) (n : BitVec 3) (a : BitVec 8), Issues (.vmp n a) s h →
    ∃ m : BitVec 32, Took (.vmp n a) s (s.setCur (fun w => w.setP n.toNat m)) ∧
      ∀ l, l < 32 →
        (h.warp.exec.getLsbD l = true → (m.getLsbD l = true ↔ h.warp.srcInt a l ≠ 0)) ∧
        (h.warp.exec.getLsbD l = false → m.getLsbD l = (h.warp.preg n.toNat).getLsbD l)) ∧
  (∀ (s : State) (h : Here) (cond : BitVec 4) (n : BitVec 3) (a b : BitVec 8), Issues (.vfcmp cond n a b) s h →
    let r (l : Nat) : Bool × BitVec 5 := fp32.compare cond.toNat (h.warp.srcFp a l).toNat (h.warp.srcFpB h.lit b l).toNat
    ∃ m : BitVec 32,
      Took (.vfcmp cond n a b) s (Claims.flagged (s.setCur (fun w => w.setP n.toNat m)) h.warp.exec (fun l => (r l).2)) ∧
      ∀ l, l < 32 →
        (h.warp.exec.getLsbD l = true → m.getLsbD l = (r l).1) ∧
        (h.warp.exec.getLsbD l = false → m.getLsbD l = (h.warp.preg n.toNat).getLsbD l))) ∧
  (∀ a b cond : Nat, a < 2 ^ 32 → b < 2 ^ 32 → cond < 8 →
    let x := Claims.place fp32 a
    let y := Claims.place fp32 b
    (Claims.notNumber fp32 a = false → Claims.notNumber fp32 b = false →
      (fp32.compare cond a b).2 = 0 ∧ ((fp32.compare cond a b).1 = true ↔ match cond with
        | 0 => x = y | 1 => x ≠ y | 2 => x < y | 3 => x ≤ y | 4 => y < x | 5 => y ≤ x | 6 => False | _ => True)) ∧
    (Claims.notNumber fp32 a = true ∨ Claims.notNumber fp32 b = true →
      fp32.compare cond a b = (cond == 1 || cond == 6,
        if 2 ≤ cond ∧ cond ≤ 5 ∨ Claims.signals fp32 a = true ∨ Claims.signals fp32 b = true then 16 else 0)))

namespace Sys2Proof.Claims

/-- The code and the flags that a floating word gives lane `l` (R235, R238, R239, R241): one rounding of the exact result by FPMODE,
or by the word's own RND. -/
def floatRow (h : Here) (i : Instr) : Option (BitVec 1 × BitVec 7 × (Nat → Nat × BitVec 5)) :=
  let A (c : BitVec 8) (l : Nat) : Nat := (h.warp.srcFp c l).toNat
  let B (c : BitVec 8) (l : Nat) : Nat := (h.warp.srcFpB h.lit c l).toNat
  let D (d : BitVec 7) (l : Nat) : Nat := (h.warp.vreg d.toNat l).toNat
  let m := modeOf h.warp.fpmode.toNat
  match i with
  | .vfadd w d a b => some (w, d, fun l => fp32.add m (A a l) (B b l))
  | .vfsub w d a b => some (w, d, fun l => fp32.sub m (A a l) (B b l))
  | .vfmul w d a b => some (w, d, fun l => fp32.mul m (A a l) (B b l))
  | .vfma w d a b => some (w, d, fun l => fp32.fma m (A a l) (B b l) (D d l))
  | .vfmin w d a b => some (w, d, fun l => fp32.pick false (A a l) (B b l))
  | .vfmax w d a b => some (w, d, fun l => fp32.pick true (A a l) (B b l))
  | .vfrcp w d a => some (w, d, fun l => specRcp m (A a l))
  | .vfrsq w d a => some (w, d, fun l => specRsq m (A a l))
  | .vfsqrt w d a => some (w, d, fun l => specSqrt m (A a l))
  | .vfexp2 w d a => some (w, d, fun l => specExp2 (A a l))
  | .vflog2 w d a => some (w, d, fun l => specLog2 (A a l))
  | .vfsin w d a => some (w, d, fun l => specTrig true (A a l))
  | .vfcos w d a => some (w, d, fun l => specTrig false (A a l))
  | .vfcvt w d a rnd conv => some (w, d, fun l =>
      let r := convert conv.toNat (if rnd.toNat < 4 then modeOf rnd.toNat else m) (h.warp.srcInt a l)
      (r.1.toNat, r.2))
  | .vhfma2 w d a b => some (w, d, fun l =>
      let half (x k : Nat) : Nat := x / 2 ^ (16 * k) % 65536
      let r (k : Nat) := fp16.fma m (half (h.warp.srcFp16 a l).toNat k) (half (h.warp.srcFp16 b l).toNat k) (half (D d l) k)
      ((r 0).1 + (r 1).1 * 65536, (r 0).2 ||| (r 1).2))
  | _ => none

end Sys2Proof.Claims

namespace Sys2Proof.Claims

/-- Rounding of `n / 2^j` by mode onto the integers of `grid`, which are even where `even` says so (R98). -/
def roundsTo (grid even : Int → Prop) (mode : Mode) (n : Int) (j : Nat) (y : Int) : Prop :=
  let far (z : Int) : Nat := (z * 2 ^ j - n).natAbs
  grid y ∧ match mode with
    | .rne => ∀ z, grid z → far y ≤ far z ∧ (far z = far y → z = y ∨ even y)
    | .rtz => y.natAbs * 2 ^ j ≤ n.natAbs ∧ (0 ≤ n → 0 ≤ y) ∧ (n ≤ 0 → y ≤ 0) ∧
        ∀ z : Int, grid z → z.natAbs * 2 ^ j ≤ n.natAbs → z.natAbs ≤ y.natAbs
    | .rup => n ≤ y * 2 ^ j ∧ ∀ z, grid z → n ≤ z * 2 ^ j → y ≤ z
    | .rdn => y * 2 ^ j ≤ n ∧ ∀ z, grid z → z * 2 ^ j ≤ n → z ≤ y

/-- The values of a format without a bound above, in units of its smallest subnormal (R98, R118): those whose significand has no more
bits than the format's; even are those that need one bit less. -/
def onGrid (f : FloatFmt) (y : Int) : Prop := ∃ m e : Nat, m < 2 ^ (f.mb + 1) ∧ y.natAbs = m * 2 ^ e
def evenGrid (f : FloatFmt) (y : Int) : Prop := ∃ m e : Nat, m < 2 ^ f.mb ∧ y.natAbs = m * 2 ^ (e + 1)

/-- What an exact result that is not zero gives (R98, R99): `n / 2^j` in units of the smallest subnormal is rounded; within the format
the rounded value stands, with NX where it differs and UF where it is then below the smallest normal; above it the result is the
infinity or the greatest magnitude of R98's table, with OF and NX. -/
def gives (f : FloatFmt) (mode : Mode) (n : Int) (j : Nat) (r : Nat × BitVec 5) : Prop :=
  let neg := decide (n < 0)
  let toInf := f.hasInf && (match mode with | .rne => true | .rtz => false | .rup => !neg | .rdn => neg)
  ∃ y : Int, roundsTo (onGrid f) (evenGrid f) mode n j y ∧
    if y.natAbs ≤ (units f f.top).natAbs then
      r.1 < 2 ^ (1 + f.eb + f.mb) ∧ finite f r.1 = true ∧ units f r.1 = y ∧ negative f r.1 = neg ∧
        r.2 = (if y * 2 ^ j = n then 0 else if y.natAbs < 2 ^ f.mb then 3 else 1)
    else r = (f.sign neg + (if toInf then f.infCode else f.top), 5)

end Sys2Proof.Claims

namespace Sys2Proof.Claims

/-- The conversions of R104 from FP32 to a narrower floating format, and to an integer between two bounds. -/
def narrower : List (Nat × FloatFmt) := [(0x00, fp16), (0x02, bf16), (0x04, e4m3), (0x06, e5m2), (0x08, e2m1)]
def toInteger : List (Nat × Int × Int) :=
  [(0x0A, -2 ^ 31, 2 ^ 31 - 1), (0x0C, 0, 2 ^ 32 - 1), (0x0E, -128, 127), (0x0F, -8, 7), (0x10, 0, 15)]

end Sys2Proof.Claims

/-- The floating words (R235, R238, R239): each active lane receives its code, the flags of the active lanes are ORed into
FPFLAGS, and nothing else changes. The fields of FP32, FP16, BF16, E4M3, E5M2 and E2M1 (R92, R98, R100): the bits of exponent
and mantissa, the bias, whether there is an infinity, the greatest magnitude, and the canonical NaN, where there is one. The
arithmetic of the floating words (R98 to R100, R118, R236), in FP32 and in FP16. A sum, difference, product or product plus d of
finite numbers is the exact value rounded once by the mode, with its flags; an exact zero has the sign of its operation. A NaN
gives the canonical NaN, with NV where one signals; opposing infinities and an infinity times zero are invalid; the least and
the greatest are those of the order with -0 below +0, and of a number and a NaN the number. The conversions of `vfcvt` (R98,
R99, R104): a finite FP32 number is rounded once onto the narrower format, or onto the integers, where one outside the bounds
saturates with NV; a NaN gives the format's canonical NaN, or 0 with NV, and an infinity the infinity, or the bound with NV. An
integer is rounded onto FP32. `vfma2` (R65, R228, R235): two fused multiply-adds, one for each register of the pairs; with W = 1
both registers of D's pair receive their result in each active lane; the flags of both, in the active lanes, are ORed into
FPFLAGS; and nothing else changes, its latch among it. -/
def Obligations.VectorFloat : Prop :=
  (∀ (i : Instr) (s : State) (h : Here) (w : BitVec 1) (d : BitVec 7) (f : Nat → Nat × BitVec 5), Issues i s h →
    Claims.floatRow h i = some (w, d, f) →
    Took i s (Claims.flagged (s.vecResult w d ((lanesOf h.warp.exec).map (fun l => (l, BitVec.ofNat 32 (f l).1)))) h.warp.exec
      (fun l => (f l).2))) ∧
  ([fp32, fp16, bf16, e4m3, e5m2, e2m1].map (fun f => (f.eb, f.mb, f.bias, f.hasInf, f.top, f.nan)) =
    [(8, 23, 127, true, 0x7F7FFFFF, 0x7FC00000), (5, 10, 15, true, 0x7BFF, 0x7E00), (8, 7, 127, true, 0x7F7F, 0x7FC0),
     (4, 3, 7, false, 0x7E, 0x7F), (5, 2, 15, true, 0x7B, 0x7E), (2, 1, 1, false, 7, 0)]) ∧
  (∀ (f : FloatFmt) (mode : Mode) (a b d : Nat), f = fp32 ∨ f = fp16 → a < 2 ^ (1 + f.eb + f.mb) → b < 2 ^ (1 + f.eb + f.mb) →
    d < 2 ^ (1 + f.eb + f.mb) →
    let u := Claims.units f
    let neg := Claims.negative f
    let j := f.bias + f.mb - 1
    let zero (p q : Bool) : Nat × BitVec 5 := (f.sign (if p = q then p else mode == .rdn), 0)
    let sig (l : List Nat) : BitVec 5 := if l.any (Claims.signals f) then 16 else 0
    let below (x y : Nat) : Prop := Claims.place f x < Claims.place f y ∨
      (Claims.place f x = Claims.place f y ∧ neg x = true ∧ neg y = false)
    (Claims.finite f a = true → Claims.finite f b = true →
      (u a + u b ≠ 0 → Claims.gives f mode (u a + u b) 0 (f.add mode a b)) ∧ (u a + u b = 0 → f.add mode a b = zero (neg a) (neg b)) ∧
      (u a - u b ≠ 0 → Claims.gives f mode (u a - u b) 0 (f.sub mode a b)) ∧ (u a - u b = 0 → f.sub mode a b = zero (neg a) (!neg b)) ∧
      (u a * u b ≠ 0 → Claims.gives f mode (u a * u b) j (f.mul mode a b)) ∧ (u a * u b = 0 → f.mul mode a b = (f.sign (neg a != neg b), 0)) ∧
      (Claims.finite f d = true → let n := u a * u b + u d * 2 ^ j
        (n ≠ 0 → Claims.gives f mode n j (f.fma mode a b d)) ∧ (n = 0 → f.fma mode a b d = zero (neg a != neg b) (neg d)))) ∧
    (Claims.notNumber f a = true ∨ Claims.notNumber f b = true →
      f.add mode a b = (f.nan, sig [a, b]) ∧ f.sub mode a b = (f.nan, sig [a, b]) ∧ f.mul mode a b = (f.nan, sig [a, b]) ∧
      (f.fma mode a b d).1 = f.nan) ∧
    (Claims.notNumber f d = true → Claims.finite f a = true → Claims.finite f b = true → f.fma mode a b d = (f.nan, sig [d])) ∧
    (Claims.infinite f a = true →
      (Claims.finite f b = true → f.add mode a b = (a, 0) ∧
        f.mul mode a b = if u b = 0 then (f.nan, 16) else (f.sign (neg a != neg b) + f.infCode, 0)) ∧
      (u b = 0 → Claims.finite f b = true → f.fma mode a b d = (f.nan, 16)) ∧
      (Claims.infinite f b = true → f.add mode a b = if a = b then (a, 0) else (f.nan, 16))) ∧
    (Claims.notNumber f a = false → Claims.notNumber f b = false → ∀ greatest : Bool, (f.pick greatest a b).2 = 0 ∧
      (below a b → (f.pick greatest a b).1 = if greatest then b else a) ∧ (below b a → (f.pick greatest a b).1 = if greatest then a else b) ∧
      (a = b → (f.pick greatest a b).1 = a)) ∧
    (Claims.notNumber f a = true → ∀ greatest : Bool, f.pick greatest a b = (if Claims.notNumber f b then f.nan else b, sig [a, b]) ∧
      f.pick greatest b a = (if Claims.notNumber f b then f.nan else b, sig [a, b]))) ∧
  (∀ (mode : Mode) (x : BitVec 32),
    let a := x.toNat
    let u := Claims.units fp32 a
    let neg := Claims.negative fp32 a
    (∀ c ∈ Claims.narrower, let f := c.2
      let r : Nat × BitVec 5 := ((convert c.1 mode x).1.toNat, (convert c.1 mode x).2)
      (Claims.finite fp32 a = true → u ≠ 0 → Claims.gives f mode u (149 - (f.bias + f.mb - 1)) r) ∧
      (Claims.finite fp32 a = true → u = 0 → r = (f.sign neg, 0)) ∧
      (Claims.infinite fp32 a = true → r = if f.hasInf then (f.sign neg + f.infCode, 0) else (f.sign neg + f.top, 16)) ∧
      (Claims.notNumber fp32 a = true → r = (f.nan, if f.nan = 0 ∨ Claims.signals fp32 a = true then 16 else 0))) ∧
    (∀ c ∈ Claims.toInteger, let lo := c.2.1
      let hi := c.2.2
      let r := convert c.1 mode x
      (Claims.finite fp32 a = true → ∃ y, Claims.roundsTo (fun _ => True) (fun z => z % 2 = 0) mode u 149 y ∧
        r = if u < lo * 2 ^ 149 then (BitVec.ofInt 32 lo, 16) else if hi < y then (BitVec.ofInt 32 hi, 16)
          else (BitVec.ofInt 32 y, if y * 2 ^ 149 = u then 0 else 1)) ∧
      (Claims.infinite fp32 a = true → r = (BitVec.ofInt 32 (if neg then lo else hi), 16)) ∧
      (Claims.notNumber fp32 a = true → r = (0, 16))) ∧
    (x ≠ 0 → Claims.gives fp32 mode (x.toInt * 2 ^ 149) 0 ((convert 0x0B mode x).1.toNat, (convert 0x0B mode x).2) ∧
      Claims.gives fp32 mode (x.toNat * 2 ^ 149) 0 ((convert 0x0D mode x).1.toNat, (convert 0x0D mode x).2))) ∧
  (∀ (s : State) (h : Here) (w : BitVec 1) (d : BitVec 7) (a b : BitVec 8), Issues (.vfma2 w d a b) s h →
    let r (l k : Nat) := fp32.fma (modeOf h.warp.fpmode.toNat) (h.warp.srcHalf a l k).toNat (h.warp.srcHalfB h.lit b l k).toNat
      (h.warp.vreg (d.toNat + k) l).toNat
    ∃ f : Warp → Warp,
      Took (.vfma2 w d a b) s (Claims.flagged (s.setCur f) h.warp.exec (fun l => (r l 0).2 ||| (r l 1).2)) ∧
      ∀ u, f u = { u with v := (f u).v, tags := (f u).tags } ∧ (∀ c l, l < 32 → (f u).vreg c l =
        if w = 1 ∧ c = d.toNat ∧ h.warp.exec.getLsbD l = true then BitVec.ofNat 32 (r l 0).1
        else if w = 1 ∧ c = d.toNat + 1 ∧ h.warp.exec.getLsbD l = true then BitVec.ofNat 32 (r l 1).1
        else u.vreg c l))

/-- The codebook (R107, R119, R240, R241). `vcbld`: active lanes 0 to 15 write the low halves of their sources to the entries of
their numbers, and nothing else changes. `vcbq`: in each active lane the index that `quantise` chooses (R107, R119) among the
sixteen entries, read as BF16, for the FP32 source replaces the nibble that b names in the accumulator, and the flags of the
active lanes are ORed into FPFLAGS. That an immediate A of `vcbq` is read as a bit pattern, not as a number, is the model's
reading (log 12). -/
def Obligations.Codebook : Prop :=
  (∀ (s : State) (h : Here) (a : BitVec 8), Issues (.vcbld a) s h →
    ∃ f : Map (BitVec 16) → Map (BitVec 16), Took (.vcbld a) s (s.setCur (fun w => { w with codebook := f w.codebook })) ∧
      ∀ m i, Map.get 0 (f m) i = if i < 16 ∧ h.warp.exec.getLsbD i = true then (h.warp.srcInt a i).extractLsb' 0 16
        else Map.get 0 m i) ∧
  (∀ (s : State) (h : Here) (w : BitVec 1) (d : BitVec 7) (a b : BitVec 8), Issues (.vcbq w d a b) s h →
    let q (l : Nat) : Nat × BitVec 5 := quantise ((List.range 16).map (fun i => (i, bf16.decode (Map.get 0 h.warp.codebook i).toNat)))
      (fp32.decode (h.warp.srcInt a l).toNat)
    (∀ l, (q l).1 < 16) ∧
    Took (.vcbq w d a b) s (Claims.flagged (s.vecResult w d ((lanesOf h.warp.exec).map (fun l =>
      let sh := 4 * ((h.warp.srcIntB h.lit b l).toNat % 8)
      (l, ((h.warp.vreg d.toNat l) &&& ~~~(0xF#32 <<< sh)) ||| (BitVec.ofNat 32 (q l).1 <<< sh))))) h.warp.exec (fun l => (q l).2)))

/-! ## Words across lanes -/

namespace Sys2Proof.Claims

/-- The lane that a shuffle reads for lane `l` (R243), `b` being the lane's operand B. -/
def shuffleRow : Instr → Option (BitVec 1 × BitVec 7 × BitVec 8 × BitVec 8 × (Nat → Nat → Int))
  | .vshflIdx w d a b => some (w, d, a, b, fun _ b => ((b % 32 : Nat) : Int))
  | .vshflUp w d a b => some (w, d, a, b, fun l b => (l : Int) - b)
  | .vshflDown w d a b => some (w, d, a, b, fun l b => (l : Int) + b)
  | .vshflXor w d a b => some (w, d, a, b, fun l b => ((l ^^^ (b % 32) : Nat) : Int))
  | _ => none

/-- The one value that every active lane receives from the active lanes' predicate bits `m` (R244). -/
def voteRow : Instr → Option (BitVec 1 × BitVec 7 × BitVec 3 × (BitVec 32 → BitVec 32 → BitVec 32))
  | .vvoteAny w d n => some (w, d, n, fun m _ => if m = 0 then 0 else 1)
  | .vvoteAll w d n => some (w, d, n, fun m e => if m = e then 1 else 0)
  | .vvoteBallot w d n => some (w, d, n, fun m _ => m)
  | _ => none

end Sys2Proof.Claims

namespace Sys2Proof.Claims

/-- Node (k, j) of R245's tree over the active lanes' values, with the OR of the flags of every operation at it and below it. -/
def node (m : Mode) (op : Nat) (leaf : Nat → Option (BitVec 32)) : Nat → Nat → Option (BitVec 32) × BitVec 5
  | 0, j => (leaf j, 0)
  | k + 1, j =>
    let x := node m op leaf k (2 * j)
    let y := node m op leaf k (2 * j + 1)
    match x.1, y.1 with
    | some a, some b => (some (treeOp m op a b).1, x.2 ||| y.2 ||| (treeOp m op a b).2)
    | none, v => (v, x.2 ||| y.2)
    | v, none => (v, x.2 ||| y.2)

/-- The inclusive prefix of lane `i` (R245): the nodes that cover lanes 0 to i, the greatest first, with the flags of the operations
that combine them. -/
def scan (m : Mode) (op : Nat) (leaf : Nat → Option (BitVec 32)) (i : Nat) : Option (BitVec 32) × BitVec 5 :=
  ([5, 4, 3, 2, 1, 0].foldl (fun (acc : (Option (BitVec 32) × BitVec 5) × Nat) k =>
    if (i + 1).testBit k then
      let n := (node m op leaf k (acc.2 / 2 ^ k)).1
      ((match acc.1.1, n with
        | some a, some b => (some (treeOp m op a b).1, acc.1.2 ||| (treeOp m op a b).2)
        | none, v => (v, acc.1.2)
        | v, none => (v, acc.1.2)), acc.2 + 2 ^ k)
    else acc) ((none, 0), 0)).1

end Sys2Proof.Claims

/-- Shuffles, votes, broadcast and match (R242 to R244). A shuffle gives each active lane the source of the lane it names, or
its own where that lies outside 0 to 31; a vote, one value from the predicate; `vbcast`, the source of the lane that the lowest
active lane names; `vmatch`, the mask of the active lanes that hold the same value. `vred` and `vscan` (R245), by the rule's own
tree: every active lane of `vred` receives node (5, 0), and active lane i of `vscan` the combination of the nodes that cover
lanes 0 to i; the flags of every operation of the tree, and for `vscan` of those that combine its nodes, are ORed into FPFLAGS;
nothing else changes but as VectorResult says. That an immediate operand of a reduction or scan is read as a bit pattern, also
with a floating operation, is the model's reading (log 97). -/
def Obligations.CrossLane : Prop :=
  ((∀ (i : Instr) (s : State) (h : Here) (w : BitVec 1) (d : BitVec 7) (a b : BitVec 8) (pick : Nat → Nat → Int), Issues i s h →
    Claims.shuffleRow i = some (w, d, a, b, pick) →
    Took i s (s.vecResult w d ((lanesOf h.warp.exec).map (fun l =>
      let t := pick l (h.warp.srcIntB h.lit b l).toNat
      (l, h.warp.srcInt a (if 0 ≤ t ∧ t ≤ 31 then t.toNat else l)))))) ∧
  (∀ (i : Instr) (s : State) (h : Here) (w : BitVec 1) (d : BitVec 7) (n : BitVec 3) (f : BitVec 32 → BitVec 32 → BitVec 32),
    Issues i s h → Claims.voteRow i = some (w, d, n, f) →
    Took i s (s.vecResult w d ((lanesOf h.warp.exec).map (fun l =>
      (l, f (h.warp.exec &&& h.warp.preg n.toNat) h.warp.exec))))) ∧
  (∀ (s : State) (h : Here) (w : BitVec 1) (d : BitVec 7) (a b : BitVec 8) (l0 : Nat), Issues (.vbcast w d a b) s h →
    h.warp.exec.getLsbD l0 = true → (∀ l, l < l0 → h.warp.exec.getLsbD l = false) →
    Took (.vbcast w d a b) s (s.vecResult w d ((lanesOf h.warp.exec).map (fun l =>
      (l, h.warp.srcInt a ((h.warp.srcIntB h.lit b l0).toNat % 32)))))) ∧
  (∀ (s : State) (h : Here) (w : BitVec 1) (d : BitVec 7) (a : BitVec 8), Issues (.vmatch w d a) s h →
    ∃ f : Nat → BitVec 32, Took (.vmatch w d a) s (s.vecResult w d ((lanesOf h.warp.exec).map (fun l => (l, f l)))) ∧
      ∀ l j, h.warp.exec.getLsbD l = true → j < 32 →
        ((f l).getLsbD j = true ↔ h.warp.exec.getLsbD j = true ∧ h.warp.srcInt a j = h.warp.srcInt a l))) ∧
  (∀ (s : State) (h : Here) (w : BitVec 1) (d : BitVec 7) (a : BitVec 8) (op : BitVec 4),
    let m := modeOf h.warp.fpmode.toNat
    let leaf (l : Nat) : Option (BitVec 32) := if h.warp.exec.getLsbD l then some (h.warp.srcInt a l) else none
    let root := Claims.node m op.toNat leaf 5 0
    (Issues (.vred w d a op) s h →
      Took (.vred w d a op) s ((s.vecResult w d ((lanesOf h.warp.exec).map (fun l => (l, root.1.getD 0)))).setCur
        (fun v => { v with fpflags := v.fpflags ||| root.2 }))) ∧
    (Issues (.vscan w d a op) s h →
      let r (l : Nat) := Claims.scan m op.toNat leaf l
      Took (.vscan w d a op) s (Claims.flagged ((s.vecResult w d ((lanesOf h.warp.exec).map (fun l => (l, (r l).1.getD 0)))).setCur
        (fun v => { v with fpflags := v.fpflags ||| root.2 })) h.warp.exec (fun l => (r l).2))))

/-! ## Memory words -/

/-- Translation of an access through its page (R134 to R138): a page of a stripe set has its peer by the set, which the access
reads unless its translation holds it; a store or atomic to a page with W = 0, a fetch from a page with X = 0 or that is not
local, and an atomic on a host page raise PROT; otherwise a local page's byte is at the frame plus the offset, and so is a host
page's; and one of a peer's page at that peer where the context may use it, else FABRIC. Each cause has the address in XADDR.
The order of the causes of a page with two faults is the model's reading (log 23). -/
def Obligations.Translation : Prop :=
  ∀ (s : State) (x : Context) (use : Use) (va : Nat) (t0 : TlbEntry) (set : List Nat), s.page x va = .ok t0 →
    (if leafKind t0.leaf = 2 then s.stripeSet x t0 va else .ok []) = .ok set →
    let t : TlbEntry := { t0 with stripe := set }
    let kind := leafKind t0.leaf
    let peer := if kind = 2 then set.getD (stripeMember set.length va) 0 else leafPeer t0.leaf
    let denied := ((use = .store ∨ use = .atomic) ∧ leafW t0.leaf = false) ∨
      (use = .fetch ∧ (leafX t0.leaf = false ∨ kind ≠ 0)) ∨ (use = .atomic ∧ kind = 3)
    (denied → s.translate x use va = raiseAt .prot va) ∧
    (¬denied → kind = 0 → s.translate x use va = .ok (t, .dram (leafFrame t0.leaf + va % t0.size))) ∧
    (¬denied → kind = 3 → s.translate x use va = .ok (t, .host (leafFrame t0.leaf + va % t0.size))) ∧
    (¬denied → kind = 1 ∨ kind = 2 → s.peerUsable x peer = true → s.translate x use va = .ok (t, .peer peer va)) ∧
    (¬denied → kind = 1 ∨ kind = 2 → s.peerUsable x peer = false → s.translate x use va = raiseAt .fabric va)

/-- The address of a lane (R142), for a view of global memory that does not convert, with STRIDE 0 and elements of `z` bytes: an
element inside EXTENT is at BASE + e z; one outside raises VIEW with its index in XADDR where CLAMP is 0 or EXTENT is 0, is void
where CLAMP is 2, and is moved to the nearest element inside where CLAMP is 1; an address that is not a multiple of `z` raises
MISALIGN, and one that a range lock covers LOCKHIT. The element that a MISALIGN reports is read as log 25 says. -/
def Obligations.LaneAddress : Prop :=
  ∀ (s : State) (h : Here) (v : BitVec 320) (z lane : Nat) (use : Use) (e : Int), viewSpace v = 0 → viewConv v = false →
    viewSfmt v = 0 → viewStride v = 0 → viewZp v = false → 0 < z →
    let inside := 0 ≤ e ∧ e + 1 ≤ (viewExtent v : Int)
    let i : Nat := if inside then e.toNat else if e < 0 then 0 else viewExtent v - 1
    let va := (viewBase v + i * z) % 2 ^ 64
    let aligned := (2 * viewBase v + i * (2 * z)) % (2 * z) = 0
    (inside ∨ (viewClamp v = 1 ∧ 1 ≤ viewExtent v) → aligned →
      s.spaceLock h 0 (use != .load) va z = none → ∀ t p, s.translate h.ctx use va = .ok (t, p) →
      s.laneAccess h v z use lane e =
        .ok (some ({ lane := lane, va := va, place := p, len := z, pos := i, scales := [], zeros := []
                     via := leafKind t.leaf + 4 * leafStripe t.leaf }, [t]))) ∧
    (inside ∨ (viewClamp v = 1 ∧ 1 ≤ viewExtent v) → aligned → ∀ a, s.spaceLock h 0 (use != .load) va z = some a →
      s.laneAccess h v z use lane e = laneFail 3 .lockhit a) ∧
    (inside ∨ (viewClamp v = 1 ∧ 1 ≤ viewExtent v) → ¬aligned → s.laneAccess h v z use lane e = laneFail 2 .misalign va) ∧
    (¬inside → viewClamp v = 0 ∨ viewExtent v = 0 → s.laneAccess h v z use lane e = laneFail 1 .view (intBits 64 e)) ∧
    (¬inside → viewClamp v = 2 → 1 ≤ viewExtent v → s.laneAccess h v z use lane e = .ok none)

namespace Sys2Proof.Claims

/-- A lane-memory word by what it is: whether it takes a scratchpad space, SEM, the data code, the offset's source, the view, the size
in bytes of a lane's access. -/
def loadRow : Instr → Option (Bool × BitVec 1 × BitVec 7 × BitVec 8 × BitVec 5 × Nat)
  | .vld sem data off view size => some (false, sem, data, off, view, 2 ^ size.toNat)
  | .sld sem data off view size => some (true, sem, data, off, view, 2 ^ size.toNat)
  | _ => none

def storeRow : Instr → Option (Bool × Bool × BitVec 1 × BitVec 7 × BitVec 8 × BitVec 5 × BitVec 3)
  | .vst sem data off view size => some (false, false, sem, data, off, view, size)
  | .vstm sem data off view size => some (false, true, sem, data, off, view, size)
  | .sst sem data off view size => some (true, false, sem, data, off, view, size)
  | _ => none

/-- Atomics: as above, with the operation. -/
def atomicRow : Instr → Option (Bool × BitVec 1 × BitVec 7 × BitVec 8 × BitVec 5 × BitVec 3)
  | .vatom sem data off view op => some (false, sem, data, off, view, op)
  | .satom sem data off view op => some (true, sem, data, off, view, op)
  | _ => none

end Sys2Proof.Claims

/-- Lane stores (R144, R146, R166, R192, R246, R247, R250, R253): under the same conditions, with allowance at the peers they
reach, no earlier write of the warp to a scale that the store reads still in flight, and, for a release, no store that must be
translated again, the store goes in flight with its bytes, formed at issue from the data registers; with SEM = 1 it is a release
at the view's scope. In `vstm` the lanes take part whose mask enables a byte. The lanes that take part have made a side effect.
No byte of memory has changed, unless the word has found an error that had struck memory (R392). Where a lane's store bytes come
from and go to (R144, R246, R250), for a view that does not convert: byte `j` of the lane's data registers, the least
significant first, is stored `j` bytes after the lane's address where the mask enables it. -/
def Obligations.LaneStores : Prop :=
  (∀ (i : Instr) (s s1 : State) (h : Here) (scr masked : Bool) (sem : BitVec 1) (data : BitVec 7) (off : BitVec 8) (view : BitVec 5)
    (size : BitVec 3) (v : BitVec 320) (accs : List LaneAcc) (voids : List Nat) (ts : List TlbEntry) (bytes : List StoreByte)
    (late : List (LaneAcc × Nat)),
    Issues i s h → Claims.storeRow i = some (scr, masked, sem, data, off, view, size) →
    let z := 2 ^ size.toNat
    let maskOf (l : Nat) : Nat := if masked then (h.warp.vreg (data.toNat + sizeRegs size) l).toNat % 2 ^ z else 2 ^ 32 - 1
    let sc := if sem = 1 then some (scopeOf (viewScope v)) else none
    h.view view scr masked z = .ok v →
    s.gather h v z .store off ((lanesOf h.warp.exec).filter (fun l => maskOf l != 0)) = .ok (accs, voids, ts) →
    s.iss.pre.groupsBusy v accs = false →
    s.laneBytes h v z data maskOf (viaAt ts) accs = .ok (bytes, late) →
    watchGlobal h v (accs.flatMap (fun a => (accTouches v false true a).map (fun t =>
      { t with ixs := if t.wr then t.ixs.filter (fun i => maskOf a.lane / 2 ^ i % 2 == 1) else t.ixs }))) = .ok () →
    (sem = 1 → h.staleStore = false) →
    s.charge (peerUnits (bytes.map (fun b => (b.place, b.va)) ++
      late.flatMap (fun a => (upTo a.1.len).map (fun i => (a.1.place.plus i, a.1.va + i))))) = .ok s1 →
    CanFly s h .laneSt → ∃ t, Took i s t ∧ Launches s t .laneSt (.store bytes v z late) none sc (laneMask accs)) ∧
  (∀ (v : BitVec 320) (via z mask x : Nat) (a : LaneAcc) (ss zs : List Nat), viewConv v = false → a.len = z →
    storeBytes v via z mask x ss zs a =
      ((List.range z).filter (fun j => mask / 2 ^ j % 2 == 1)).map (fun j =>
        { va := a.va + j, via := via, place := a.place.plus j, mask := 0xFF, val := BitVec.ofNat 8 (x / 2 ^ (8 * j)) }))

/-- Atomics and compare-and-swap (R192, R247, R251, R252, R399): under the conditions of a lane load, with allowance at the
peers they reach and, for a release, no store that must be translated again, the operation goes in flight on LANE-LD with each
lane's operands; with SEM = 1 it is an acquire and a release at the view's scope. What an atomic leaves in memory from the old
value and its operand (R251): add, min, max (signed), and, or, xor, exchange; `fadd` leaves their FP32 sum, rounded to nearest
(VectorFloat pins that sum). -/
def Obligations.LaneAtomics : Prop :=
  ((∀ (i : Instr) (s s1 : State) (h : Here) (scr : Bool) (sem : BitVec 1) (data : BitVec 7) (off : BitVec 8) (view : BitVec 5)
    (op : BitVec 3) (v : BitVec 320) (accs : List LaneAcc) (voids : List Nat) (ts : List TlbEntry),
    Issues i s h → Claims.atomicRow i = some (scr, sem, data, off, view, op) → h.view view scr true 4 = .ok v →
    s.gather h v 4 .atomic off (lanesOf h.warp.exec) = .ok (accs, voids, ts) →
    watchGlobal h v (accs.flatMap (accTouches v true true)) = .ok () → (sem = 1 → h.staleStore = false) →
    s.charge (peerUnits (accs.flatMap (fun a => (upTo a.len).map (fun i => (a.place.plus i, a.va + i))))) = .ok s1 →
    let sc := if sem = 1 then some (scopeOf (viewScope v)) else none
    let kind : FlightKind := .atomic data op (accs.map (fun a =>
      { acc := a, exp := 0, new := (h.warp.vreg data.toNat a.lane).setWidth 64 }))
    CanFly s h .laneLd → ∃ t, Took i s t ∧ Launches s t .laneLd kind sc sc (laneMask accs)) ∧
  (∀ (s s1 : State) (h : Here) (sem : BitVec 1) (data : BitVec 7) (off : BitVec 8) (view : BitVec 5) (wide : BitVec 1)
    (v : BitVec 320) (accs : List LaneAcc) (voids : List Nat) (ts : List TlbEntry),
    Issues (.vcas sem data off view wide) s h →
    let z := if wide = 1 then 8 else 4
    let r (k l : Nat) : BitVec 32 := h.warp.vreg (data.toNat + k) l
    h.view view false true z = .ok v → s.gather h v z .atomic off (lanesOf h.warp.exec) = .ok (accs, voids, ts) →
    watchGlobal h v (accs.flatMap (accTouches v true true)) = .ok () → (sem = 1 → h.staleStore = false) →
    s.charge (peerUnits (accs.flatMap (fun a => (upTo a.len).map (fun i => (a.place.plus i, a.va + i))))) = .ok s1 →
    let sc := if sem = 1 then some (scopeOf (viewScope v)) else none
    let kind : FlightKind := .cas data (wide == 1) (accs.map (fun a =>
      { acc := a, exp := if wide = 1 then r 1 a.lane ++ r 0 a.lane else (r 0 a.lane).setWidth 64
        new := if wide = 1 then r 3 a.lane ++ r 2 a.lane else (r 1 a.lane).setWidth 64 }))
    CanFly s h .laneLd → ∃ t, Took (.vcas sem data off view wide) s t ∧ Launches s t .laneLd kind sc sc (laneMask accs))) ∧
  (∀ (x y : BitVec 32),
    atomicNew 0 32 x.toNat y.toNat = (x + y).toNat ∧
    atomicNew 1 32 x.toNat y.toNat = (if y.toInt < x.toInt then y else x).toNat ∧
    atomicNew 2 32 x.toNat y.toNat = (if x.toInt < y.toInt then y else x).toNat ∧
    atomicNew 3 32 x.toNat y.toNat = (x &&& y).toNat ∧ atomicNew 4 32 x.toNat y.toNat = (x ||| y).toNat ∧
    atomicNew 5 32 x.toNat y.toNat = (x ^^^ y).toNat ∧ atomicNew 6 32 x.toNat y.toNat = y.toNat ∧
    atomicNew 7 32 x.toNat y.toNat = (fp32.add .rne x.toNat y.toNat).1)

/-- Lane loads (R129, R184, R246, R247, R249, R253): where the view may be used, every active lane's access passes its checks,
no watchpoint is hit and nothing keeps the operation from going in flight, the load goes in flight for the lanes that are not
void; with SEM = 1 it is an acquire at the view's scope. `vprf` (R255) fills lines of its core's L1 and changes nothing else,
with level 1 nothing at all. A view that may not be used, or of a scratchpad space, raises VIEW. The address 0 of a VIEW of
`vprf` is the model's reading (log 26), and so is when it raises (log 79). -/
def Obligations.LaneLoads : Prop :=
  (∀ (i : Instr) (s : State) (h : Here) (scr : Bool) (sem : BitVec 1) (data : BitVec 7) (off : BitVec 8) (view : BitVec 5) (z : Nat)
    (v : BitVec 320) (accs : List LaneAcc) (voids : List Nat) (ts : List TlbEntry),
    Issues i s h → Claims.loadRow i = some (scr, sem, data, off, view, z) → h.view view scr false z = .ok v →
    s.gather h v z .load off (lanesOf h.warp.exec) = .ok (accs, voids, ts) →
    watchGlobal h v (accs.flatMap (accTouches v true false)) = .ok () → CanFly s h .laneLd →
    ∃ t, Took i s t ∧ Launches s t .laneLd (.load data z v accs voids)
      (if sem = 1 then some (scopeOf (viewScope v)) else none) none 0) ∧
  (∀ (s : State) (h : Here) (off : BitVec 8) (view : BitVec 5) (lvl : BitVec 3), Issues (.vprf off view lvl) s h →
    let v := h.pack.views.getD view.toNat 0
    let usable := viewOk v = true ∧ viewSpace v = 0 ∧ viewSuits v (if viewConv v then encBits (viewRenc v) / 8 else 1) = true
    (usable → ∃ t, Took (.vprf off view lvl) s t ∧ SameMemory s t ∧ t = { s with cores := t.cores } ∧ (lvl = 1 → t = s) ∧
      ∀ n, t.core n = (if n = h.pack.core then { s.core n with l1 := (t.core n).l1, lines := (t.core n).lines } else s.core n)) ∧
    (¬usable → Raises (.vprf off view lvl) s .view 0 0))

namespace Sys2Proof.Claims

/-- The tile words of a size code (R254): four E4M3 values, two BF16 values, or one, two or four whole words. -/
def wordsOf (size : BitVec 3) : Nat := [4, 2, 1, 2, 4, 4, 4, 4].getD size.toNat 4

/-- What `trd` gives register `j` of a lane whose first word is `e` (R115, R254): words of a tile whose KIND is not 2 are scaled by
its T. -/
def readWord (ts : TileState) (size : BitVec 3) (e j : Nat) : BitVec 32 :=
  let val (i : Nat) : Nat := if ts.kind = 2 then ts.word i else ts.scaled i
  let as (f : FloatFmt) (i : Nat) : Nat := f.rne (fp32.decode (val i))
  if size = 0 then BitVec.ofNat 32 (as e4m3 e + as e4m3 (e + 1) * 2 ^ 8 + as e4m3 (e + 2) * 2 ^ 16 + as e4m3 (e + 3) * 2 ^ 24)
  else if size = 1 then BitVec.ofNat 32 (as bf16 e + as bf16 (e + 1) * 2 ^ 16)
  else BitVec.ofNat 32 (val (e + j))

/-- What `twr` puts in word `i` of those that a lane writes (R254). -/
def writtenWord (w : Warp) (data : BitVec 7) (size : BitVec 3) (l i : Nat) : BitVec 32 :=
  let r (j : Nat) : BitVec 32 := w.vreg (data.toNat + j) l
  if size = 0 then BitVec.ofNat 32 (fp32.rne (e4m3.decode ((r 0).toNat / 2 ^ (8 * i) % 256)))
  else if size = 1 then BitVec.ofNat 32 (fp32.rne (bf16.decode ((r 0).toNat / 2 ^ (16 * i) % 65536)))
  else r i

end Sys2Proof.Claims

/-- `trd` and `twr` (R129, R254) on a tile that the pack holds, that no error has struck, and that no command uncompleted names
but, for `trd`, `mtst`: `trd` puts a load in flight that will write, for each active lane, the words as they stand at issue from
the element its offset names, and tag those that are poisoned; `twr` stores the lanes' words in the tile at once, clears their
poison, and makes a CLEAN tile FP32 with TSET 0. A narrow size on a tile whose KIND will be 2 raises FMT. Of lanes that name one
word the highest-numbered one wins, which is the model's choice (log 102). -/
def Obligations.TileWords : Prop :=
  ∀ (s : State) (h : Here) (data : BitVec 7) (off : BitVec 8) (t size : BitVec 3) (phys : Nat) (ts : TileState),
    s.tileOf h.pack t.toNat = .ok (phys, ts) → ts.strikes = [] →
    let cmds := s.tileCmds h.pack t.toNat
    let k := Claims.wordsOf size
    let refused := size.toNat ≤ 1 ∧ (s.futureTile h.pack t.toNat ts).kind = 2
    let count := if size.toNat ≤ 1 then 1 else k
    (∀ lanes, ¬refused → tileLanes h t.toNat size off (cmds.any (fun c => c.op != .mtst)) = .ok lanes →
      Issues (.trd data off t size) s h → CanFly s h .laneLd →
      ∃ u, Took (.trd data off t size) s u ∧ Launches s u .laneLd
        (.tileLoad
          (lanes.flatMap (fun le => (List.range count).map (fun j => ((data.toNat + j) * 32 + le.1, Claims.readWord ts size le.2 j))))
          (lanes.flatMap (fun le => if (List.range k).any (fun i => ts.bad (le.2 + i)) then
            (List.range count).map (fun j => (data.toNat + j) * 32 + le.1) else []))) none none 0) ∧
    (∀ lanes, ¬refused → tileLanes h t.toNat size off (!cmds.isEmpty) = .ok lanes →
      Issues (.twr data off t size) s h → CanFly s h .laneSt →
      let ws := lanes.flatMap (fun le => (List.range k).map (fun i => (le.2 + i, Claims.writtenWord h.warp data size le.1 i)))
      ∃ u, Took (.twr data off t size) s u ∧
        Launches s u .laneSt .tileStore none none (lanes.foldl (fun m le => m ||| (1#32 <<< le.1)) 0) ∧
        (phys < 8 → (u.core h.pack.core).tiles[phys]? = some { owner := some (h.pack.id, t.toNat)
                                                               state := { kind := if ts.kind = 0 then 1 else ts.kind
                                                                          tset := if ts.kind = 0 then false else ts.tset, t := ts.t
                                                                          words := Map.setAll 0 ts.words ws
                                                                          poison := Map.setAll false ts.poison (ws.map (fun w => (w.1, false))) } })) ∧
    (refused → (Issues (.trd data off t size) s h → Raises (.trd data off t size) s .fmt 0 0) ∧
      (Issues (.twr data off t size) s h → Raises (.twr data off t size) s .fmt 0 0))

/-! ## Fences, barriers, leashes -/

/-- `fence` (R124, R170, R173, R182, R263), at every scope. Kind 1, an acquire, waits for the warp's loads and atomics in
flight, and the other kinds for every earlier access; kinds 0 and 1 then empty the core's L1 where the scope is at least the
cluster; kind 3 lets the warp's later near-memory commands see every write so far. That a fence waits alike at every scope is
the model's reading (log 20). -/
def Obligations.Fences : Prop :=
  ∀ (s : State) (h : Here) (kind scope : BitVec 3), Issues (.fence kind scope) s h →
    let waits := if kind = 1 then h.warp.loading else h.warp.outstanding
    let wide := (scopeOf scope.toNat).wide
    (waits = true → Holds (.fence kind scope) s) ∧
    (waits = false → kind = 0 ∨ kind = 1 → wide = true →
      Took (.fence kind scope) s (s.modCore h.pack.core (fun k => { k with l1 := [], lines := [], l1Gen := k.l1Gen + 1 }))) ∧
    (waits = false → kind = 0 ∨ kind = 1 → wide = false → Took (.fence kind scope) s s) ∧
    (waits = false → kind = 2 → Took (.fence kind scope) s s) ∧
    (waits = false → kind = 3 → Took (.fence kind scope) s (s.setCur (fun w => { w with nmFence := s.wseq })))

/-- An arrival at a barrier (R267): a barrier that is closed, that the participant has left or arrived at in this phase, or
whose arrivals are all made, takes none. Otherwise the arrival counts; with every expected arrival made and no byte outstanding
the phase ends: its number rises, the departures apply and the arrivals clear. The barrier words (R178, R266 to R268), on a
barrier that the pack holds: `bari` sets its count where no arrival and no byte is outstanding and the count is 1 to its
participants, else BAROVER; `barv` and `bard` wait for the warp's earlier accesses, then arrive, `barv` returning the phase
arrived in; a refused arrival raises BAROVER; `barw` passes a phase that has ended, as an acquire whose scope is the device's
where an `nmc` or a `cstep` has delivered to the barrier in that phase, and blocks on another; `bart` adds to the bytes
outstanding, and where that completes the phase ends it. A barrier that the pack does not hold raises REGRANGE. That a release
waits for every access of its warp, at every scope, is the model's reading (log 20). -/
def Obligations.Barriers : Prop :=
  (∀ (b : Barrier) (w : Nat) (leave : Bool),
    (b.closed = true ∨ b.gone.getLsbD w = true ∨ b.arrmask.getLsbD w = true ∨ b.arrived = b.expect → b.arrive w leave = none) ∧
    (b.closed = false → b.gone.getLsbD w = false → b.arrmask.getLsbD w = false → b.arrived ≠ b.expect →
      let n := if leave then b.nextdrop + 1 else b.nextdrop
      (b.arrived + 1 = b.expect → b.txb = 0 →
        ∃ c, b.arrive w leave = some c ∧ c.phase = b.phase + 1 ∧ c.expect = b.expect - n ∧ c.nextdrop = 0 ∧ c.arrived = 0 ∧
          c.arrmask = 0 ∧ c.txb = 0 ∧ c.closed = decide (b.expect - n = 0) ∧ c.parts = b.parts ∧ c.wides = b.wides ∧
          c.gone = if leave then b.gone ||| (1#512 <<< w) else b.gone) ∧
      (¬(b.arrived + 1 = b.expect ∧ b.txb = 0) →
        ∃ c, b.arrive w leave = some c ∧ c.phase = b.phase ∧ c.expect = b.expect ∧ c.arrived = b.arrived + 1 ∧
          c.arrmask = b.arrmask ||| (1#512 <<< w) ∧ c.nextdrop = n ∧ c.txb = b.txb ∧ c.closed = false ∧
          c.gone = if leave then b.gone ||| (1#512 <<< w) else b.gone))) ∧
  (∀ (s : State) (h : Here) (ka bar : BitVec 6),
    (∀ b : Barrier, s.barrier? h.pack bar = some b →
      let n := (h.warp.kreg ka.toNat).toNat
      let me := participantOf h.pack h.warp bar
      let ph := (h.warp.kreg ka.toNat).extractLsb' 0 32
      let bytes : Int := b.txb + (n % 2 ^ 32 : Nat)
      (Issues (.bari ka bar) s h → b.arrived = 0 → b.txb = 0 → 1 ≤ n → n ≤ b.parts →
        Took (.bari ka bar) s (s.setBarrier h.pack bar { b with expect := n, nextdrop := 0, gone := 0, closed := false })) ∧
      (Issues (.bari ka bar) s h → b.arrived ≠ 0 ∨ b.txb ≠ 0 ∨ n = 0 ∨ b.parts < n → Raises (.bari ka bar) s .barover 0 0) ∧
      (Issues (.barv ka bar) s h → h.warp.outstanding = false → ∀ c, b.arrive me false = some c →
        Took (.barv ka bar) s ((s.setBarrier h.pack bar c).setCur (fun w => w.setK ka.toNat (b.phase.setWidth 64)))) ∧
      (Issues (.barv ka bar) s h → h.warp.outstanding = true → Holds (.barv ka bar) s) ∧
      (Issues (.barv ka bar) s h → h.warp.outstanding = false → b.arrive me false = none → Raises (.barv ka bar) s .barover 0 0) ∧
      (Issues (.bard bar) s h → h.warp.outstanding = false → ∀ c, b.arrive me true = some c →
        Took (.bard bar) s (s.setBarrier h.pack bar c)) ∧
      (Issues (.bard bar) s h → h.warp.outstanding = true → Holds (.bard bar) s) ∧
      (Issues (.bard bar) s h → h.warp.outstanding = false → b.arrive me true = none → Raises (.bard bar) s .barover 0 0) ∧
      (Issues (.barw ka bar) s h → b.closed = true ∨ (1 ≤ (b.phase - ph).toNat ∧ (b.phase - ph).toNat < 2 ^ 31) →
        Took (.barw ka bar) s (s.acquireAt h.pack.core (if ph ∈ b.wides then .device else if bar.getLsbD 5 then .cluster else .pack))) ∧
      (Issues (.barw ka bar) s h → b.closed = false → ¬(1 ≤ (b.phase - ph).toNat ∧ (b.phase - ph).toNat < 2 ^ 31) →
        Blocks (.barw ka bar) s (.barw bar ph)) ∧
      (Issues (.bart ka bar) s h → b.closed = false → bytes < 2 ^ 31 →
        Took (.bart ka bar) s (s.setBarrier h.pack bar (if b.arrived = b.expect ∧ bytes = 0 then
          { b with txb := bytes, phase := b.phase + 1, expect := b.expect - b.nextdrop, nextdrop := 0, arrived := 0, arrmask := 0
                   closed := decide (b.expect - b.nextdrop = 0) }
          else { b with txb := bytes }))) ∧
      (Issues (.bart ka bar) s h → b.closed = true ∨ 2 ^ 31 ≤ bytes → Raises (.bart ka bar) s .barover 0 0)) ∧
    (s.barrier? h.pack bar = none → ∀ i ∈ [Instr.bari ka bar, .barv ka bar, .bard bar, .barw ka bar, .bart ka bar],
      Issues i s h → Raises i s .regrange 0 0))

/-- The leash words (R178, R271, R272), on a leash that the pack holds. A warp that blocked on it stands behind those that
blocked there before it. `qpush`: a leash without room for it and them blocks it; with room, and the warp's earlier accesses
performed, the handle takes the next slot. `qpop`: a leash without handles for it and them blocks it; otherwise the oldest
queued handle is returned and its slot held. `qpeek` returns that handle and sets its condition bit, or clears the bit where
there is none. Either is an acquire at device scope where an `nmc` or a `cstep` has pushed that handle. `qrel` frees the oldest
held slot; with none held it raises LEASHBAD, as each of the words does on a leash that the pack does not hold. A handle that is
pushed is the one that a slot returns (R271): a slot holds 8 bytes of the pack's window, and slots whose numbers differ below
the depth do not overlap. That a release waits for every access of its warp, at every scope, is the model's reading (log 20). -/
def Obligations.Leashes : Prop :=
  ((∀ (h : Here) (why : BlockWhy), (∀ b, h.warp.block = some b → b.why ≠ why) → waitersBefore h why = 0) ∧
  ∀ (s : State) (h : Here) (ka : BitVec 6) (m : BitVec 3) (q : BitVec 4),
    (∀ l : Leash, h.pack.leashes[q.toNat]? = some l →
      let before := waitersBefore h (.qpush q.toNat)
      let ahead := waitersBefore h (.qpop q.toNat)
      let next := (l.head + l.held) % l.depth
      let sc : Scope := if next ∈ l.wides then .device else .pack
      let slot := (l.head + l.held + l.queued) % l.depth
      let oldest := s.handleAt h.pack l (l.head + l.held)
      (Issues (.qpush ka q) s h → l.queued + l.held + before < l.depth → h.warp.outstanding = false →
        Took (.qpush ka q) s ((s.putHandle h.pack l (l.head + l.held + l.queued) (h.warp.kreg ka.toNat)).setLeash h.pack q.toNat
          { l with queued := l.queued + 1, wides := l.wides.filter (fun i => i != slot) })) ∧
      (Issues (.qpush ka q) s h → l.queued + l.held + before < l.depth → h.warp.outstanding = true → Holds (.qpush ka q) s) ∧
      (Issues (.qpush ka q) s h → l.depth ≤ l.queued + l.held + before → Blocks (.qpush ka q) s (.qpush q.toNat)) ∧
      (Issues (.qpop ka q) s h → ahead < l.queued →
        Took (.qpop ka q) s (((s.acquireAt h.pack.core sc).setLeash h.pack q.toNat
          { l with queued := l.queued - 1, held := l.held + 1 }).setCur (fun w => w.setK ka.toNat oldest))) ∧
      (Issues (.qpop ka q) s h → l.queued ≤ ahead → Blocks (.qpop ka q) s (.qpop q.toNat)) ∧
      (Issues (.qpeek ka m q) s h → 0 < l.queued →
        Took (.qpeek ka m q) s ((s.acquireAt h.pack.core sc).setCur (fun w => (w.setK ka.toNat oldest).setC m.toNat true))) ∧
      (Issues (.qpeek ka m q) s h → l.queued = 0 → Took (.qpeek ka m q) s (s.setCur (fun w => w.setC m.toNat false))) ∧
      (Issues (.qrel q) s h → 0 < l.held → h.warp.outstanding = false →
        Took (.qrel q) s (s.setLeash h.pack q.toNat { l with head := (l.head + 1) % l.depth, held := l.held - 1 })) ∧
      (Issues (.qrel q) s h → 0 < l.held → h.warp.outstanding = true → Holds (.qrel q) s) ∧
      (Issues (.qrel q) s h → l.held = 0 → Raises (.qrel q) s .leashbad 0 0)) ∧
    (h.pack.leashes[q.toNat]? = none → ∀ i ∈ [Instr.qpush ka q, .qpop ka q, .qpeek ka m q, .qrel q],
      Issues i s h → Raises i s .leashbad 0 0)) ∧
  (∀ (s : State) (p : Pack) (l : Leash) (j k : Nat) (x : BitVec 64), 0 < l.depth →
    (s.putHandle p l j x).handleAt p l j = x ∧
    (j % l.depth ≠ k % l.depth → (s.putHandle p l j x).handleAt p l k = s.handleAt p l k) ∧
    (∀ q : Place, (∀ i, i < 8 → q ≠ .scratch p.core (p.scrBase + l.base + 8 * (j % l.depth) + i)) →
      (s.putHandle p l j x).readPlace q = s.readPlace q))

/-! ## Tasks, futures, launches, events -/

/-- Futures (R36, R38 to R40, R277, R278), with every active lane's cell readable, and no earlier access of one in flight:
`fget` of cells that are all FULL returns their 8 bytes in the lanes' register pairs, zero in those of void lanes, as an acquire
at the view's scope. A lane whose cell is empty raises FUTLATE, where the pack is no wave or the lane has made a side effect; in
a wave the lanes of empty cells are squashed (`squashAll`) and leave the warp, and the others go on with their values. `fput`, a
release, fills the cells in ascending lane order (`fillAll`), which completes where none of them is waited for: a fill writes
its 8 bytes, sets FULL and clears WAITING, and writes no other byte. That a release waits for every access of its warp, at every
scope, is the model's reading (log 20). -/
def Obligations.Futures : Prop :=
  (∀ (s : State) (h : Here) (data : BitVec 7) (off : BitVec 8) (view : BitVec 5) (v : BitVec 320) (accs : List LaneAcc)
    (voids : List Nat) (ts : List TlbEntry), h.view view false true 16 = .ok v →
    let s1 := (s.detect (accs.flatMap LaneAcc.places)).cachePages h.pack.ctx ts
    let full := accs.filter (fun a => cellFull (s.cellBytes a))
    let empty := accs.filter (fun a => !cellFull (s.cellBytes a))
    let put (w : Warp) : Warp := voids.foldl (fun u l => u.setGroup data 2 l 0)
      (full.foldl (fun u a => u.setGroup data 2 a.lane (leNat ((s.cellBytes a).take 8))) w)
    let acquired (t : State) : State := if full = [] then t else t.acquireAt h.pack.core (scopeOf (viewScope v))
    (Issues (.fget data off view) s h → s.cells h v .atomic off = .ok (accs, voids, ts) →
      (empty = [] → watchCheck h (accs.flatMap (accTouches v true false)) = .ok () →
        Took (.fget data off view) s ((acquired s1).setCur put)) ∧
      ((∃ a ∈ empty, h.pack.wave = false ∨ h.warp.sideEff.getLsbD a.lane = true) → Raises (.fget data off view) s .futlate 0 0) ∧
      (empty ≠ [] → (∀ a ∈ empty, h.pack.wave = true ∧ h.warp.sideEff.getLsbD a.lane = false) →
        watchCheck h (accs.flatMap (accTouches v true false)) = .ok () →
        ∀ t w, State.squashAll h empty s1 = .ok t → s.curWarp = some w → (w.dropLanes (laneMask empty)).live ≠ 0 →
          Took (.fget data off view) s ((acquired t).setCur (fun u => (put u).dropLanes (laneMask empty))))) ∧
    (Issues (.fput data off view) s h → s.cells h v .store off = .ok (accs, voids, ts) →
      watchCheck h (accs.flatMap (accTouches v false true)) = .ok () →
      (h.warp.outstanding = true → Holds (.fput data off view) s) ∧
      (h.warp.outstanding = false → (∀ a ∈ accs, cellWaiting (s.cellBytes a) = false ∧ ∃ n, a.place = .dram (16 * n)) →
        ∃ t, State.fillAll h data accs (s1.markLanes (laneMask accs)) = .ok t ∧ Took (.fput data off view) s t) ∧
      (h.warp.outstanding = false → ∀ t, State.fillAll h data accs (s1.markLanes (laneMask accs)) = .ok t →
        Took (.fput data off view) s t))) ∧
  (∀ (s t : State) (h : Here) (a : LaneAcc) (pa x : Nat), a.place = .dram pa → cellWaiting (s.cellBytes a) = false → s.fill h a x = .ok t →
    (∀ i, i < 8 → t.readPlace (.dram (pa + i)) = BitVec.ofNat 8 (x / 2 ^ (8 * i))) ∧
    (t.readPlace (.dram (pa + 9))).getLsbD 7 = true ∧ (t.readPlace (.dram (pa + 9))).getLsbD 6 = false ∧
    (∀ p, (∀ i, i < 10 → p ≠ .dram (pa + i)) → t.readPlace p = s.readPlace p))

/-- `spawn` and `spawn.dc` (R32, R37, R276), with an entry that is a multiple of 4 and canonical, the warp's earlier accesses
performed and room in the task pool, complete: the pool grows by one task for each active lane, which becomes ready
(`readyTasks`) or joins the list of the dependence counter that k[KC] names (`attachTasks`). While earlier accesses are
outstanding either is held; an entry that is no multiple of 4 raises MISALIGN, one that is not canonical XLATE; a pool without
room blocks the warp. Where a ready task goes (R34): to the kennel of its home cluster and entry; to a new kennel of its cluster
where there is none and the cluster has fewer than 16; otherwise nowhere, and it waits in the overflow queue. Dependence
counters (R37, R279). `dcnew` sets the count of the counter that k[KA] names; set to zero, it releases the counter's list.
`dcdec`, a release, lowers it by one: a counter at zero stays there and the underflow is counted in DCUNDER; one that stays
above zero releases nothing; one that reaches zero releases its list, whose tasks become ready (`release`). `launch` (R21, R136,
R280): a packet at a multiple of 64 that can be read is accepted, after the warp's earlier accesses, with the context's next
number: one whose shape is right joins the launches, with its waits tested; any other is refused with a record (`acceptLaunch`).
A packet that lies at a peer is asked for first, and the word is held until it has come. While 4,096 launches are undispatched
the word is held. An address that is no multiple of 64 raises MISALIGN. A packet at a peer is read as log 104 says, kennels are
counted as log 93 does, and launches as log 100 does. -/
def Obligations.Tasks : Prop :=
  (∀ (s : State) (h : Here) (ka : BitVec 6) (m : BitVec 3) (kc : BitVec 6) (i : Instr), i = .spawn ka m ∨ i = .spawnDc ka m kc → Issues i s h →
    let e := h.warp.kreg ka.toNat
    let lanes := lanesOf h.warp.exec
    let tasks : List Task := (List.range lanes.length).map (fun i =>
      { id := h.ctx.taskSeq + i, entry := e, arg := taskArg h.warp m (lanes.getD i 0), home := clusterOf h.pack.core })
    let s1 := (s.markLanes h.warp.exec).modCtx h.pack.ctx (fun x =>
      { x with taskSeq := x.taskSeq + lanes.length, poolUsed := x.poolUsed + lanes.length })
    let room := h.ctx.poolUsed + lanes.length ≤ descTaskmax h.ctx.desc
    (e.toNat % 4 = 0 → canonical e.toNat = true → room → h.warp.outstanding = false → Claims.walkable s →
      ∃ t, (if i = .spawn ka m then State.readyTasks h.pack.ctx tasks s1
        else State.attachTasks h.pack.ctx ((h.warp.kreg kc.toNat).toNat % 4096) tasks s1) = .ok t ∧ Took i s t) ∧
    (e.toNat % 4 = 0 → canonical e.toNat = true → room → h.warp.outstanding = true → Holds i s) ∧
    (e.toNat % 4 ≠ 0 → Raises i s .misalign e 0) ∧
    (e.toNat % 4 = 0 → canonical e.toNat = false → Raises i s .xlate e 0) ∧
    (e.toNat % 4 = 0 → canonical e.toNat = true → ¬room → Blocks i s (.spawn lanes.length))) ∧
  (∀ (x : Context) (cycle : Nat) (t : Task),
    (∀ k ∈ x.kennels, k.cluster = t.home → k.key = t.entry → ∃ y, x.enterKennel cycle t = some y ∧
      { k with tasks := k.tasks ++ [(cycle, t)] } ∈ y.kennels ∧ y.kennels.length = x.kennels.length ∧ { y with kennels := x.kennels } = x) ∧
    ((∀ k ∈ x.kennels, ¬(k.cluster = t.home ∧ k.key = t.entry)) → (x.kennels.filter (fun k => k.cluster == t.home)).length < 16 →
      x.enterKennel cycle t = some { x with kennels := x.kennels ++ [{ cluster := t.home, key := t.entry, tasks := [(cycle, t)] }] }) ∧
    ((∀ k ∈ x.kennels, ¬(k.cluster = t.home ∧ k.key = t.entry)) → 16 ≤ (x.kennels.filter (fun k => k.cluster == t.home)).length →
      x.enterKennel cycle t = none)) ∧
  (∀ (s : State) (h : Here) (ka kb : BitVec 6),
    let i := (h.warp.kreg ka.toNat).toNat % 4096
    let n : BitVec 32 := (h.warp.kreg kb.toNat).extractLsb' 0 32
    let d := h.ctx.dep i
    let emptied := s.setCtx h.pack.ctx (some (h.ctx.setDep i { count := 0, pending := [] }))
    (Issues (.dcnew ka kb) s h → n ≠ 0 →
      Took (.dcnew ka kb) s (s.modCtx h.pack.ctx (fun x => x.setDep i { x.dep i with count := n }))) ∧
    (Issues (.dcnew ka kb) s h → n = 0 → Claims.walkable s →
      ∃ t, emptied.release h.pack.ctx d.pending = .ok t ∧ Took (.dcnew ka kb) s t) ∧
    (Issues (.dcdec ka) s h → h.warp.outstanding = true → Holds (.dcdec ka) s) ∧
    (Issues (.dcdec ka) s h → h.warp.outstanding = false → d.count = 0 →
      Took (.dcdec ka) s (s.setCtx h.pack.ctx (some { h.ctx with dcunder := h.ctx.dcunder + 1 }))) ∧
    (Issues (.dcdec ka) s h → h.warp.outstanding = false → 1 < d.count.toNat →
      Took (.dcdec ka) s (s.setCtx h.pack.ctx (some (h.ctx.setDep i { d with count := d.count - 1 })))) ∧
    (Issues (.dcdec ka) s h → h.warp.outstanding = false → d.count = 1 → Claims.walkable s →
      ∃ t, emptied.release h.pack.ctx d.pending = .ok t ∧ Took (.dcdec ka) s t)) ∧
  (∀ (s : State) (h : Here) (ka : BitVec 6), Issues (.launch ka) s h →
    let a := (h.warp.kreg ka.toNat).toNat
    (a % 64 = 0 → h.warp.outstanding = true → Holds (.launch ka) s) ∧
    (a % 64 = 0 → h.warp.outstanding = false → 4096 ≤ h.ctx.undispatched → Holds (.launch ka) s) ∧
    (a % 64 ≠ 0 → Raises (.launch ka) s .misalign (h.warp.kreg ka.toNat) 0) ∧
    (a % 64 = 0 → h.warp.outstanding = false → h.ctx.undispatched < 4096 →
      (∀ va ps, s.launchBytes h a = .error (.await va ps) → exec (.launch ka) s = .next ((s.askPeers va ps).setResult .held)) ∧
      (∀ bs s1, s.launchBytes h a = .ok (bs, s1) →
        let s2 := s1.markLanes h.warp.exec
        let pkt : BitVec 2048 := recOf 2048 bs
        (pktStatus pkt = 0 → ∃ x t, s2.ctx? h.pack.ctx = some x ∧ Took (.launch ka) s t ∧
          t.ctx? h.pack.ctx = some { x with
            lseq := x.lseq + 1
            launches := x.launches ++ [Launch.test { lseq := x.lseq + 1, pkt := pkt } { x with lseq := x.lseq + 1 } s.cycle] }) ∧
        (Claims.walkable s → ∃ t, s2.acceptLaunch h.pack.ctx pkt = .ok t ∧ Took (.launch ka) s t))))

/-- Events and sequence counters (R29, R30, R281 to R283), the mask being k[KA] over group G, or the literal's one event.
`evset` and `seqadd` are releases: after the warp's earlier accesses, before which they are held, the events of the mask are
set, or the counter rises. `evclr` clears. A wait that the present state meets, or that one since the warp's block has met,
passes as an acquire at device scope; any other blocks. -/
def Obligations.EventWords : Prop :=
  ∀ (s : State) (h : Here) (ka kb : BitVec 6) (g : BitVec 2),
    let named : BitVec 2 × BitVec 64 := match h.lit with
      | some p => (p.extractLsb' 6 2, 1#64 <<< (p.toNat % 64))
      | none => (g, h.warp.kreg ka.toNat)
    let mask : BitVec 256 := named.2.setWidth 256 <<< (64 * named.1.toNat)
    let i := (h.warp.kreg ka.toNat).toNat % 256
    let v := h.warp.kreg kb.toNat
    let met (why : BlockWhy) : Prop := ∃ b, h.warp.block = some b ∧ b.why = why ∧ b.sat = true
    (Issues (.evset ka g) s h → h.warp.outstanding = true → Holds (.evset ka g) s) ∧
    (Issues (.evset ka g) s h → h.warp.outstanding = false →
      ∃ t x, Took (.evset ka g) s t ∧ t.ctx? h.pack.ctx = some x ∧ x.events = h.ctx.events ||| mask ∧ SameMemory s t) ∧
    (Issues (.evclr ka g) s h →
      ∃ t x, Took (.evclr ka g) s t ∧ t.ctx? h.pack.ctx = some x ∧ x.events = h.ctx.events &&& ~~~mask ∧ SameMemory s t) ∧
    (Issues (.evwait ka g) s h → h.ctx.events &&& mask = mask ∨ met (.evwait named.1 named.2) →
      Took (.evwait ka g) s (s.acquireAt h.pack.core .device)) ∧
    (Issues (.evwait ka g) s h → h.ctx.events &&& mask ≠ mask → ¬met (.evwait named.1 named.2) →
      Blocks (.evwait ka g) s (.evwait named.1 named.2)) ∧
    (Issues (.seqadd ka kb) s h → h.warp.outstanding = true → Holds (.seqadd ka kb) s) ∧
    (Issues (.seqadd ka kb) s h → h.warp.outstanding = false →
      ∃ t x, Took (.seqadd ka kb) s t ∧ t.ctx? h.pack.ctx = some x ∧ SameMemory s t ∧
        ∀ j, x.seq j = if j = i then h.ctx.seq i + v else h.ctx.seq j) ∧
    (Issues (.seqwait ka kb) s h → v.toNat ≤ (h.ctx.seq i).toNat ∨ met (.seqwait i v) →
      Took (.seqwait ka kb) s (s.acquireAt h.pack.core .device)) ∧
    (Issues (.seqwait ka kb) s h → (h.ctx.seq i).toNat < v.toNat → ¬met (.seqwait i v) → Blocks (.seqwait ka kb) s (.seqwait i v))

/-! ## Commands to the engines -/

namespace Sys2Proof.Claims

/-- A copy word: its operation, and its three registers (R286). -/
def copyRow : Instr → Option (BitVec 3 × BitVec 6 × BitVec 6 × BitVec 6)
  | .tcopy ka kb kc => some (0, ka, kb, kc)
  | .tgath ka kb kc => some (1, ka, kb, kc)
  | .tscat ka kb kc => some (2, ka, kb, kc)
  | .tred ka kb kc => some (3, ka, kb, kc)
  | .tfill ka kb kc => some (4, ka, kb, kc)
  | _ => none

end Sys2Proof.Claims

/-- Copy words (R155, R177, R288 to R290), whose descriptor and target pass their checks: the word is held while 32 commands are
uncompleted, while its destination overlaps another's, while an access of the warp is still to be performed, and while too few
lock entries are free; otherwise its ranges are locked and the command joins the core's queue, under the core's next number, to
run from its first element; a target of kind 0 counts in COPY. Nothing else of the warp changes, and no byte of memory. That a
release waits for every access of its warp, at every scope, is the model's reading (log 20). -/
def Obligations.CopyWords : Prop :=
  ∀ (i : Instr) (s : State) (h : Here) (op : BitVec 3) (ka kb kc : BitVec 6) (bs : List (BitVec 8)) (idx : List Nat), Issues i s h →
    Claims.copyRow i = some (op, ka, kb, kc) →
    s.block h (h.warp.kreg ka.toNat).toNat 128 64 = .ok bs → targetCheck s h true (h.warp.kreg kc.toNat) = .ok () →
    let d : BitVec 1024 := recOf 1024 bs
    s.copyCheck h op.toNat d = .ok idx →
    let n := h.pack.core
    let counts := targetKind (h.warp.kreg kc.toNat) = 0
    let full := 32 ≤ (s.core n).copies.length ∨ s.copyOverlaps n (s.dstZone h.pack op.toNat d idx) = true ∨
      h.warp.outstanding = true ∨ (s.core n).freeLocks.length < (copyLocks op.toNat d idx).length
    let c : CopyCmd := { tag := (s.core n).seq, core := n, pack := h.pid, ctx := h.pack.ctx, warp := h.wi, pc := s.wordPc, op := op,
                         desc := d, idx := idx, target := h.warp.kreg kc.toNat, handle := h.warp.kreg kb.toNat,
                         waits := h.warp.fenced 0, next := 0, written := 0, phase := .running, posted := [], segs := [], watched := false }
    (full → Holds i s) ∧
    (¬full → (counts → CanFly s h .copy) →
      ∃ s1 t, s.lockRanges n h.pack.ctx h.pid (s.core n).seq (copyLocks op.toNat d idx) = .ok s1 ∧ Took i s t ∧ SameMemory s t ∧
        t.core n = { s1.core n with seq := (s1.core n).seq + 1, copies := (s1.core n).copies ++ [c] } ∧
        (s1.core n).copies = (s.core n).copies ∧
        t.curWarp.map (fun w => ({ w with flight := [] }, w.counter .copy)) =
          s.curWarp.map (fun w => ({ w with flight := [] }, w.counter .copy + if counts then 1 else 0)))

namespace Sys2Proof.Claims

/-- The step that a `cstep` begins. -/
def newStep (s : State) (h : Here) (b : BitVec 512) (kb kc : BitVec 6) : CollStep :=
  { id := s.flightSeq, tag := (s.core h.pack.core).seq, die := dieOf h.pack.core, core := h.pack.core, pack := h.pid, ctx := h.pack.ctx
    warp := h.wi, pc := s.wordPc, block := b, target := h.warp.kreg kc.toNat, handle := h.warp.kreg kb.toNat
    waits := h.warp.fenced 2, phase := .waiting, before := .waiting, got := 0, bad := [] }

/-- The lock entries of a step: its ranges, and its status word. -/
def stepLocks (b : BitVec 512) : List (Bool × Bool × Nat × Nat) :=
  (stepRanges b).map (fun r => (r.2.2 != .load, true, r.1, (r.1 + r.2.1) % 2 ^ 64)) ++ [(true, false, cbStat b, cbStat b + 8)]

/-- The state in which a step has begun, its ranges being locked in `s1`. -/
def withStep (s1 : State) (core : Nat) (steps : List CollStep) : State :=
  { (s1.modCore core (fun k => { k with seq := k.seq + 1 })) with flightSeq := s1.flightSeq + 1, colls := steps }

end Sys2Proof.Claims

/-- Near-memory commands and collective steps (R182, R301, R306, R311, R312, R315, R316). `nmc` and `cstep`, whose blocks and
targets pass their checks: the word is held while 16 of its kind are uncompleted on the core and while too few lock entries are
free, and a `cstep` also while an access of the warp is still to be performed; otherwise its ranges are locked and the command
or step begins under the core's next number, and errors found in what the word has read are counted. The steps of the part then
move as far as they can (`settleSteps`): where none can, none does; a step that is alone, of local ranges, with nothing to wait
for, and whose peer has offered nothing yet, offers itself. `cwait` is held until the warp's steps of that STEPID have
completed, and then returns the status of the latest, or all ones. `cfence` remembers the uncompleted commands of the kinds that
its mask selects, beside those of earlier ones that still hold something. -/
def Obligations.EngineWords : Prop :=
  (∀ (s : State) (h : Here) (ka kb kc : BitVec 6) (bs : List (BitVec 8)) (ew expected : List (BitVec 64)), Issues (.nmc ka kb kc) s h →
    s.block h (h.warp.kreg ka.toNat).toNat 64 64 = .ok bs → targetCheck s h false (h.warp.kreg kc.toNat) = .ok () →
    let b : BitVec 512 := recOf 512 bs
    nbRes b % 8 = 0 → windowFree h.pack (nbRes b) 40 = true →
    (if nbOp b = 1 then nbExpr b % 32 = 0 ∧ windowFree h.pack (nbExpr b) 32 = true ∧ s.windowWords h (nbExpr b) 4 = .ok ew else ew = []) →
    let e : BitVec 256 := recOf 256 (ew.flatMap (fun w => leBytes 8 w.toNat))
    nmcBad b e = false →
    (if nbOp b = 2 then s.windowWords h (nbRes b + 8) (nbCnt b + 1) = .ok expected else expected = []) →
    let n := h.pack.core
    let full := 16 ≤ (s.core n).nmcs.length ∨ (s.core n).freeLocks.length < (nmcLocks b).length
    let c : NmcCmd := { tag := (s.core n).seq, core := n, pack := h.pid, ctx := h.pack.ctx, warp := h.wi, pc := s.wordPc, block := b,
                        expr := e, expected := expected, fence := h.warp.nmFence, target := h.warp.kreg kc.toNat,
                        handle := h.warp.kreg kb.toNat, waits := h.warp.fenced 1,
                        left := if nbOp b = 1 ∨ nbOp b = 5 then List.range (nbCnt b + 1) else [], bad := 0, phase := .running }
    (full → Holds (.nmc ka kb kc) s) ∧
    (¬full → ∃ s1, s.lockRanges n h.pack.ctx h.pid (s.core n).seq (nmcLocks b) = .ok s1 ∧ SameMemory s s1 ∧
      Took (.nmc ka kb kc) s ((s1.detectWindow h.pack (nmcReads (h.warp.kreg ka.toNat).toNat b)).modCore n (fun k => { k with seq := k.seq + 1, nmcs := k.nmcs ++ [c] })))) ∧
  (∀ (s : State) (h : Here) (ka kb kc : BitVec 6) (bs : List (BitVec 8)), Issues (.cstep ka kb kc) s h →
    s.block h (h.warp.kreg ka.toNat).toNat 64 64 = .ok bs → targetCheck s h false (h.warp.kreg kc.toNat) = .ok () →
    let b : BitVec 512 := recOf 512 bs
    let n := h.pack.core
    stepBad b = false → (∀ c ∈ s.colls, ¬(c.ctx = h.pack.ctx ∧ cbPeer c.block = cbPeer b ∧ cbStep c.block = cbStep b)) →
    (∀ r ∈ stepRanges b, r.1 % 256 = 0) → cbStat b % 8 = 0 → s.peerUsable h.ctx (cbPeer b) = true →
    windowFree h.pack (cbStat b) 8 = true →
    let full := 16 ≤ (s.colls.filter (fun c => c.core == n)).length ∨ h.warp.outstanding = true ∨
      (s.core n).freeLocks.length < (Claims.stepLocks b).length
    let c := Claims.newStep s h b kb kc
    (full → Holds (.cstep ka kb kc) s) ∧
    (¬full → ∃ s1, s.lockRanges n h.pack.ctx h.pid (s.core n).seq (Claims.stepLocks b) = .ok s1 ∧
      let s2 := Claims.withStep (s1.detectWindow h.pack [((h.warp.kreg ka.toNat).toNat, 64)]) n (s.colls ++ [c])
      (∀ t, s2.settleSteps = .ok t → Took (.cstep ka kb kc) s t) ∧
      ((∀ d ∈ s2.colls, s2.collMove d = none) → Took (.cstep ka kb kc) s s2) ∧
      (s.colls = [] → h.warp.fenced 2 = [] → cbAfter b = 0xFFFF → h.ctx.unitClosing 3 (dieOf n) = false →
        s.collHome h.ctx b = .ok .loc → (s.peer (cbPeer b)).gone = false → (s.peer (cbPeer b)).entry.toNat / 2 ^ 5 % 2 = 1 →
        s.offerFor c = none → Took (.cstep ka kb kc) s { s2 with colls := [{ c with phase := .offered }] }))) ∧
  (∀ (s : State) (h : Here) (ka kb : BitVec 6), Issues (.cwait ka kb) s h →
    let step := (h.warp.kreg ka.toNat).toNat % 65536
    let open_ := ∃ c ∈ s.colls, c.pack = h.pid ∧ c.warp = h.wi ∧ cbStep c.block = step
    let mine (e : CollEnd) := e.pack = h.pid ∧ e.warp = h.wi ∧ e.step.toNat = step
    (open_ → Holds (.cwait ka kb) s) ∧
    (¬open_ → ∃ x : BitVec 64, Took (.cwait ka kb) s ((s.acquireAt h.pack.core .device).setCur (fun w => w.setK kb.toNat x)) ∧
      ((∀ e ∈ s.collLog, ¬mine e) → x = BitVec.allOnes 64) ∧
      (∀ e ∈ s.collLog, mine e → (∀ f ∈ s.collLog, mine f → f ≠ e → f.id < e.id) → x = BitVec.ofNat 64 e.status))) ∧
  (∀ (s : State) (h : Here) (mask : BitVec 4), Issues (.cfence mask) s h →
    let still (c : BitVec 4 × List Nat) : Bool := c.2.any (s.uncompleted h.pack.core h.pid h.wi)
    Took (.cfence mask) s (s.setCur (fun w => { w with cfences := w.cfences.filter still ++ [(mask, s.selected h mask)] })))

namespace Sys2Proof.Claims

/-- The literal as an offset: its payload sign-extended, or 0. -/
def literal64 (h : Here) : BitVec 64 := match h.lit with | some p => p.signExtend 64 | none => 0

/-- The address of a remote word (R307): k[KB] plus the literal. -/
def remoteAddr (h : Here) (kb : BitVec 6) : BitVec 64 := h.warp.kreg kb.toNat + literal64 h

/-- A remote word (R307): its address, how it uses the page, its acquire and release scopes, and what it asks of peer `p`. -/
def remoteRow (h : Here) : Instr → Option (BitVec 64 × Use × Option Scope × Option Scope × (Nat → FlightKind))
  | .rld ka kb ord => some (remoteAddr h kb, .load, none, none, fun p => .rload ka p (remoteAddr h kb).toNat (ord == 1))
  | .rst ka kb rel => some (remoteAddr h kb, .store, none, if rel = 1 then some .system else none,
      fun p => .rstore p (remoteAddr h kb).toNat (h.warp.kreg ka.toNat) (rel == 1))
  | .ratom ka kb kc op => some (remoteAddr h kb, .atomic, some .system, some .system,
      fun p => .ratomic ka p (remoteAddr h kb).toNat op (h.warp.kreg kc.toNat) (h.warp.kreg (kc.toNat + 1)))
  | _ => none

end Sys2Proof.Claims

/-- Remote words (R192, R307, R309, R310). `rld`, `rst` and `ratom`: an address that is no multiple of 8 raises MISALIGN; a page
that is no peer page raises PROT; a release is held while a store of the warp must be translated again; with allowance for one
unit at the page's peer, and nothing that holds it, the operation goes in flight on FAB; without it the warp blocks at that
peer's queue. `alw` returns the allowance of a valid peer that the context may use, less the units reserved; `bralw` branches
where that is at least N. A peer that is not valid, or not the context's, raises FABRIC. The address 0 that a bad peer of `alw`
and `bralw` gives is the model's reading (log 51). -/
def Obligations.RemoteWords : Prop :=
  (∀ (i : Instr) (s : State) (h : Here) (ea : BitVec 64) (use : Use) (acq rel : Option Scope) (kind : Nat → FlightKind), Issues i s h →
    Claims.remoteRow h i = some (ea, use, acq, rel, kind) →
    let stale := rel.isSome = true ∧ h.staleStore = true
    (ea.toNat % 8 ≠ 0 → Raises i s .misalign ea 0) ∧
    (ea.toNat % 8 = 0 → ∀ t pl, s.translate h.ctx use ea.toNat = .ok (t, pl) → pl.peer? = none → Raises i s .prot ea 0) ∧
    (ea.toNat % 8 = 0 → ∀ t p a, s.translate h.ctx use ea.toNat = .ok (t, .peer p a) →
      (stale → Holds i s) ∧
      (¬stale → sendable (s.peer p) (.warp s.cur.1 s.cur.2) 1 = true → CanFly s h .fab →
        ∃ u, Took i s u ∧ Launches s u .fab (kind p) acq rel 0) ∧
      (¬stale → sendable (s.peer p) (.warp s.cur.1 s.cur.2) 1 = false → Blocks i s (.heel p 1)))) ∧
  (∀ (s : State) (h : Here) (ka kb : BitVec 6) (n : BitVec 10),
    let free (k : BitVec 6) : Nat :=
      let e := s.peer ((h.warp.kreg k.toNat).toNat % 1024)
      e.allow - (e.reserved.map (fun r => r.2)).sum
    let valid (k : BitVec 6) : Bool :=
      let p := (h.warp.kreg k.toNat).toNat % 1024
      peerValid (s.peer p) && s.peerAdmitted h.ctx p
    (Issues (.alw ka kb) s h → valid kb = true →
      Took (.alw ka kb) s (s.setCur (fun w => w.setK ka.toNat (BitVec.ofNat 64 (free kb))))) ∧
    (Issues (.alw ka kb) s h → valid kb = false → Raises (.alw ka kb) s .fabric 0 0) ∧
    (Issues (.bralw ka n) s h → valid ka = true → Took (.bralw ka n) s (s.setCur (fun w => { w with
      pc := if n.toNat ≤ free ka then s.wordPc + (Claims.literal64 h <<< 2) else Claims.afterPacket s }))) ∧
    (Issues (.bralw ka n) s h → valid ka = false → Raises (.bralw ka n) s .fabric 0 0))

/-! ## Matrix words -/

namespace Sys2Proof.Claims

/-- A matrix word that begins a command: the tile, the operation, its operands from the k registers, and its steps (R330, R348 to
R350). -/
def matRow (h : Here) : Instr → Option (BitVec 3 × MatOp × BitVec 64 × BitVec 64 × BitVec 64 × BitVec 64 × BitVec 64 × Nat)
  | .mloop ka kb kc t => some (t, .mloop, h.warp.kreg ka.toNat, h.warp.kreg (ka.toNat + 1), h.warp.kreg kb.toNat,
      h.warp.kreg (kb.toNat + 1), h.warp.kreg kc.toNat, (h.warp.kreg kc.toNat).toNat % 4096 + 1)
  | .mstep ka kb kc t => some (t, .mstep, h.warp.kreg ka.toNat, 0, h.warp.kreg kb.toNat, 0, h.warp.kreg kc.toNat, 1)
  | .mzero t => some (t, .mzero, 0, 0, 0, 0, 0, 1)
  | .mtld ka kb t => some (t, .mtld, h.warp.kreg ka.toNat, 0, 0, 0, h.warp.kreg kb.toNat, 1)
  | .mtst ka kb t => some (t, .mtst, h.warp.kreg ka.toNat, 0, 0, 0, h.warp.kreg kb.toNat, 1)
  | .mfft ka t => some (t, .mfft, h.warp.kreg ka.toNat, h.warp.kreg (ka.toNat + 1), 0, 0, 0,
      (h.warp.kreg ka.toNat).toNat / 2 ^ 58 % 16 + 1 - (h.warp.kreg ka.toNat).toNat / 2 ^ 54 % 16)
  | .mtwid ka t => some (t, .mtwid, h.warp.kreg ka.toNat, 0, 0, 0, 0, 1)
  | _ => none

/-- The command that such a word begins, before its adapter identities and its charge. -/
def matCommand (s : State) (h : Here) (n : BitVec 3) (op : MatOp) (a a1 b b1 ctl : BitVec 64) (steps : Nat) : MatCmd :=
  let fmt (e : Nat) : BitVec 128 := (h.pack.fmt.getD e none).getD 0
  let loop := op == .mloop || op == .mstep
  { tag := (s.core h.pack.core).seq, core := h.pack.core, pack := h.pid, ctx := h.pack.ctx, warp := h.wi, pc := s.wordPc, op := op,
    tile := n.toNat, a := a, a1 := a1, b := b, b1 := b1, ctl := ctl, fA := if loop then fmt (mcFmta ctl) else 0,
    fB := if loop then fmt (mcFmtb ctl) else 0, ids := [], no := h.warp.mathSeq + 1, steps := steps, stepsDone := 0, charge := 0,
    passed := 0, batch := none }

end Sys2Proof.Claims

/-- Matrix commands (R324, R327, R329, R341, R372): the word is held while four of the warp's commands are uncompleted.
Otherwise, on a tile that the pack may use, with control fields that pass the checks of R329, it is held while an access of the
warp is still to be performed, and while too few lock entries are free; and then the command joins the core's queue, in no
batch, with no step done, and counts in MATH. No byte of memory changes at issue, but where an error found in its identifiers
sends the host an event. A tile of another pack raises TILEOWN, and an index at or above TILES raises REGRANGE. That a release
waits for every access of its warp, at every scope, is the model's reading (log 20). -/
def Obligations.MatrixCommands : Prop :=
  ∀ (i : Instr) (s : State) (h : Here) (n : BitVec 3) (op : MatOp) (a a1 b b1 ctl : BitVec 64) (steps : Nat), Issues i s h →
    Claims.matRow h i = some (n, op, a, a1, b, b1, ctl, steps) →
    let c0 := Claims.matCommand s h n op a a1 b b1 ctl steps
    let core := h.pack.core
    let queued := ((s.core core).mats.filter (fun c => c.pack == h.pid && c.warp == h.wi)).length
    let waits := h.warp.outstanding = true ∨ (s.core core).freeLocks.length < c0.ranges.length
    (4 ≤ queued → Holds i s) ∧
    (queued < 4 →
      (∀ phys t, s.tileOf h.pack n.toNat = .ok (phys, t) →
        matCheck h.pack (s.futureTile h.pack n.toNat t) h.warp.adrv.toNat c0 = .ok () →
        (waits → Holds i s) ∧
        (¬waits → CanFly s h .math →
          ∃ u ids charge, Took i s u ∧ (ids = [] → SameMemory s u) ∧ (∀ q, (∀ a, q ≠ .host a) → u.readPlace q = s.readPlace q) ∧ (u.core core).seq = (s.core core).seq + 1 ∧
            (u.core core).mats = (s.core core).mats ++ [{ c0 with ids := ids, charge := charge }] ∧
            u.curWarp.map (fun w => (w.mathSeq, w.counter .math)) = s.curWarp.map (fun w => (w.mathSeq + 1, w.counter .math + 1)))) ∧
      (h.pack.tiles.length ≤ n.toNat → Raises i s .regrange 0 0) ∧
      (∀ phys q m, h.pack.tiles[n.toNat]? = some phys → ((s.core core).tiles.getD phys {}).owner = some (q, m) → q ≠ h.pack.id →
        Raises i s .tileown 0 (BitVec.ofNat 64 (n.toNat * 2 ^ 24))))

/-- The matrix words that act at issue (R326, R335, R340, R341, R343). `mfmt` loads an entry of the format table from the
window; a block that is not allowed raises FMT. `madr` sets the adapter vector. `mcfg` empties the adapter cache of the launch's
table, or of one identity of it, once the pack's matrix commands have completed. `mbatch` closes the warp's open commands into a
batch and returns its number; `mwait` blocks until no command of a batch up to k[KA] is uncompleted, and then passes; where such
a batch has left an ADAPT pending it raises the oldest fault that the warp holds, and the others are discarded (R339, R417).
`mest` returns the estimate of the warp's last command. That a packet which a pending fault names raises the oldest, and
discards the others, is the model's reading (log 29). -/
def Obligations.MatrixControl : Prop :=
  ∀ (s : State) (h : Here) (ka kb : BitVec 6),
    let a := h.warp.kreg ka.toNat
    let mine (c : MatCmd) : Bool := c.pack == h.pid && c.warp == h.wi
    let waits := (s.core h.pack.core).mats.any (fun c => mine c && (match c.batch with | some b => b.ule a | none => false))
    (Issues (.mfmt ka kb) s h → ∀ bs, s.block h a.toNat 16 16 = .ok bs →
      (fmtBlockOk (pktWindow h.pack.pkt) (recOf 128 bs) = true → Took (.mfmt ka kb) s ((s.detectWindow h.pack [(a.toNat, 16)]).modPack h.pid (fun p =>
        { p with fmt := p.fmt.set ((h.warp.kreg kb.toNat).toNat % 16) (some (recOf 128 bs)) }))) ∧
      (fmtBlockOk (pktWindow h.pack.pkt) (recOf 128 bs) = false → Raises (.mfmt ka kb) s .fmt a 0)) ∧
    (Issues (.madr ka) s h →
      (a.toNat % 2 = 0 → a.toNat < pktWindow h.pack.pkt → Took (.madr ka) s (s.setCur (fun w => { w with adrv := a }))) ∧
      (a.toNat % 2 = 1 → Raises (.madr ka) s .misalign a 0) ∧
      (a.toNat % 2 = 0 → pktWindow h.pack.pkt ≤ a.toNat → Raises (.madr ka) s .view a 0)) ∧
    (Issues (.mcfg ka kb) s h →
      (2 ≤ a.toNat → Raises (.mcfg ka kb) s .fmt 0 0) ∧
      (a.toNat < 2 → (∃ c ∈ (s.core h.pack.core).mats, c.pack = h.pid) → Holds (.mcfg ka kb) s) ∧
      (a.toNat < 2 → (∀ c ∈ (s.core h.pack.core).mats, c.pack ≠ h.pid) →
        ∃ f : List AdPair → List AdPair, Took (.mcfg ka kb) s (s.modCtx h.pack.ctx (fun x => { x with adCache := f x.adCache })) ∧
          ∀ l e, e ∈ f l ↔ e ∈ l ∧ ¬(e.table = pktAdaptt h.pack.pkt ∧
            (a.toNat = 0 ∨ e.id = (h.warp.kreg kb.toNat).extractLsb' 0 16)))) ∧
    (Issues (.mbatch ka) s h → ∃ t, Took (.mbatch ka) s t ∧ SameMemory s t ∧
      t.curWarp.map (fun w => (w.kreg ka.toNat, w.batch)) = s.curWarp.map (fun _ => (h.warp.batch, h.warp.batch + 1)) ∧
      (t.core h.pack.core).mats = (s.core h.pack.core).mats.map (fun c =>
        if mine c = true ∧ c.batch = none then { c with batch := some h.warp.batch } else c)) ∧
    let left (f : PendFault) : Bool := f.batchCmd.any (fun b => decide (b ≤ a.toNat))
    (Issues (.mwait ka) s h → waits = false → (∀ f ∈ h.warp.pending, left f = false) → Took (.mwait ka) s (s.setCur id)) ∧
    (Issues (.mwait ka) s h → waits = false → (∃ g ∈ h.warp.pending, left g = true) → ∀ f fs, h.warp.pending = f :: fs → ∀ t,
      s.takeTrap s.cur.1 s.cur.2 { s.iss.pre with pending := [] } f.cause s.iss.restart f.addr (s.fullInfo (originInfo f.pc)) true = .ok t →
      exec (.mwait ka) s = .next (t.setResult .raised)) ∧
    (Issues (.mwait ka) s h → waits = true → Blocks (.mwait ka) s (.mwait a)) ∧
    (Issues (.mest ka) s h → Took (.mest ka) s (s.setCur (fun w => w.setK ka.toNat h.warp.lastEst)))

/-! ## System words -/

/-- The words that let a warp rest and wake (R365 to R367). `park` gives up the cycle, or, where a pre-emption of the pack is
pending, holds the warp until the pack has been saved. `idle` passes where a `sev` has woken this warp, else consumes the pack's
wake, and otherwise blocks; `sev`, after the warp's earlier accesses, wakes every warp that is blocked in `idle`, or sets the
pack's wake where there is none. `chalt` holds the warp and raises its context's halt line. The restart address in the record of
a `chalt` is the model's reading (log 86), and so is it that `sev`, a release, waits for every access of its warp (log 20). -/
def Obligations.RestWords : Prop :=
  ∀ (s : State) (h : Here),
    let woken := h.warp.block.any (fun b => decide (b.why = .idle) && b.sat)
    (Issues .park s h → h.pack.preempt = none → Took .park s (s.setCur (fun w => { w with lastIssue := s.cycle }))) ∧
    (Issues .park s h → h.pack.preempt ≠ none → Took .park s (s.setCur (fun w => { w with preHeld := true, parkHeld := true }))) ∧
    (Issues .idle s h → woken = true → Took .idle s s) ∧
    (Issues .idle s h → woken = false → h.pack.wake = true → Took .idle s (s.modPack h.pid (fun p => { p with wake := false }))) ∧
    (Issues .idle s h → woken = false → h.pack.wake = false → Blocks .idle s .idle) ∧
    (Issues .sev s h → h.warp.outstanding = true → Holds .sev s) ∧
    (Issues .sev s h → h.warp.outstanding = false → h.pack.warps.any Warp.idling = false →
      Took .sev s (s.modPack h.pid (fun p => { p with wake := true }))) ∧
    (Issues .sev s h → h.warp.outstanding = false → h.pack.warps.any Warp.idling = true →
      Took .sev s (s.modPack h.pid (fun p => { p with warps := p.warps.map (fun w =>
        if w.idling = true then { w with block := w.block.map (fun b => { b with sat := true }) } else w) }))) ∧
    (Issues .chalt s h → Took .chalt s ((s.setCur (fun w => { w with preHeld := true })).raiseHalt h.pack.ctx
      (raiseRec h.pack h.warp .chalt (h.warp.xcause.toNat % 64) s.iss.restart)))

/-- System registers, invalidation, watchpoints and tiles (R155, R190, R191, R368 to R370, R372). `sysr` returns the register;
`sysw` writes TASKBAD or DCUNDER, or answers an engine fault with a retry or an abort. `tlbinv`, after the warp's earlier
accesses, drops the translations of its mode and the adapter cache, advances the epoch, and makes the warp wait for the
acknowledgement. `wpset` writes a watchpoint, whose base must be a multiple of its size. `tsave` and `trest` move a tile of
another pack to its record; `trest` then brings the pack's own tile back from its record, or gives it a clean one where it has
none. What tsave and trest do about tiles is read as log 87 says. -/
def Obligations.SystemWords : Prop :=
  ∀ (s : State) (h : Here) (ka kb : BitVec 6) (idx : BitVec 12),
    let a := h.warp.kreg ka.toNat
    let b := h.warp.kreg kb.toNat
    let n := a.toNat % 8
    let size := min 30 (b.toNat / 2 ^ 8 % 32)
    let value := s.systemValue h idx.toNat
    (Issues (.sysr ka idx) s h → Took (.sysr ka idx) s (s.setCur (fun w => w.setK ka.toNat value)) ∧
      (idx = 0x200 → value = BitVec.ofNat 64 h.pack.ctx) ∧ (idx = 0x202 → value = h.ctx.taskbad) ∧ (idx = 0x203 → value = h.ctx.dcunder) ∧
      (idx = 0x204 → value = h.ctx.epoch) ∧ (idx = 0x208 → value = BitVec.ofNat 64 h.ctx.efqTail) ∧
      (∀ i : Nat, i < 16 → idx.toNat = 0x100 + i → value = Map.get 0 h.ctx.waddr i) ∧
      (∀ i : Nat, i < 16 → idx.toNat = 0x110 + i → value = Map.get 0 h.ctx.wctl i ||| BitVec.ofNat 64 i) ∧
      (∀ i : Nat, i < 64 → Map.get none (s.core h.pack.core).locks i = none → idx.toNat / 3 = i → value = 0)) ∧
    (Issues (.sysw ka idx) s h → idx = 0x202 → Took (.sysw ka idx) s (s.modCtx h.pack.ctx (fun x => { x with taskbad := a }))) ∧
    (Issues (.sysw ka idx) s h → idx = 0x203 → Took (.sysw ka idx) s (s.modCtx h.pack.ctx (fun x => { x with dcunder := a }))) ∧
    (Issues (.sysw ka idx) s h → idx ≠ 0x202 → idx ≠ 0x203 →
      (a.toNat / 2 ^ 62 = 0 → ∀ t, s.answerRetry h.pack.ctx (a.toNat % 2 ^ 48) = .ok t → Took (.sysw ka idx) s t) ∧
      (a.toNat / 2 ^ 62 = 1 → Took (.sysw ka idx) s (s.answerAbort h.pack.ctx (a.toNat % 2 ^ 48))) ∧
      (2 ≤ a.toNat / 2 ^ 62 → Took (.sysw ka idx) s s)) ∧
    (Issues (.tlbinv ka kb) s h → h.warp.outstanding = true → Holds (.tlbinv ka kb) s) ∧
    (Issues (.tlbinv ka kb) s h → h.warp.outstanding = false →
      let kept (e : TlbEntry) : Prop := (b.toNat % 4 = 1 ∧ ¬(e.base ≤ a.toNat ∧ a.toNat < e.base + e.size)) ∨
        (b.toNat % 4 = 2 ∧ ¬(leafKind e.leaf = 2 ∧ leafStripe e.leaf = a.toNat % 256))
      ∃ keep moved : List TlbEntry → List TlbEntry,
        Took (.tlbinv ka kb) s ((s.modCtx h.pack.ctx (fun x => { x with
          epoch := x.epoch + 1, tlb := keep x.tlb, adCache := [], invSeq := s.reqSeq, moving := x.moving ++ moved x.tlb })).setCur
          (fun w => { w with ackWait := some (h.ctx.epoch + 1) })) ∧
        ∀ l e, (e ∈ keep l ↔ e ∈ l ∧ kept e) ∧ (e ∈ moved l ↔ e ∈ l ∧ ¬kept e ∧ leafMig e.leaf = true)) ∧
    (Issues (.wpset ka kb) s h → a.toNat % 2 ^ size = 0 → Took (.wpset ka kb) s (s.modCtx h.pack.ctx (fun x => { x with
      waddr := Map.set 0 x.waddr (b.toNat % 16) a, wctl := Map.set 0 x.wctl (b.toNat % 16) (b &&& 0x1F30) }))) ∧
    (Issues (.wpset ka kb) s h → a.toNat % 2 ^ size ≠ 0 → Raises (.wpset ka kb) s .misalign a 0) ∧
    (∀ phys, h.pack.tiles[n]? = some phys →
      let owner := ((s.core h.pack.core).tiles.getD phys {}).owner
      let foreign := ∃ q m, owner = some (q, m) ∧ q ≠ h.pid
      let noCopy := ∀ r, h.pack.record = some r → n ∉ r.saved
      let cleaned (t : State) : State :=
        if ((t.core h.pack.core).tiles.getD phys {}).owner = none then t.putTile h.pack n phys {} else t
      (Issues (.tsave ka) s h → ¬foreign → Took (.tsave ka) s s) ∧
      (Issues (.tsave ka) s h → foreign → Claims.walkable s → ∃ t, s.saveTile h.pack.core phys = .ok t ∧ Took (.tsave ka) s t) ∧
      (Issues (.trest ka) s h → ¬foreign → noCopy → Took (.trest ka) s (cleaned s)) ∧
      (Issues (.trest ka) s h → foreign → noCopy → Claims.walkable s →
        ∃ t, s.saveTile h.pack.core phys = .ok t ∧ Took (.trest ka) s (cleaned t)) ∧
      (Issues (.trest ka) s h → ¬foreign → ∀ r, h.pack.record = some r → n ∈ r.saved →
        ∀ fs, s.recordFrames h.ctx r.slot .load = .ok fs →
          Took (.trest ka) s ((s.putTile h.pack n phys (s.recTile fs n)).modPack h.pid (fun p =>
            { p with record := some { r with saved := r.saved.filter (fun i => i != n) } })))) ∧
    (h.pack.tiles.length ≤ n →
      (Issues (.tsave ka) s h → Raises (.tsave ka) s .regrange 0 0) ∧ (Issues (.trest ka) s h → Raises (.trest ka) s .regrange 0 0))

/-! ## Events: accesses that complete -/

namespace Sys2Proof.Claims

/-- A warp of the part. -/
def warpAt (s : State) (pid wi : Nat) : Option Warp := (s.pack? pid).bind (fun p => p.warps[wi]?)

/-- Nothing keeps the reply of an operation from coming: no invalidation that has been acknowledged has overtaken it, its warp has a live
lane, its order lets it be performed, no atomic that a slice holds touches its bytes, it does not wait for the held requests of a
page that has moved, and no earlier request of its core's to the same line waits on a link. -/
def ready (s : State) (p : Pack) (x : Context) (w : Warp) (f : Flight) : Prop :=
  x.ackEpoch.toNat ≤ f.epoch.toNat ∧ w.live ≠ 0 ∧ w.mayPerform f = true ∧ s.meetsHeldAtomic f = false ∧ s.awaitsSwitch x f = false ∧
  s.behindOnLink p.core f = false

/-- The byte that a load finds: of an earlier store of its warp that is not performed yet (R166), else of the core's L1 where it may use
that (R123), else of its home; and whether it is poison (R257, R390, R395). -/
def loaded (s : State) (p : Pack) (w : Warp) (f : Flight) (cached : Bool) (q : Place) : BitVec 8 :=
  w.forward f.id q (match q with
    | .dram pa => if cached then (Map.get none (s.core p.core).l1 pa).getD (s.homeByte q) else s.homeByte q
    | _ => s.homeByte q)
def spoilt (s : State) (p : Pack) (w : Warp) (f : Flight) (cached : Bool) (q : Place) : Bool :=
  w.forwardBad f.id q (s.homeBad q || (!s.inL1 p.core cached q && s.linkBad (dieOf p.core) q))

/-- The parts of a lane, each with its address, its home and its length: its span, its scales and its zero points (R145). -/
def laneParts (v : BitVec 320) (a : LaneAcc) : List (Nat × Place × Nat) :=
  (a.va, a.place, a.len) :: (a.scales.map (fun g => (g.1, g.2, if viewSfmt v = 2 then 2 else 1)) ++ a.zeros.map (fun g => (g.1, g.2, 1)))

/-- A number in memory, least significant byte first. -/
def number (byte : Place → BitVec 8) (q : Place) (n : Nat) : Nat := leNat ((List.range n).map (fun i => byte (q.plus i)))

/-- The addresses of a list of parts whose bytes are poison. -/
def poisons (bad : Place → Bool) (l : List (Nat × Place × Nat)) : List Nat :=
  l.flatMap (fun g => ((List.range g.2.2).filter (fun i => bad (g.2.1.plus i))).map (fun i => g.1 + i))

/-- `a` is the least of a list. -/
def leastIn (a : Nat) (l : List Nat) : Prop := a ∈ l ∧ ∀ b ∈ l, a ≤ b

/-- Atomics of `n` bytes performed one after another: the old value of each lane, and the bytes of memory in the end. -/
def inTurn (n : Nat) (new : AtomLane → Nat → Option Nat) : List AtomLane → (Place → BitVec 8) → List (Nat × Nat) × (Place → BitVec 8)
  | [], m => ([], m)
  | l :: ls, m =>
    let old := number m l.acc.place n
    let m1 : Place → BitVec 8 := match new l old with
      | some x => (List.range n).foldl (fun g i => fun q => if q = l.acc.place.plus i then BitVec.ofNat 8 (x / 256 ^ i) else g q) m
      | none => m
    let r := inTurn n new ls m1
    ((l.acc.lane, old) :: r.1, r.2)

/-- The size of an atomic or compare-and-swap in flight, and the value that a lane leaves, if any (R251, R252). -/
def atomicKind : FlightKind → Option (BitVec 7 × Nat × List AtomLane × (AtomLane → Nat → Option Nat))
  | .atomic data op ls => some (data, 4, ls, fun l old => some (atomicNew op.toNat 32 old l.new.toNat))
  | .cas data wide ls => some (data, if wide then 8 else 4, ls, fun l old => if old = l.exp.toNat then some l.new.toNat else none)
  | _ => none

/-- No page of a context's address is migrating, whatever its tables come to hold: the translation is held and says so. -/
def settled (x : Context) (va : Nat) : Prop :=
  x.moving.any (fun t => t.covers va) = false ∧ canonical va = true ∧
  ∃ e, x.tlb.find? (fun t => t.covers va) = some e ∧ leafMig e.leaf = false

end Sys2Proof.Claims

namespace Sys2Proof.Claims

/-- The floating formats of the element encodings (R91), and their integers and their bounds (R95). -/
def formatOf : Nat → Option FloatFmt
  | 0 => some fp32 | 1 => some fp16 | 2 => some bf16 | 3 => some e4m3 | 4 => some e5m2 | 5 => some e2m1 | _ => none
def integral (enc : Nat) : Bool := [6, 7, 8, 12].contains enc
def integer (enc x : Nat) : Int :=
  let w : Nat := if enc = 6 then 8 else if enc = 12 then 32 else 4
  let y : Nat := x % 2 ^ w
  if enc = 8 ∨ y < 2 ^ (w - 1) then y else (y : Int) - 2 ^ w
def clamp (enc : Nat) (i : Int) : Int :=
  match enc with
  | 6 => max (-128) (min 127 i) | 7 => max (-8) (min 7 i) | 8 => max 0 (min 15 i) | _ => max (-2 ^ 31) (min (2 ^ 31 - 1) i)

/-- An element of an encoding: its value, where it is finite, is `elemNum / 2^elemDen`. -/
def elemNum (enc x : Nat) : Int := match formatOf enc with | some f => units f x | none => integer enc x
def elemDen (enc : Nat) : Nat := match formatOf enc with | some f => f.bias + f.mb - 1 | none => 0
def elemOk (enc x : Nat) : Bool := match formatOf enc with | some f => finite f x | none => true
def elemNan (enc x : Nat) : Bool := match formatOf enc with | some f => notNumber f x | none => false
def elemInf (enc x : Nat) : Bool := match formatOf enc with | some f => infinite f x | none => false
def elemNeg (enc x : Nat) : Bool := match formatOf enc with | some f => negative f x | none => decide (integer enc x < 0)

/-- The code `y` of an encoding that `n / 2^j` rounds to (R98, R106), a zero having the sign `neg`. -/
def becomes (enc : Nat) (n : Int) (j : Nat) (neg : Bool) (y : Nat) : Prop :=
  (∀ g, formatOf enc = some g → (n ≠ 0 → ∃ fl, gives g .rne (n * 2 ^ (g.bias + g.mb - 1)) j (y, fl)) ∧ (n = 0 → y = g.sign neg)) ∧
  (integral enc = true → ∃ i, roundsTo (fun _ => True) (fun k => k % 2 = 0) .rne n j i ∧ integer enc y = clamp enc i)

/-- The code of a NaN, and of an infinity (R93, R98, R106). -/
def nanCode (enc : Nat) : Nat := match formatOf enc with | some g => g.nan | none => 0
def infCodeOf (enc : Nat) (neg : Bool) (y : Nat) : Prop :=
  (∀ g, formatOf enc = some g → y = g.sign neg + (if g.hasInf then g.infCode else g.top)) ∧
  (integral enc = true → integer enc y = clamp enc (if neg then -2 ^ 31 else 2 ^ 31))

/-- The encodings that a view converts between. -/
def converts (enc : Nat) : Bool := (formatOf enc).isSome || integral enc

end Sys2Proof.Claims

/-- A load completes (R123, R130, R143, R145, R166, R167, R247, R257), with no byte at a peer. Each lane's registers receive
what its bytes give, by `laneIn` where the view converts; a lane whose bytes, scales or zero points hold poison has its
registers tagged, with the lowest poisoned address of all lanes and the load's address as origin, and every other tag of the
registers that it writes is cleared; a void lane's registers receive 0. No other register or tag changes, nor anything else of
the warp, and no byte of the part's memories (the host gets an event where an error that has struck is found, R412); the
operation is done. A `uld` writes its register; where a byte is poison the register keeps its value and POISON is held pending.
An atomic or a compare-and-swap completes (R130, R167, R251, R252, R257), with no byte at a peer and on pages that do not
migrate. Its lanes are performed one after another, in an order that is not defined: each returns to its register what it found,
and leaves in memory its operation's value, a compare-and-swap only where it found the expected one. No other register and no
other byte changes. A lane alone whose bytes are poison leaves memory as it is, and its register is tagged. The conversions of
lane loads and stores (R143, R144, R106). A unit of a load: an unscaled element is rounded to nearest in the register encoding;
one of an MX group is multiplied by 2^(E-127) first; one of an asymmetric group less its zero point is multiplied by the FP16
scale. A unit of a store goes the other way; in an asymmetric group it is the quotient by the scale, rounded to the nearest
integer, ties to even, plus the zero point, and saturated, or the zero point where there is no quotient. Each unit of a lane's
register value is the conversion of its own bits with its own group's scale and zero point. Requests of one source to one line
are ordered as log 103 says. -/
def Obligations.LoadsComplete : Prop :=
  ((∀ (s : State) (pack warp id : Nat) (p : Pack) (x : Context) (w : Warp) (f : Flight) (data : BitVec 7) (z : Nat) (v : BitVec 320)
    (accs : List LaneAcc) (voids : List Nat), s.flight? pack warp id = some (p, x, w, f) → f.kind = .load data z v accs voids →
    Claims.ready s p x w f → (∀ a ∈ accs, a.lane < 32 ∧ a.remote = false) → (∀ l ∈ voids, l < 32) →
    (accs.map (fun a => a.lane) ++ voids).Nodup →
    let cached := viewCpol v != 2 && f.acquire.isNone
    let num := Claims.number (Claims.loaded s p w f cached)
    let value (a : LaneAcc) : Nat := laneIn v z a.pos ((List.range a.len).map (fun i => Claims.loaded s p w f cached (a.place.plus i)))
      (a.scales.map (fun g => num g.2 (if viewSfmt v = 2 then 2 else 1))) (a.zeros.map (fun g => num g.2 1))
    let bad (l : List LaneAcc) : List Nat := Claims.poisons (Claims.spoilt s p w f cached) (l.flatMap (Claims.laneParts v))
    let n := (z + 3) / 4
    let mine (c l : Nat) : Prop := data.toNat ≤ c ∧ c < data.toNat + n ∧ l ∈ accs.map (fun a => a.lane) ++ voids
    ∃ t u, exec (.laneLoadReply pack warp id .none) s = .next t ∧ Claims.warpAt t pack warp = some u ∧
      (∀ q, (∀ a, q ≠ .host a) → t.readPlace q = s.readPlace q) ∧ (s.strikes = [] → SameMemory s t) ∧ (∀ g ∈ u.flight, g.id = id → g.done = true) ∧
      (∀ a ∈ accs, ∀ j, j < n → u.vreg (data.toNat + j) a.lane = BitVec.ofNat 32 (value a / 2 ^ (32 * j)) ∧
        Map.get false u.tags ((data.toNat + j) * 32 + a.lane) = !(bad [a]).isEmpty) ∧
      (∀ l ∈ voids, ∀ j, j < n → u.vreg (data.toNat + j) l = 0 ∧ Map.get false u.tags ((data.toNat + j) * 32 + l) = false) ∧
      (∀ c l, l < 32 → ¬mine c l → u.vreg c l = w.vreg c l ∧ Map.get false u.tags (c * 32 + l) = Map.get false w.tags (c * 32 + l)) ∧
      (∀ j, j < n → bad accs ≠ [] → ∃ a, Claims.leastIn a (bad accs) ∧
        Map.get {} u.origins (data.toNat + j) = { addr := BitVec.ofNat 64 a, pc := f.pc }) ∧
      { u with v := w.v, tags := w.tags, origins := w.origins, flight := w.flight } = w) ∧
  (∀ (s : State) (pack warp id : Nat) (p : Pack) (x : Context) (w : Warp) (f : Flight) (kd : BitVec 6) (a : LaneAcc),
    s.flight? pack warp id = some (p, x, w, f) → f.kind = .uload kd a → Claims.ready s p x w f → a.remote = false →
    let bad := Claims.poisons (Claims.spoilt s p w f true) [(a.va, a.place, 8)]
    ∃ t u, exec (.laneLoadReply pack warp id .none) s = .next t ∧ Claims.warpAt t pack warp = some u ∧
      (∀ q, (∀ a, q ≠ .host a) → t.readPlace q = s.readPlace q) ∧ (∀ g ∈ u.flight, g.id = id → g.done = true) ∧
      (bad = [] → u.pending = w.pending ∧ ∀ m, u.kreg m =
        if m = kd.toNat then BitVec.ofNat 64 (Claims.number (Claims.loaded s p w f true) a.place 8) else w.kreg m) ∧
      (bad ≠ [] → (∀ m, u.kreg m = w.kreg m) ∧ ∃ d ∈ u.pending, ∃ e, Claims.leastIn e bad ∧ d.cause = .poison ∧
        d.addr = BitVec.ofNat 64 e ∧ d.pc = f.pc))) ∧
  (∀ (s : State) (pack warp id : Nat) (p : Pack) (x : Context) (w : Warp) (f : Flight) (data : BitVec 7) (n : Nat)
    (lanes : List AtomLane) (new : AtomLane → Nat → Option Nat), s.flight? pack warp id = some (p, x, w, f) →
    Claims.atomicKind f.kind = some (data, n, lanes, new) → Claims.ready s p x w f → (∀ y, some y ∈ s.contexts → y.held = []) →
    (∀ l ∈ lanes, l.acc.lane < 32 ∧ l.acc.remote = false ∧ l.acc.len = n ∧
      (l.acc.place.isDram = true → ∀ i, i < n → Claims.settled x (l.acc.va + i))) → (lanes.map (fun l => l.acc.lane)).Nodup →
    ((∀ l ∈ lanes, ∀ i, i < n → s.badPlace (l.acc.place.plus i) = false ∧ s.strike (l.acc.place.plus i) = none) →
      ∃ t u order, order.Perm lanes ∧ exec (.laneLoadReply pack warp id .none) s = .next t ∧ Claims.warpAt t pack warp = some u ∧
        (∀ g ∈ u.flight, g.id = id → g.done = true) ∧
        let r := Claims.inTurn n new order s.readPlace
        (∀ q, t.readPlace q = r.2 q) ∧
        (∀ e ∈ r.1, ∀ j, j < (n + 3) / 4 → u.vreg (data.toNat + j) e.1 = BitVec.ofNat 32 (e.2 / 2 ^ (32 * j))) ∧
        (∀ c l, l < 32 → ¬(data.toNat ≤ c ∧ c < data.toNat + (n + 3) / 4 ∧ l ∈ lanes.map (fun l => l.acc.lane)) → u.vreg c l = w.vreg c l)) ∧
    (∀ l e, lanes = [l] → Claims.leastIn e (Claims.poisons (s.badFrom (dieOf p.core)) [(l.acc.va, l.acc.place, n)]) →
      ∃ t u, exec (.laneLoadReply pack warp id .none) s = .next t ∧ Claims.warpAt t pack warp = some u ∧
        (∀ q, (∀ a, q ≠ .host a) → t.readPlace q = s.readPlace q) ∧ (∀ g ∈ u.flight, g.id = id → g.done = true) ∧
        ∀ j, j < (n + 3) / 4 → Map.get false u.tags ((data.toNat + j) * 32 + l.acc.lane) = true ∧
          Map.get {} u.origins (data.toNat + j) = { addr := BitVec.ofNat 64 e, pc := f.pc })) ∧
  ((∀ (v : BitVec 320) (x scale zp : Nat), Claims.converts (viewEnc v) = true → Claims.converts (viewRenc v) = true →
    let enc := viewEnc v
    let renc := viewRenc v
    let y := unitIn v x scale zp
    let z0 : Int := if viewZp v then Claims.integer 6 zp else 0
    (viewSfmt v = 0 →
      (Claims.elemOk enc x = true → Claims.becomes renc (Claims.elemNum enc x) (Claims.elemDen enc) (Claims.elemNeg enc x) y) ∧
      (Claims.elemNan enc x = true → y = Claims.nanCode renc) ∧ (Claims.elemInf enc x = true → Claims.infCodeOf renc (Claims.elemNeg enc x) y)) ∧
    (viewSfmt v = 1 → scale < 256 →
      (Claims.elemOk enc x = true → scale ≠ 255 →
        Claims.becomes renc (Claims.elemNum enc x * 2 ^ scale) (Claims.elemDen enc + 127) (Claims.elemNeg enc x) y) ∧
      (Claims.elemNan enc x = true ∨ scale = 255 → y = Claims.nanCode renc)) ∧
    (viewSfmt v = 2 → Claims.integral enc = true →
      (Claims.finite fp16 scale = true → let q := Claims.integer enc x - z0
        Claims.becomes renc (Claims.units fp16 scale * q) 24 (Claims.negative fp16 scale != decide (q < 0)) y) ∧
      (Claims.notNumber fp16 scale = true → y = Claims.nanCode renc))) ∧
  (∀ (v : BitVec 320) (r scale zp : Nat), Claims.converts (viewEnc v) = true → Claims.converts (viewRenc v) = true →
    let enc := viewEnc v
    let renc := viewRenc v
    let y := unitOut v r scale zp
    let z0 : Int := if viewZp v then Claims.integer 6 zp else 0
    (viewSfmt v = 0 →
      (Claims.elemOk renc r = true → Claims.becomes enc (Claims.elemNum renc r) (Claims.elemDen renc) (Claims.elemNeg renc r) y) ∧
      (Claims.elemNan renc r = true → y = Claims.nanCode enc) ∧ (Claims.elemInf renc r = true → Claims.infCodeOf enc (Claims.elemNeg renc r) y)) ∧
    (viewSfmt v = 1 → scale < 256 →
      (Claims.elemOk renc r = true → scale ≠ 255 →
        Claims.becomes enc (Claims.elemNum renc r * 2 ^ 127) (Claims.elemDen renc + scale) (Claims.elemNeg renc r) y) ∧
      (Claims.elemNan renc r = true ∨ scale = 255 → y = Claims.nanCode enc)) ∧
    (viewSfmt v = 2 → Claims.integral enc = true →
      let none_ := Claims.elemNan renc r = true ∨ Claims.finite fp16 scale = false ∨ Claims.units fp16 scale = 0
      let A := Claims.elemNum renc r * 2 ^ 24
      let B := Claims.units fp16 scale * 2 ^ Claims.elemDen renc
      (none_ → Claims.integer enc y = Claims.clamp enc z0) ∧
      (¬none_ → Claims.elemOk renc r = true → ∃ q : Int, Claims.integer enc y = Claims.clamp enc (q + z0) ∧
        ∀ k : Int, (q * B - A).natAbs ≤ (k * B - A).natAbs ∧ ((k * B - A).natAbs = (q * B - A).natAbs → k = q ∨ q % 2 = 0)) ∧
      (¬none_ → Claims.elemInf renc r = true →
        Claims.infCodeOf enc (Claims.elemNeg renc r != Claims.negative fp16 scale) y))) ∧
  (∀ (v : BitVec 320) (z pos i : Nat) (bytes : List (BitVec 8)) (ss zs : List Nat), viewConv v = true →
    Claims.converts (viewRenc v) = true → i < unitCount v z →
    let rb := encBits (viewRenc v)
    let wn := unitNibbles v z
    let k := pos % 2 + i
    let unit := if wn = 1 then (bytes.getD (k / 2) 0).toNat / 16 ^ (k % 2) % 16 else leNat ((bytes.drop (i * (wn / 2))).take (wn / 2))
    let g := (pos + i) / groupLen v - pos / groupLen v
    laneIn v z pos bytes ss zs / 2 ^ (rb * i) % 2 ^ rb = unitIn v unit (ss.getD g 0) (zs.getD g 0)))

/-- A store completes (R130, R146, R166, R191, R192, R417). A store that has left its write-combining buffer, with no byte at a
peer and none on a migrating page, is performed when its order allows and no earlier request of its core's to the same line
waits on a link: outside its bytes every byte of the part reads as before, its bytes read as StoreWritesItsBytes says, and its
operation is done. A drain moves a store out of the buffer: where no `tlbinv` came between, nothing else of the warp changes,
and no memory. A reply to `rld` writes the register; a refusal is a FABRIC fault held pending, and the register keeps its value;
either way the operation is done. Requests of one source to one line are ordered as log 103 says. -/
def Obligations.StoresComplete : Prop :=
  (∀ (s : State) (pack warp id : Nat) (p : Pack) (x : Context) (w : Warp) (f : Flight) (v : BitVec 320) (z : Nat) (bs : List StoreByte),
    s.flight? pack warp id = some (p, x, w, f) → f.kind = .store bs v z [] → x.ackEpoch.toNat ≤ f.epoch.toNat → f.inWcb = false →
    w.mayPerform f = true → s.behindOnLink p.core f = false →
    (∀ b ∈ bs, b.place.peer? = none ∧ s.linkBad (dieOf p.core) b.place = false ∧ (b.place.isDram = true → s.migrating x b.va = false)) →
    ∃ t u, exec (.laneStorePerformed pack warp id .none) s = .next t ∧ Claims.warpAt t pack warp = some u ∧
      (∀ g ∈ u.flight, g.id = id → g.done = true) ∧ { u with flight := [] } = { w with flight := [] } ∧
      (∀ q, t.readPlace q = (s.writeAll bs).readPlace q) ∧
      (∀ q, (∀ b ∈ bs, b.place ≠ q) → t.readPlace q = s.readPlace q)) ∧
  (∀ (s : State) (pack warp id : Nat) (p : Pack) (x : Context) (w : Warp) (f : Flight) (v : BitVec 320) (z : Nat) (bs : List StoreByte)
    (late : List (LaneAcc × Nat)), s.flight? pack warp id = some (p, x, w, f) → f.kind = .store bs v z late → f.epoch = x.epoch →
    f.inWcb = true → s.tagsOut f.kind f.release = false → lineRequests (flightPlaces f.kind) = [] ∨ w.maySend f = true →
    ∃ t, exec (.wcbDrain pack warp id) s = .next t ∧ SameMemory s t ∧
      Claims.warpAt t pack warp = some { w with flight := w.flight.map (fun g => if g.id = id then
        { g with inWcb := false, kind := .store bs v z late, epoch := x.epoch } else g) }) ∧
  (∀ (s : State) (pack warp id : Nat) (p : Pack) (x : Context) (w : Warp) (f : Flight) (kd : BitVec 6) (peer va : Nat) (ord : Bool)
    (data : List (BitVec 8)), s.flight? pack warp id = some (p, x, w, f) → f.kind = .rload kd peer va ord → f.acquire = none → s.unsent pack warp f = false →
    w.live ≠ 0 → w.mayPerform f = true → (∀ n ∈ f.waits, s.uncompleted p.core pack warp n = false) → data.length = 8 →
    (∃ t u, exec (.remoteReply pack warp id (.data data)) s = .next t ∧ Claims.warpAt t pack warp = some u ∧ SameMemory s t ∧
      (∀ g ∈ u.flight, g.id = id → g.done = true) ∧ u.pending = w.pending ∧
      ∀ m, u.kreg m = if m = kd.toNat then BitVec.ofNat 64 (leNat data) else w.kreg m) ∧
    (∃ t u d, exec (.remoteReply pack warp id .fabric) s = .next t ∧ Claims.warpAt t pack warp = some u ∧ SameMemory s t ∧
      (∀ g ∈ u.flight, g.id = id → g.done = true) ∧ (∀ m, u.kreg m = w.kreg m) ∧ d ∈ u.pending ∧ d.cause = .fabric ∧
      d.addr = BitVec.ofNat 64 va ∧ d.pc = f.pc))

/-! ## Events: engines -/

namespace Sys2Proof.Claims

/-- Every chunk of the next segment of a copy command is in a scratchpad, in its pack's reach (R121). -/
def inScratch (s : State) (p : Pack) (c : CopyCmd) : Prop :=
  cdDspace c.desc ≠ 0 ∧ (c.op = 4 ∨ cdSspace c.desc ≠ 0) ∧ ∀ n ∈ c.segment c.segUnits,
    (∀ k ∈ c.sources n, (s.scratchPlace p (cdSspace c.desc) k.1 k.2).isSome) ∧
    (∀ k ∈ c.targets n, (s.scratchPlace p (cdDspace c.desc) k.1 k.2).isSome)

end Sys2Proof.Claims

/-- The engines' events (R156, R273, R291, R294, R328, R338, R344, R345, R374). A segment of a copy that asks nothing of peers:
the command goes on by what the segment did; one whose chunks all lie in scratchpads is performed whole. A matrix step: the
granted command's step is counted, its charge leaves the core's credit, and its last step completes it. A refill raises each
credit by BUDGET, never above it. An abort halts the context; a retry of an NMC fault lets the command run. A signal that waited
for a leash or a barrier is tried again, and leaves the engine once the target takes it. An adapter pair that arrives, with
nothing of it at a peer, joins the cache. -/
def Obligations.EngineEvents : Prop :=
  (∀ (s : State) (core tag : Nat) (c : CopyCmd) (p : Pack) (x : Context), s.copyAt core tag = some (c, p, x) →
    c.segs = [] → c.phase = .running → c.next < cdElems c.desc → c.read = none → c.acked = [] →
    s.askedOf (.engine (engineKey core tag)) = [] →
    (∀ r u, s.srcChunks p x c (c.segment c.segUnits) = [] → s.dstChunks p x c (c.segment c.segUnits) = [] →
      CopyRun.segment { st := s, cmd := c } p x c.segUnits = .ok r → r.perform.done.close = .ok u →
      exec (.copySegment core tag .none) s = .next u) ∧
    (Claims.inScratch s p c → targetKind c.target ≠ 3 →
      ∃ r u, CopyRun.segment { st := s, cmd := c } p x c.segUnits = .ok r ∧ r.halt = false ∧
        r.cmd.next = c.next + (c.segment c.segUnits).length * c.unit ∧ r.perform.done.close = .ok u ∧
        exec (.copySegment core tag .none) s = .next u)) ∧
  (∀ (s : State) (core phys : Nat) (c : MatCmd) (p : Pack) (x : Context) (tile : TileState), 0 < s.creditOf core →
    grantOf (s.candidates core [] (s.core core).mats) = some c → s.pack? c.pack = some p → s.ctx? c.ctx = some x →
    s.tileOf p c.tile = .ok (phys, tile) →
    let cs := s.candidates core [] (s.core core).mats
    let s1 := (s.lookUp p c).modCore core (fun k => { k with
      mats := (passOver cs c (s.core core).mats).map (fun d => if d.tag = c.tag then { d with stepsDone := d.stepsDone + 1 } else d)
      credit := some (s.creditOf core - (if c.stepsDone < c.steps then (c.charge : Int) else 0)) })
    let r := s1.stepTile p x c tile
    let s2 := r.1.putTile p c.tile phys r.2
    (c.stepsDone + 1 ≠ c.total → exec (.matrixStep core) s = .next s2) ∧
    (c.stepsDone + 1 = c.total → ∃ t, s2.finishMat c = .ok t ∧ exec (.matrixStep core) s = .next t)) ∧
  (∀ (s : State) (core : Nat), (s.creditOf core ≤ 0 ∨ grantOf (s.candidates core [] (s.core core).mats) = none) →
    exec (.matrixStep core) s = .next s) ∧
  (∀ s : State, Map.wf {} s.cores = true → ∃ t, exec .creditRefill s = .next t ∧
    t.mgmt.credit = min (s.mgmt.credit + s.mgmt.ebudget.toNat) s.mgmt.ebudget.toNat ∧ ∀ n c, (s.core n).credit = some c →
    (t.core n).credit = some (min (c + s.mgmt.ebudget.toNat) s.mgmt.ebudget.toNat) ∧ (t.core n).mats = (s.core n).mats) ∧
  (∀ (s : State) (ctx fseq : Nat) (x : Context) (f : EngFault), s.ctx? ctx = some x → x.faults.find? (fun g => g.fseq == fseq) = some f →
    (∃ t r, exec (.engineFaultAbort ctx fseq) s = .next t ∧ t = (s.modCtx ctx (fun y => { y with
        faults := y.faults.filter (fun g => g.fseq != fseq), doneWait := y.doneWait.filter (fun d => d.fseq != fseq) })).raiseHalt ctx r ∧
      r.source = .abort ∧ r.core = f.core ∧ r.cause = BitVec.ofNat 6 (causeCode f.cause)) ∧
    (f.engine = 1 → (∀ d ∈ x.doneWait, d.fseq ≠ 0) → exec (.engineFaultRetry ctx fseq) s =
      .next ((s.modCtx ctx (fun y => { y with faults := y.faults.filter (fun g => g.fseq != fseq) })).modCore f.core (fun k => { k with
        nmcs := k.nmcs.map (fun d => if d.tag = f.tag ∧ d.phase = .stalled fseq then { d with phase := .running } else d) })))) ∧
  (∀ (s : State) (core tag : Nat) (c : CopyCmd) (p : Pack), c.core = core → s.pack? c.pack = some p → p.status = .running →
    let waits (kind : Nat) : Prop := (s.core core).copies.find? (fun c => c.tag == tag && c.phase == .signal &&
      targetKind c.target == kind) = some c
    let gone (t : State) : Prop := ∀ d ∈ (t.core core).copies, d.tag ≠ tag
    (waits 1 → ∃ t, s.completeCopy c = .ok t ∧ exec (.engineLeashPush core tag) s = .next t ∧
      (∀ l, p.leashes[targetIndex c.target]? = some l → l.queued + l.held < l.depth → gone t)) ∧
    (waits 2 → ∃ t, s.completeCopy c = .ok t ∧ exec (.engineBarrierDelivery core tag) s = .next t ∧
      (∀ b, s.barrier? p (BitVec.ofNat 6 (targetIndex c.target)) = some b → -(2 ^ 31 : Int) ≤ b.txb - c.written → gone t))) ∧
  (∀ (s : State) (core tag row : Nat) (c : MatCmd) (p : Pack) (x : Context) (ps : List (Nat × Place)),
    (s.core core).mats.find? (fun c => c.tag == tag) = some c → s.pack? c.pack = some p → s.ctx? c.ctx = some x →
    row ∈ x.absentRows p c → c.stepsDone ≠ 0 → x.unitClosing 2 core = false →
    (∀ f ∈ x.faults, ¬(f.engine = 3 ∧ f.tag = tag ∧ f.core = core)) →
    let id := c.ids.getD row 0
    s.fillPlaces x (c.wanted x p id) = .ok ps → (∀ a ∈ ps, a.2.peer? = none) → s.atomicHeldAt (ps.map (fun a => a.2)) = false →
    s.askedOf (.engine (fillKey core tag row)) = [] →
    ∃ bs, s.fillBytes .none [] ps [] = .ok bs ∧ exec (.adapterFillArrival core tag row .none) s =
      .next ((s.detect (ps.map (fun a => a.2))).modCtx c.ctx (fun y => y.fillPair p c id bs)))

namespace Sys2Proof.Claims

/-- The end of a near-memory command with a status and results (R306), after its agent's work has left `s`. -/
def nmcEnds (s t : State) (c : NmcCmd) (status : Nat) (result : List (BitVec 8)) : Prop :=
  (s.countHalt c.ctx 4 (dieOf c.core) 0 1).finishNmc c status result = .ok t

/-- Event `i` in state `s` ends command `c` with a status and results, its agent's work having left `s1`: the end is `nmcEnds`, and it
comes to pass where the command's pack has no record and its target is no dependence counter. -/
def endsAs (i : Instr) (s s1 : State) (c : NmcCmd) (status : Nat) (result : List (BitVec 8)) : Prop :=
  (∀ t, nmcEnds s1 t c status result → exec i s = .next t) ∧
  (targetKind c.target ≠ 3 → (∀ p, s.pack? c.pack = some p → p.record = none) → ∃ t, nmcEnds s1 t c status result ∧ exec i s = .next t)

/-- Event `i` in state `s` performs output block `b` of command `c`, poisoned or not, its agent's work having left `s1`: the last block
ends the command with its bitmap of poisoned blocks. -/
def blockAs (i : Instr) (s s1 : State) (c : NmcCmd) (b : Nat) (bad : Bool) : Prop :=
  let c1 := { c with left := c.left.filter (fun i => i != b), bad := if bad then c.bad ||| (1#256 <<< b) else c.bad }
  (c1.left ≠ [] → exec i s = .next ((s1.countHalt c.ctx 4 (dieOf c.core) 0 1).setNmc c1)) ∧
  (c1.left = [] → endsAs i s s1 c1 (if c1.bad = 0 then 0 else 1) (leBytes 32 c1.bad.toNat))

/-- The command may be worked on by an agent of the part: every page of its ranges is local (R302). -/
def nmcLocal (s : State) (core tag op : Nat) (c : NmcCmd) (x : Context) : Prop :=
  s.nmcAt core tag op = some (c, x) ∧ s.nmcHome x (nmcRanges c.block) = .ok .loc

end Sys2Proof.Claims

namespace Sys2Proof.Claims

/-- The part has one collective step, which its halt has not stopped, and whose peer may still answer. -/
def oneStep (s : State) (c : CollStep) (x : Context) : Prop :=
  s.colls = [c] ∧ s.ctx? c.ctx = some x ∧ x.unitClosing 3 c.die = false ∧ (s.peer (cbPeer c.block)).gone = false

end Sys2Proof.Claims

/-- The near-memory agents (R302 to R306), on commands whose pages are local. NCAS, on words that no migrating page holds: words
with poison end it with status 1; where they all hold the expected values the new ones are written and the status is 0,
otherwise nothing is written and it is 2; the old words are the result. NFILL fills one output block with its pattern, and NMX
evaluates its expression on one; a block of poisoned inputs is poison, and the last one ends the command. NENQ: a header that is
not right gives status 4, a queue that is full status 3; otherwise the value takes the slot at TAIL, and TAIL rises. NCHASE ends
as its walk does: with FOUND at the first node where that holds the key. Collective steps between parts (R186, R312 to R314,
R399). An offer or an abandon notice is taken (`takeOffer`), and every step goes as far as it can: where none can move, it
waits; an offer that matches the part's one offered step pairs it, and an abandon notice ends it with status 4. A delivery of
elements holds at most 256 bytes; before it is taken the tags that its sender has retired leave the reply cache. One whose tag
the cache holds is not performed again, one that finds no place to keep its answer gets RETRY, and one of a fabric context
number that no context has is answered FABRIC. Otherwise its elements, raw, are combined with LOCAL one by one by the paired
step that it is for, from that step's peer, and written to OUT, and the answer is kept under the delivery's tag. That FOUND at
the first node counts no hop is the model's reading (log 37); a notice that comes late is taken as log 105 says. -/
def Obligations.NearMemoryEvents : Prop :=
  ((∀ (s : State) (core tag : Nat) (c : NmcCmd) (x : Context) (ps : List Place), Claims.nmcLocal s core tag 2 c x →
    let n := nbCnt c.block + 1
    let dst := nbDst c.block
    s.localPlaces x dst (8 * n) = .ok (.ok ps) → s.migrating x dst = false →
    let i : Instr := .ncas core tag .none
    let s1 := s.detect ps
    let old := wordsOf (ps.map s1.homeByte)
    ((∃ p ∈ ps, s.badPlace p = true) → Claims.endsAs i s s1 c 1 []) ∧
    ((∀ p ∈ ps, s.badPlace p = false) →
      (old = c.expected.map (fun e => e.toNat) →
        Claims.endsAs i s (s1.agentWrite c.ctx c.core dst ps ((List.range n).flatMap (fun i => leBytes 8 (nbA c.block i))) false) c 0
          (old.flatMap (leBytes 8))) ∧
      (old ≠ c.expected.map (fun e => e.toNat) → Claims.endsAs i s s1 c 2 (old.flatMap (leBytes 8))))) ∧
  (∀ (s : State) (core tag block : Nat) (c : NmcCmd) (x : Context) (ps : List Place), Claims.nmcLocal s core tag 5 c x → block ∈ c.left →
    let dst := nbDst c.block + 256 * block
    let data := (List.replicate 32 (leBytes 8 (nbA c.block 0))).flatten
    s.localPlaces x dst 256 = .ok (.ok ps) → s.noRoom x (wholeBytes dst ps data) = false →
    Claims.blockAs (.nfill core tag block .none) s (s.agentWrite c.ctx c.core dst ps data false) c block false) ∧
  (∀ (s : State) (core tag block : Nat) (c : NmcCmd) (x : Context) (ins : Nat → List Place) (ps : List Place),
    Claims.nmcLocal s core tag 1 c x → block ∈ c.left →
    (∀ i, i < 4 → if i ∈ usedStreams c.block then s.localPlaces x (nbA c.block i + 256 * block) 256 = .ok (.ok (ins i)) else ins i = []) →
    let dst := nbDst c.block + 256 * block
    let srcs := (List.range 4).map ins
    let data := nmxBlock (nbEnc c.block) c.expr (srcs.map (fun l => l.map (s.agentByte (c.covered s))))
    s.localPlaces x dst 256 = .ok (.ok ps) → s.noRoom x (wholeBytes dst ps data) = false → s.atomicHeldAt srcs.flatten = false →
    let bad := srcs.flatten.any (s.homeBadFrom (dieOf c.core))
    let s1 := (s.detectFrom (dieOf c.core) srcs.flatten).agentWrite c.ctx c.core dst ps data bad
    Claims.blockAs (.nmx core tag block .none) s { s1 with fresh := s1.fresh + 1 } c block bad) ∧
  (∀ (s : State) (core tag : Nat) (c : NmcCmd) (x : Context) (ps : List Place), Claims.nmcLocal s core tag 3 c x →
    s.localPlaces x (nbDst c.block) 64 = .ok (.ok ps) → s.migrating x (nbDst c.block) = false → (∀ p ∈ ps, s.badPlace p = false) →
    let i : Instr := .nenq core tag .none
    let s1 := s.detect ps
    let bs := ps.map s1.homeByte
    let tail := leNat (bs.take 8)
    let head := leNat ((bs.drop 8).take 8)
    let caplog := leNat ((bs.drop 16).take 1)
    let slot := (nbDst c.block + 64 + 8 * (tail % 2 ^ caplog)) % 2 ^ 64
    let sound := caplog ≤ 16 ∧ ∀ b ∈ bs.drop 17, b = 0
    (¬sound → Claims.endsAs i s s1 c 4 []) ∧
    (sound → 2 ^ caplog ≤ (tail + 2 ^ 64 - head) % 2 ^ 64 → Claims.endsAs i s s1 c 3 (leBytes 8 tail)) ∧
    (sound → (tail + 2 ^ 64 - head) % 2 ^ 64 < 2 ^ caplog → s1.nmcHome x [(slot, 8, .store)] = .ok .loc →
      ∀ qs, s1.localPlaces x slot 8 = .ok (.ok qs) → s.noRoom x (wholeBytes slot qs (leBytes 8 (nbA c.block 0))) = false →
      Claims.endsAs i s ((s1.agentWrite c.ctx c.core slot qs (leBytes 8 (nbA c.block 0)) false).agentWrite c.ctx c.core (nbDst c.block)
        (ps.take 8) (leBytes 8 (tail + 1)) false) c 0 (leBytes 8 tail))) ∧
  (∀ (s : State) (core tag : Nat) (c : NmcCmd) (x : Context), Claims.nmcLocal s core tag 4 c x →
    let p := nbDst c.block
    let i : Instr := .nchase core tag .none
    (∀ st node hops t, State.chase x c (nbCnt c.block + 1) p 0 s = .ok (.ended st node hops, t) →
      Claims.endsAs i s { t with fresh := t.fresh + 1 } c st (if st = 8 then [] else leBytes 8 node ++ leBytes 8 hops)) ∧
    (p % 8 = 0 → nbA c.block 3 = 1 → s.nmcHome x [((p + nbA c.block 1) % 2 ^ 64, 8, .load)] = .ok .loc →
      ∀ ps, s.localPlaces x ((p + nbA c.block 1) % 2 ^ 64) 8 = .ok (.ok ps) → (∀ q ∈ ps, s.homeBad q = false) →
      leNat (ps.map (s.agentByte (c.covered s))) = nbA c.block 2 →
      Claims.endsAs i s { s.detect ps with fresh := (s.detect ps).fresh + 1 } c 5 (leBytes 8 p ++ leBytes 8 0)))) ∧
  ((∀ (s : State) (peer : BitVec 10) (ctx : Nat) (step : BitVec 16) (count : Nat) (red senc : BitVec 4) (lower abandon : Bool),
    let o : Offer := if abandon then
        { peer := peer.toNat, ctx := ctx, step := step, abandon := true, count := 0, red := 0, senc := 0, lower := false }
      else { peer := peer.toNat, ctx := ctx, step := step, abandon := false, count := count, red := red, senc := senc, lower := lower }
    let i : Instr := if abandon then .cstepAbandonNotice peer ctx step else .cstepPeerOffer peer ctx step count red senc lower
    (∀ t, (s.takeOffer o).settleSteps = .ok t → exec i s = .next t) ∧
    ((∀ d ∈ s.colls, (s.takeOffer o).collMove d = none) → exec i s = .next (s.takeOffer o)) ∧
    (∀ c x, Claims.oneStep s c x → c.phase = .offered → (∀ e ∈ s.collLog, e.met = true) → s.offers = [] →
      cbPeer c.block = peer.toNat → c.ctx = ctx → cbStep c.block = step.toNat →
      (abandon = false → cbCount c.block = count → cbRed c.block = red.toNat → cbSenc c.block = senc.toNat → cbLower c.block ≠ lower →
        c.got < cbCount c.block → s.strikes = [] → (∃ ps, s.localPlaces x (cbSend c.block + c.sent)
          (min 4096 (cbCount c.block * byteWidth (cbSenc c.block) - c.sent)) = .ok (.ok ps)) →
        ∃ t, exec i s = .next t ∧ SameMemory s t ∧ ∃ d ∈ t.colls, d.id = c.id ∧ d.phase = .paired) ∧
      (abandon = true → targetKind c.target ≠ 3 → (∀ p, s.pack? c.pack = some p → p.record = none) →
        ∃ t, s.finishColl c 4 = .ok t ∧ exec i s = .next t))) ∧
  (∀ (s0 : State) (tag : Nat) (d : Delivery) (pois last : Bool),
    let s1 : State := match s0.colls.find? (fun c => c.id == tag) with
      | some c => if last then s0.closeRequests (fun _ => true) (fun q => q.owner == .engine (engineKey c.core c.tag)) else s0
      | none => s0
    let s : State := { s1 with replies := s1.replies.filter (fun r => !(r.src == d.src.toNat && d.retired.contains r.tag)) }
    let i : Instr := .cstepDataArrival tag d pois last
    let kept := s.replies.find? (fun r => r.src == d.src.toNat && r.tag == d.tag)
    let entry (a : Answer) : ReplyEntry := { src := d.src.toNat, tag := d.tag, reply := a }
    let answers (t : State) (a : Answer) : State := { t with answered := some (entry a), replies := t.replies ++ [entry a] }
    (d.bytes = [] → ∀ t, s1.settleSteps = .ok t → exec i s0 = .next t) ∧
    (256 < d.bytes.length → exec i s0 = .next s1) ∧
    (d.bytes ≠ [] → d.bytes.length ≤ 256 →
      (∀ r, kept = some r → exec i s0 = .next { s with answered := some r }) ∧
      (kept = none → 16384 ≤ s.replies.length → exec i s0 = .next ({ s with answered := some (entry .retry) }.bumpRas 0x3048)) ∧
      (kept = none → s.replies.length < 16384 → s.byFctx d.fctx.toNat = none → exec i s0 = .next (answers s .fabric)) ∧
      (kept = none → s.replies.length < 16384 → ∀ ctx x c, s.byFctx d.fctx.toNat = some (ctx, x) → d.cmode = 0 →
        s.colls.find? (fun c => c.id == tag) = some c → c.ctx = ctx → cbPeer c.block = d.src.toNat → c.phase = .paired →
        x.unitClosing 3 c.die = false →
        let w := byteWidth (cbSenc c.block)
        let n := d.bytes.length / w
        d.bytes.length % w = 0 → c.got + n ≤ cbCount c.block → s.outFull x c n = false → s.collHome x c.block = .ok .loc →
        (∀ c1 s2 t, State.collElems x pois ((List.range n).map (fun i => leNat ((d.bytes.drop (i * w)).take w))) c s = .ok (c1, s2) →
          (answers (s2.setColl c1) (.data [])).settleSteps = .ok t → exec i s0 = .next t) ∧
        (∀ out ins : List Place, n = 1 → pois = false → Claims.oneStep s c x → c.got + 1 < cbCount c.block →
          cbCount c.block * w ≤ c.sent → s.elemPlaces x (cbOut c.block) (byteWidth (cbOenc c.block)) c.got = .ok out →
          (if cbRed c.block = 0 then ins = [] else s.elemPlaces x (cbLocal c.block) (byteWidth (cbLenc c.block)) c.got = .ok ins) →
          (∀ p ∈ ins, s.badFrom c.die p = false) →
          let r := collElem c.block (leNat (ins.map s.readPlace)) (leNat d.bytes)
          let z := byteWidth (cbOenc c.block)
          let s2 := (s.detectFrom c.die ins).engineWrite c.ctx c.core (wholeBytes (cbOut c.block + c.got * z) out (leBytes z r)) false
          ∃ t e, exec i s0 = .next t ∧ (∀ q, t.readPlace q = s2.readPlace q) ∧ t.answered = some (entry (.data [])) ∧ e ∈ t.colls ∧
            e.id = c.id ∧ e.got = c.got + 1)))))

/-! ## Events: scheduling -/

/-- Dispatch, retirement and parking (R27, R28, R31, R43, R46, R49, R265, R408). A channel's next slot is accepted as a launch
and RD advances. A launch whose turn it is, at places that have room for its next packs, with their root barriers, is placed
there. A pack with no live lane, no access in flight and no command retires: it leaves, its launch counts it, and the last one
completes the launch. A pack that may park is recorded and parked; a parked or saved one whose turn it is resumes on a core with
room. Each comes to pass with page tables that can be walked; a placement where no other pack's scratchpad must move out; a park
of a pack without root barriers; a resumption on the home core, with the record readable and no tile or command in it. Kennels'
timers, slices and time-outs (R16, R35, R360, R380, R381, R383). A kennel whose oldest task has waited KENNELT forms its wave,
unless its context halts. Where a context that shares its partition has had its slice, the time is counted; where its share
gives it the next slice too, nothing else changes, and otherwise its packs are put off or saved and the next sharer's slice
begins. A pack whose pre-emption has been put off for TIMEOUT raises TIMEOUT in its lowest warp that is not held, or halts the
context where a warp is in its handler. Slices and time-outs are read as logs 61 and 62 say, the restart address of TIMEOUT as
log 86, and what a parked pack holds as log 94. -/
def Obligations.DispatchEvents : Prop :=
  ((∀ (s : State) (c : BitVec 6) (x : Context) (bs : List (BitVec 8)),
    let k := s.channel c.toNat
    let pkt : BitVec 2048 := recOf 2048 bs
    let s1 := s.setChannel c.toNat { k with rd := k.rd + 1 }
    k.valid = true → k.wr ≠ k.rd → k.stat.getLsbD 1 = false → s.ctx? k.ctx = some x → x.halt = .clear →
    s.partRead x ((k.base.toNat + 256 * (k.rd.toNat % 2 ^ k.log2n)) % 2 ^ 64) 256 = .ok bs →
    (∀ t, s1.acceptLaunch k.ctx pkt = .ok t → exec (.channelSlotRead c) s = .next t) ∧
    (pktStatus pkt = 0 → exec (.channelSlotRead c) s = .next (s1.setCtx k.ctx (some { x with
      lseq := x.lseq + 1
      launches := x.launches ++ [Launch.test { lseq := x.lseq + 1, pkt := pkt } { x with lseq := x.lseq + 1 } s.cycle] })))) ∧
  (∀ (s : State) (ctx : Nat) (lseq : BitVec 64) (places : List (Nat × Nat)) (x : Context) (l : Launch), s.age.ctx? ctx = some x →
    x.launches.find? (fun l => l.lseq == lseq) = some l →
    let a := s.age
    let ids := l.nextPacks
    let item : WorkItem := { prio := min 3 (pktPrio l.pkt + l.boost), lseq := lseq.toNat, ctx := ctx, pack := none }
    let cluster := clusterOf (places.headD (0, 0)).1
    let group := a.groupFor ctx l (ids.headD 0)
    a.turnOf item = true → places.length = ids.length → cluster ∈ (a.itemNeeds item).1 → cluster ∈ a.clustersFor item →
    (∀ p ∈ places, clusterOf p.1 = cluster) → a.placesFit l.pkt places [] = true → a.rootsNeeded ctx l ≤ a.rootsFree cluster →
    let placed (t : State) : State := t.modCtx ctx (fun y => { y with
      launches := y.launches.map (fun m => if m.lseq = lseq then m.placed ids else m) })
    (∀ t, State.makePacks ctx l group (ids.zip places) a = .ok t → exec (.packDispatch ctx lseq places) s = .next (placed t)) ∧
    (Claims.walkable a → (∀ p ∈ places, a.residents p.1 = []) →
      ∃ t, State.makePacks ctx l group (ids.zip places) a = .ok t ∧ exec (.packDispatch ctx lseq places) s = .next (placed t) ∧
        t.packs.length = s.packs.length + ids.length)) ∧
  (∀ (s : State), exec .priorityAging s = .next s.age) ∧
  (∀ (s : State) (pack : Nat) (p : Pack) (l : Launch) (x : Context), s.pack? pack = some p → p.status = .running →
    (∀ w ∈ p.warps, w.live = 0 ∧ w.flight = []) → s.busy p = false → (pktSeq p.pkt 0xA0).2.2 = false → (pktSeq p.pkt 0xB0).2.2 = false →
    (s.removePack p).ctx? p.ctx = some x → x.launches.find? (fun l => l.lseq == p.lseq) = some l →
    let s1 := (s.removePack p).modCtx p.ctx (fun x => { x with launches := x.launches.map (fun m =>
      if m.lseq = l.lseq then { l with retired := l.retired + 1 } else m) })
    let last := s1.completeLaunch p.ctx { l with retired := l.retired + 1 } 0 true
    (l.retired + 1 ≠ l.total → exec (.packRetire pack) s = .next s1) ∧
    (l.retired + 1 = l.total → (∀ t, last = .ok t → exec (.packRetire pack) s = .next t) ∧
      (Claims.walkable s → ∃ t, last = .ok t ∧ exec (.packRetire pack) s = .next t))) ∧
  (∀ (s : State) (pack : Nat) (p : Pack) (x : Context), s.pack? pack = some p → s.ctx? p.ctx = some x → p.status = .running →
    p.preempt = none → s.mayPark x p = true →
    (∀ t, s.writeRecord p .parked false = .ok (some t) →
      exec (.packPark pack) s = .next (t.modPack pack (fun q => { q with status := .parked, queuedAt := none, boost := 0 }))) ∧
    (Claims.walkable s → x.freeSlot ≠ none → s.groupRoots p = [] →
      ∃ t q, exec (.packPark pack) s = .next t ∧ t.pack? pack = some q ∧ q.status = .parked)) ∧
  (∀ (s : State) (pack core quad : Nat) (p : Pack) (r : Record) (x : Context), s.age.pack? pack = some p → p.record = some r →
    s.age.ctx? p.ctx = some x →
    let a := s.age
    let item : WorkItem := { prio := min 3 (pktPrio p.pkt + p.boost), lseq := p.lseq.toNat, ctx := p.ctx, pack := some pack }
    a.turnOf item = true → a.fits [] core quad p.pkt = true → descHas x.desc (clusterOf core) = true →
    clusterOf core ∈ a.clustersFor item →
    a.tileRoom p core = true →
    (core = p.core ∨ (∀ q, q < 4 → a.fits [] p.core q p.pkt = false) ∨ a.tileRoom p p.core = false ∨ clusterOf p.core ∉ a.clustersFor item) →
    (∀ t, a.resumePack p r core quad = .ok t → exec (.packResume pack core quad) s = .next t) ∧
    (Claims.walkable a → core = p.core → (∀ q ∈ a.residents core, q.id = p.id) → r.saved = [] → p.heldDone = [] →
      (∀ c ∈ (a.core core).copies, c.pack ≠ p.id) → (∀ c ∈ (a.core core).mats, c.pack ≠ p.id) →
      ∀ fs, a.recordFrames x r.slot .load = .ok fs →
      ∃ t q, exec (.packResume pack core quad) s = .next t ∧ t.pack? pack = some q ∧ q.status = .running ∧ q.core = core ∧
        q.record = none))) ∧
  ((∀ (s : State) (ctx i : Nat) (x : Context) (k : Kennel) (c : Nat) (task : Task) (rest : List (Nat × Task)), s.ctx? ctx = some x →
    x.kennels[i]? = some k → k.tasks = (c, task) :: rest → c + descKennelt x.desc ≤ s.cycle → x.halt = .clear →
    (∀ t u, s.formWave ctx i = .ok t → t.settleAll ctx = .ok u → exec (.kennelTimerExpiry ctx i) s = .next u) ∧
    (Claims.walkable s → ∃ t u, s.formWave ctx i = .ok t ∧ t.settleAll ctx = .ok u ∧ exec (.kennelTimerExpiry ctx i) s = .next u)) ∧
  (∀ (s : State) (ctx c : Nat) (x : Context), s.ctx? ctx = some x → x.inSlice = true → x.sliceAt + descSlice x.desc ≤ s.cycle →
    (∃ y ∈ s.sharers ctx x, y.1 ≠ ctx) →
    let s1 := s.modCtx ctx (fun y => { y with served := y.served + (s.cycle - y.sliceAt), sliceAt := s.cycle })
    s1.nextSharer ctx x = some c →
    (c = ctx → exec (.sliceEnd ctx) s = .next s1) ∧
    (c ≠ ctx → ∀ t, State.slicePacks ((s.packs.filter (fun p => p.ctx == ctx && p.status == .running)).map (fun p => p.id)) s1 = .ok t →
      exec (.sliceEnd ctx) s = .next ((t.modCtx ctx (fun y => { y with inSlice := false })).startSlice c)) ∧
    (c ≠ ctx → (∀ p ∈ s.packs, p.ctx = ctx → p.status ≠ .running) →
      exec (.sliceEnd ctx) s = .next ((s1.modCtx ctx (fun y => { y with inSlice := false })).startSlice c))) ∧
  (∀ (s t : State) (pack t0 i : Nat) (p : Pack) (x : Context) (w : Warp), s.pack? pack = some p → s.ctx? p.ctx = some x →
    p.preempt = some t0 → p.status = .running → p.deferralOver = false → p.midPair = false → t0 + descTimeout x.desc ≤ s.cycle →
    (p.supervised = true → p.warps.find? (fun v => v.live != 0 && v.level == .supervisor) = some w →
      exec (.timeout pack) s = .next (s.raiseHalt p.ctx (raiseRec p w .superCause (causeCode .timeout) w.pc))) ∧
    (p.supervised = false → p.unheld = some (i, w) → ∀ u q, s.takeTrap pack i w .timeout w.pc 0 0 false = .ok u →
      (u.modPack pack (fun q => { q with timedOut := true, preempt := some s.cycle })).pack? pack = some q →
      (u.modPack pack (fun q => { q with timedOut := true, preempt := some s.cycle })).preemptPack q = .ok t →
      exec (.timeout pack) s = .next t)))

/-! ## Events: links -/

/-- Send allowance, ports, and requests without an answer (R309, R396, R397, R399, R401). Units that return raise an UP peer's
allowance, never above 1,023, and change nothing for another peer. An enabled port comes up, and starts negotiation with the
valid peers that it reaches and that are DOWN or LOST. A port goes down, and the event may name peers that no other port's link
reaches any more: requests take other ports that reach their peers, and a peer that none reaches any more is lost. A request
that REQTO has passed goes out again, counted; after 8 reissues, or with no port, its peer is lost. One that was answered RETRY
goes out again under its tag, on its block's port, and its reissues count from zero; a plain request is never answered so. A
peer's capabilities make it UP with the lesser of each version. Requests of peers (R396, R398, R399). A request of more than 256
bytes is none. Otherwise the tags whose replies the sender holds leave the reply cache. A request of class 1 to 3 that the cache
then holds is not performed again: the stored reply answers it. Where the cache is full, RETRY answers a new one and it is
counted. Otherwise the request is served in the context of its fabric context number, and the answer is kept unless the class is
0: a read returns the bytes, and a write performs them, where no migrating page keeps it waiting; with no such context the
answer is FABRIC. Which peers a port reaches is an operand, as log 53 reads it; the allowance of a peer that becomes UP is
presumed (log 52); STEP at the first port (log 48), what is repeated and what is no request (log 82), and which context a number
names (log 83) are the model's readings. -/
def Obligations.LinkEvents : Prop :=
  ((∀ (s : State) (peer : BitVec 10) (units : Nat),
    (peerState (s.peer peer.toNat) = 2 → exec (.allowanceReturn peer units) s = .next ((s.setPeer peer.toNat
      { s.peer peer.toNat with allow := min 1023 ((s.peer peer.toNat).allow + units) }).readyHeads)) ∧
    (peerState (s.peer peer.toNat) ≠ 2 → exec (.allowanceReturn peer units) s = .next s)) ∧
  (∀ (s : State) (port : BitVec 4) (reach : List (BitVec 10)), s.mgmt.portEn.getLsbD port.toNat = true → s.mgmt.ready = true →
    ∃ t, exec (.portUp { port := port, reach := reach }) s = .next t ∧ t.mgmt.portUp = s.mgmt.portUp ||| (1#16 <<< port.toNat) ∧ SameMemory s t ∧
      (s.mgmt.step = 6 → t.mgmt.step = 7) ∧
      ∀ q : BitVec 10, let e := s.peer q.toNat
        (t.peer q.toNat).entry = if q ∈ reach ∧ peerValid e = true ∧ (peerState e = 0 ∨ peerState e = 3) then withPeerState e.entry 1
          else e.entry) ∧
  (∀ (s : State) (port : BitVec 4) (far : List (BitVec 10)),
    let m : Mgmt := { s.mgmt with portUp := s.mgmt.portUp &&& ~~~(1#16 <<< port.toNat) }
    let s0 : State := { s with mgmt := m, peers := s.peers.map (fun p =>
      (p.1, if (far.map BitVec.toNat).contains p.1 then { p.2 with reach := 0 } else p.2)) }
    let s1 := s.requests.foldl (fun t r => t.reroute r) s0
    let lost := (s.peers.filter (fun p => s.mgmt.ports p.2 != [] && m.ports (s0.peer p.1) == [])).map (fun p => p.1)
    (lost = [] → exec (.portDown port far) s = .next s1) ∧
    (∀ t, State.losePeers lost s1 = .ok t → exec (.portDown port far) s = .next t)) ∧
  (∀ (s : State) (req port : Nat) (r : Request), s.requests.find? (fun r => r.id == req) = some r →
    (r.tries < 8 → port ∈ s.mgmt.ports (s.peer r.peer) →
      exec (.requestReissue req port) s = .next ({ s with requests := s.requests.map (fun (q : Request) =>
        if q.id = req then { q with tries := q.tries + 1, port := port } else q) }.bumpRas 0x3040)) ∧
    (r.tries < 8 → port ∉ s.mgmt.ports (s.peer r.peer) → s.mgmt.ports (s.peer r.peer) ≠ [] → exec (.requestReissue req port) s = .next s) ∧
    (8 ≤ r.tries ∨ s.mgmt.ports (s.peer r.peer) = [] → ∀ t, s.losePeer r.peer = .ok t → exec (.requestReissue req port) s = .next t) ∧
    (8 ≤ r.tries ∨ s.mgmt.ports (s.peer r.peer) = [] → s.colls = [] → ∃ t, exec (.requestReissue req port) s = .next t ∧ (t.peer r.peer).gone = true)) ∧
  (∀ (s : State) (req : Nat), s.requests.find? (fun r => r.id == req) = none →
    (∀ port, exec (.requestReissue req port) s = .next s) ∧ exec (.retryReissue req) s = .next s) ∧
  (∀ (s : State) (req : Nat) (r : Request), s.requests.find? (fun r => r.id == req) = some r →
    let e := s.peer r.peer
    let ports := s.mgmt.ports e
    (r.cls = .plain → exec (.retryReissue req) s = .next s) ∧
    (r.cls ≠ .plain → ports ≠ [] → ∃ port, port ∈ ports ∧ (Map.get 16 e.ports (r.va / 256) ∈ ports → port = Map.get 16 e.ports (r.va / 256)) ∧
      exec (.retryReissue req) s = .next ({ s with requests := s.requests.map (fun (q : Request) =>
        if q.id = req then { q with tries := 0, port := port } else q) }.setPeer r.peer { e with ports := Map.set 16 e.ports (r.va / 256) port })) ∧
    (r.cls ≠ .plain → ports = [] → (∀ t, s.losePeer r.peer = .ok t → exec (.retryReissue req) s = .next t) ∧
      (s.colls = [] → ∃ t, exec (.retryReissue req) s = .next t ∧ (t.peer r.peer).gone = true))) ∧
  (∀ (s : State) (port : BitVec 4), s.mgmt.portUp.getLsbD port.toNat = true → exec (.dlReplay port) s = .next (s.bumpRas 0x3038)) ∧
  (∀ (s : State) (peer : BitVec 10) (proto recv : BitVec 8) (decode nmcv : BitVec 4) (coll : Bool),
    let e := s.peer peer.toNat
    let up : Peer := { e with
      entry := peerEntry true 2 (entryFabid e.entry) (min 2 proto.toNat) decode.toNat (min 1 nmcv.toNat) (min 2 recv.toNat) coll
      allow := if peerState e = 2 then e.allow else 1023 }
    let s1 := (s.setPeer peer.toNat up).readyHeads
    peerValid e = true → (peerState e = 1 ∨ peerState e = 2) →
    (∀ t, s1.settleSteps = .ok t → exec (.peerCapabilities peer proto decode nmcv recv coll) s = .next t) ∧
    ((∀ c ∈ s1.colls, s1.collMove c = none) → exec (.peerCapabilities peer proto decode nmcv recv coll) s = .next s1))) ∧
  (∀ (s0 : State) (src : BitVec 10) (fctx : BitVec 12) (tag : BitVec 16) (cls : BitVec 2) (va : BitVec 64) (req : PeerReq)
    (old : List (BitVec 16)),
    let i : Instr := .peerRequest src fctx tag cls va req old
    let s : State := { s0 with replies := s0.replies.filter (fun r => !(r.src == src.toNat && old.contains (BitVec.ofNat 16 r.tag))) }
    let stored := s.replies.find? (fun r => r.src == src.toNat && r.tag == tag.toNat)
    let entry (a : Answer) : ReplyEntry := { src := src.toNat, tag := tag.toNat, reply := a }
    let answers (t : State) (a : Answer) : State :=
      { t with answered := some (entry a), replies := if cls = 0 then t.replies else t.replies ++ [entry a] }
    (oversize req = true → exec i s0 = .next s0) ∧
    (oversize req = false →
      (∀ r, cls ≠ 0 → stored = some r → exec i s0 = .next { s with answered := some r }) ∧
      (cls ≠ 0 → stored = none → 16384 ≤ s.replies.length →
        exec i s0 = .next ({ s with answered := some (entry .retry) }.bumpRas 0x3048)) ∧
      ((cls = 0 ∨ stored = none ∧ s.replies.length < 16384) →
        (s.byFctx fctx.toNat = none → exec i s0 = .next (answers s .fabric)) ∧
        (∀ c x, s.byFctx fctx.toNat = some (c, x) →
          (∀ t a, s.serve c x va.toNat req = .ok (some (t, a)) → exec i s0 = .next (answers t a)) ∧
          (∀ n ps, req = .read n → s.servePlaces x .load va.toNat n = .ok (some ps) → s.atomicHeldAt ps = false →
            exec i s0 = .next (answers (s.detect ps) (if ps.any s.homeBad then .poison else .data (ps.map s.homeByte)))) ∧
          (∀ bs ps, req = .write bs → s.servePlaces x .store va.toNat bs.length = .ok (some ps) →
            s.noRoom x (wholeBytes va.toNat ps bs) = false →
            exec i s0 = .next (answers (s.performBytes c (wholeBytes va.toNat ps bs)) (.data [])))))))

/-! ## Events: halts -/

/-- A halt (R375 to R377, R391, R395). A message that reaches a unit marks it, and the context's warps leave the peers' queues;
a unit that it has reached stops, but a core not between the packets of a latched pair (R70); once all have stopped and nothing
drains, the packs' records, the stop records, the launches and the header are written in that order and the context is halted
(so it is with no pack, no launch and no stop record to write). An uncorrectable error in a pack that cannot start again, or in
a wave that has made a side effect, holds the warp and raises the halt line with SOURCE UE. The loss of the die link raises it
in every context and sets FATAL. A `tlbinv` is acknowledged once no older request is left in an egress queue, of a warp, of an
engine or of the read of a launch packet. What is performed while a halt settles is read as log 58 says, and the restart address
in the record of an uncorrectable error as log 86. -/
def Obligations.HaltEvents : Prop :=
  (∀ (s : State) (c i : Nat) (x : Context) (us : List HaltUnit) (rs : List RaiseRec), c < s.contexts.length → s.ctx? c = some x →
    x.halt = .raised us rs →
    (∃ t, exec (.haltMessageArrival c i) s = .next t ∧ t.ctx? c = some { x with halt := .raised (us.modify i (fun u =>
      if u.arrived = true then u else { u with arrived := true, since := s.cycle })) rs }) ∧
    (let stops (u : HaltUnit) : HaltUnit :=
      if u.arrived = true ∧ u.stopped = false ∧ ¬(u.kind = 0 ∧ s.pairOn c u.place = true) then
        { u with stopped := true, skid := s.cycle - u.since } else u
     ∃ t, exec (.unitStop c i) s = .next t ∧ SameMemory s t ∧ t.ctx? c = some { x with halt := .raised (us.modify i stops) rs }) ∧
    ((∃ u ∈ us, u.stopped = false) → exec (.haltSettle c) s = .next s) ∧
    ((∀ u ∈ us, u.stopped = true) → (∀ r ∈ rs, r.source ≠ .host) → s.residentPacks c = [] → x.launches = [] →
      us = [] ∨ descStopSize x.desc < 64 → Claims.walkable s →
      ∃ t y, exec (.haltSettle c) s = .next t ∧ t.ctx? c = some y ∧ y.halt = .halted) ∧
    ((∀ u ∈ us, u.stopped = true) → s.draining c = false → (∀ r ∈ rs, r.source ≠ .host) → ∀ lost done dropped s1 s2 s4 s5,
      let ids := (s.residentPacks c).map (fun p => p.id)
      State.haltRecords c ids 0 (State.haltSlots c ids (s.haltCopies c)) = .ok (lost, s1) →
      State.stopRecords c rs us 0 0 s1 = .ok (done, dropped, s2) →
      State.endLaunches c 5 x.launches ((s2.dropPacks ids).dropCommands c) = .ok s4 → s4.stopHeader c x done (lost + dropped) = .ok s5 →
      exec (.haltSettle c) s = .next (s5.modCtx c (fun y => { y with halt := .halted })))) ∧
  (∀ (s : State) (pack warp : Nat) (p : Pack) (w : Warp), s.pack? pack = some p → p.status = .running →
    (pktIdem p.pkt = false ∨ p.wave = true) → p.cleanWave = false → p.warps[warp]? = some w →
    exec (.registerUe pack warp) s = .next (((s.countUe 0x3028).modWarp pack warp (fun u => { u with preHeld := true })).raiseHalt p.ctx
      (raiseRec p w .ue (causeCode .ue) w.pc))) ∧
  (∀ s : State, ∃ t, exec .dieLinkLost s = .next t ∧ t.mgmt.fatal = true ∧ SameMemory s t ∧
    ∀ c x, c < 16 → s.ctx? c = some x → x.halt = .clear → ∃ us r, r.source = .ue ∧ t.ctx? c = some { x with halt := .raised us [r] }) ∧
  (∀ (s : State) (c : Nat) (x : Context), s.ctx? c = some x → x.ackEpoch ≠ x.epoch →
    (∀ p ∈ s.packs, p.ctx = c → ∀ w ∈ p.warps, ∀ f ∈ w.flight, f.epoch = x.epoch ∨ s.egress x w f = false) →
    (∀ r ∈ s.requests, r.fctx = BitVec.ofNat 12 (descFctx x.desc) → r.id < x.invSeq →
      ∃ pid wi, r.owner = .warp pid wi ∧ ∀ w, Claims.warpAt s pid wi = some w → ∀ l, w.launchRead = some l → l.id ≠ r.flight) →
    exec (.tlbinvAck c) s = .next ((s.forwardHeld c).modCtx c (fun y => { y with ackEpoch := y.epoch })))

/-! ## Events: the management space -/

namespace Sys2Proof.Claims

/-- A command of the management space (R404): its number, and its arguments. -/
def commandRow : Instr → Option (Nat × BitVec 64 × BitVec 64)
  | .ctxcreate d c => some (1, d, c.setWidth 64)
  | .ctxdestroy c => some (2, 0, c.setWidth 64)
  | .ctxclear c => some (3, 0, c.setWidth 64)
  | .hostevSet c g m => some (4, m, BitVec.ofNat 64 (c.toNat + g.toNat * 2 ^ 8 + 2 ^ 12))
  | .hostevClear c g m => some (4, m, BitVec.ofNat 64 (c.toNat + g.toNat * 2 ^ 8))
  | .dma d => some (5, d, 0)
  | .freeze => some (6, 0, 0)
  | .attest n r => some (7, n, r)
  | _ => none

end Sys2Proof.Claims

/-- The commands of the management space (R404, R406, R407, R409, R413, R415). A command given while another is busy, or before
step 6 of bring-up, is ignored; otherwise MCMD, MARG0 and MARG1 hold it and it is carried out: CTXCREATE of a free context with
a partition that agrees with the others' copies the descriptor from local memory; CTXCLEAR of a halted context takes its halt
away, CTXDESTROY removes it, and of a context that runs raises its halt and is busy until then; HOSTEV sets or clears its
events; DMA starts a transfer; FREEZE clears the secrets and stops the clocks; ATTEST, until then, writes its report to host
memory. A command that names a context which does not exist is refused, or its argument is bad. The results of commands on
contexts that do not exist are read as log 54 says, and that of ATTEST once the secrets are cleared as log 55. -/
def Obligations.Commands : Prop :=
  (∀ (i : Instr) (s : State) (op : Nat) (a0 a1 : BitVec 64), Claims.commandRow i = some (op, a0, a1) →
    (s.mgmt.busy = true ∨ s.mgmt.ready = false → exec i s = .next s) ∧
    (s.mgmt.busy = false → s.mgmt.ready = true → ∃ t, exec i s = .next t ∧ t.mgmt.mcmd = BitVec.ofNat 8 op ∧ t.mgmt.marg0 = a0 ∧ t.mgmt.marg1 = a1)) ∧
  (∀ s : State, s.mgmt.busy = false → s.mgmt.ready = true → s.mgmt.frozen = false →
    (∀ (addr : BitVec 64) (c : BitVec 4), addr.toNat % 64 = 0 → addr.toNat + 256 ≤ Config.dramEnd → c.toNat < s.contexts.length →
      let d : BitVec 2048 := recOf 2048 (bytesAt s.dram.read addr.toNat 256)
      descPart d ≠ 0 → s.ctx? c.toNat = none → s.partitionOk d = true →
      ∃ t x, exec (.ctxcreate addr c) s = .next t ∧ t.ctx? c.toNat = some x ∧ x.desc = d ∧ x.halt = .clear ∧ x.launches = [] ∧
        t.mgmt.result = 0 ∧ SameMemory s t) ∧
    (∀ (c : BitVec 4) (x : Context), s.ctx? c.toNat = some x → x.halt = .halted → c.toNat < s.contexts.length →
      (∃ t y, exec (.ctxclear c) s = .next t ∧ t.ctx? c.toNat = some y ∧ y.halt = .clear ∧ y.hseq = x.hseq + 1 ∧ y.kennels = [] ∧
        y.overflow = [] ∧ t.mgmt.result = 0) ∧
      (∃ t, exec (.ctxdestroy c) s = .next t ∧ t.ctx? c.toNat = none ∧ t.mgmt.result = 0)) ∧
    (∀ (c : BitVec 4) (x : Context), s.ctx? c.toNat = some x → x.halt = .clear →
      ∃ t us r, exec (.ctxdestroy c) s = .next t ∧ t.ctx? c.toNat = some { x with halt := .raised us [r] } ∧ r.source = .host ∧
        t.mgmt.busy = true ∧ t.mgmt.result = 1) ∧
    (∀ (c : BitVec 4) (g : BitVec 2) (m : BitVec 64) (x : Context), s.ctx? c.toNat = some x → c.toNat < s.contexts.length →
      let mask : BitVec 256 := m.setWidth 256 <<< (64 * g.toNat)
      (∃ t y, exec (.hostevSet c g m) s = .next t ∧ t.ctx? c.toNat = some y ∧ y.events = x.events ||| mask ∧ SameMemory s t) ∧
      (∃ t y, exec (.hostevClear c g m) s = .next t ∧ t.ctx? c.toNat = some y ∧ y.events = x.events &&& ~~~mask ∧ SameMemory s t)) ∧
    (∀ c : BitVec 4, s.ctx? c.toNat = none → ∃ t, exec (.ctxclear c) s = .next t ∧ t.mgmt.result = 3 ∧ SameMemory s t) ∧
    (∀ addr : BitVec 64, let bs := s.hostBytes addr.toNat 32
      let len := leNat ((bs.drop 16).take 4)
      let loc := leNat ((bs.drop 8).take 8)
      len ≠ 0 → len % 256 = 0 → len ≤ 2 ^ 30 → loc + len ≤ Config.dramEnd →
      ∃ t d, exec (.dma addr) s = .next t ∧ t.mgmt.dmas = s.mgmt.dmas ++ [d] ∧ d.host = leNat (bs.take 8) ∧ d.loc = loc ∧ d.len = len ∧
        t.mgmt.result = 0 ∧ SameMemory s t) ∧
    (∃ t, exec .freeze s = .next t ∧ t.mgmt.frozen = true ∧ t.mgmt.secrets = false ∧ t.mgmt.result = 0 ∧ SameMemory s t) ∧
    (∀ n r : BitVec 64, s.mgmt.secrets = true → ∃ t, exec (.attest n r) s = .next t ∧ t.mgmt.result = 0 ∧ t.dram = s.dram ∧
      ∀ a, (a < r.toNat ∨ r.toNat + 512 ≤ a) → t.hostMem.read a = s.hostMem.read a)) ∧
  (∀ (s : State) (n r : BitVec 64), s.mgmt.busy = false → s.mgmt.ready = true → s.mgmt.secrets = false →
    ∃ t, exec (.attest n r) s = .next t ∧ t.mgmt.result = 3 ∧ SameMemory s t)

/-- Submission channels, DMA and the event ring (R405, R408, R409). CHWR advances WR, but a value that would overrun the ring or
move it back is ignored and sets OVR; CHCTL and CHBASE are written only while WR = RD; a 1 written to CHSTAT clears its bit. A
finished DMA from the host leaves its bytes in local memory and no other byte of it changed; one to the host leaves local memory
as it was, and its bytes in host memory, where the event record may follow them. EVRRD takes a value that does not pass EVRWR.
The low bits that a write of CHBASE drops, and the bounds of LOG2N, are read as log 56 says. -/
def Obligations.ChannelEvents : Prop :=
  (∀ (s : State) (c : BitVec 6) (val : BitVec 64), s.mgmt.ready = true →
    let x := s.channel c.toNat
    let new : BitVec 32 := val.setWidth 32
    let bad := 2 ^ x.log2n < (new - x.rd).toNat ∨ (new - x.rd).toNat < (x.wr - x.rd).toNat
    (¬bad → exec (.chwrWrite c val) s = .next (s.setChannel c.toNat { x with wr := new })) ∧
    (bad → exec (.chwrWrite c val) s = .next (s.setChannel c.toNat { x with stat := x.stat ||| 1 })) ∧
    exec (.chstatWrite c val) s = .next (s.setChannel c.toNat { x with stat := x.stat &&& ~~~(val.setWidth 2) }) ∧
    (x.wr = x.rd → exec (.chctlWrite c val) s = .next (s.setChannel c.toNat { x with ctl := val &&& 0x3F0F })) ∧
    (x.wr ≠ x.rd → exec (.chctlWrite c val) s = .next s) ∧
    (x.wr = x.rd → exec (.chbaseWrite c val) s = .next (s.setChannel c.toNat { x with base := val &&& ~~~(0xFF#64) })) ∧
    (x.wr ≠ x.rd → exec (.chbaseWrite c val) s = .next s)) ∧
  (∀ (s : State) (i : Nat) (d : Dma), s.mgmt.dmas[i]? = some d →
    ∃ t, exec (.dmaComplete i) s = .next t ∧ t.mgmt.dmas = s.mgmt.dmas.eraseIdx i ∧
      (d.toPart = true → ∀ a, t.dram.read a = if d.loc ≤ a ∧ a < d.loc + d.len then s.hostMem.read (d.host + (a - d.loc)) else s.dram.read a) ∧
      (d.toPart = false → t.dram = s.dram ∧ (s.mgmt.ringOpen = false → ∀ a, t.hostMem.read a =
        if d.host ≤ a ∧ a < d.host + d.len then s.homeByte (.dram (d.loc + (a - d.host))) else s.hostMem.read a))) ∧
  (∀ (s : State) (val : BitVec 64), s.mgmt.ready = true → s.mgmt.evheld = [] →
    let new : BitVec 32 := val.setWidth 32
    ((new - s.mgmt.evrrd).toNat ≤ (s.mgmt.evrwr - s.mgmt.evrrd).toNat →
      exec (.evrrdWrite val) s = .next { s with mgmt := { s.mgmt with evrrd := new } }) ∧
    ((s.mgmt.evrwr - s.mgmt.evrrd).toNat < (new - s.mgmt.evrrd).toNat → exec (.evrrdWrite val) s = .next s))

/-- Registers of the management space (R397, R400, R401, R404, R405, R409 to R413). A read of CERTDATA returns 8 bytes of the
chain and advances CERTSEL; one of SCANDATA returns 0 until the secrets are cleared, and then advances; past a chain's end both
return 0. A write clears a RAS counter. Setting VALID of a peer entry starts negotiation; clearing it leaves FABID alone.
CERTSEL and SCANSEL may be written at any time, the other registers from step 6 on: MARG0, MARG1, EVRBASE (4 KiB aligned),
EVRLOG2, PWRLIM, which is held between 800 and 3,200, and BUDGET, which EBUDGET never passes, change as written and nothing else
does; PORTCFG takes down the ports that it disables; MCMD gives the command of its number with the arguments in MARG0 and MARG1;
a read-only register keeps its value. The power loop sets its readings and an EBUDGET never above BUDGET; an overdraw halves it.
RESET stops bring-up with code 1 where the boot ROM refuses the firmware image, and with its code where another failure occurs;
otherwise the part reaches step 6 and is ready. It has no context then, and its memory is as it was. That RESET keeps memory is
the model's reading (log 77), the order of SCANDATA that of log 55, and the fields that a register or a cleared peer entry keeps
that of log 56. -/
def Obligations.RegisterEvents : Prop :=
  (∀ s : State, ∃ x : BitVec 64, exec .certdataRead s = .next { s with mgmt := { s.mgmt with certsel := s.mgmt.certsel + 8, rdata := x } } ∧
    ∀ i, i < 8 → let a := s.mgmt.certsel.toNat + i
      x.extractLsb' (8 * i) 8 = if a < Config.certLen then Config.certByte a else 0) ∧
  (∀ s : State, s.mgmt.secrets = true → exec .scandataRead s = .next { s with mgmt := { s.mgmt with rdata := 0 } }) ∧
  (∀ s : State, s.mgmt.secrets = false → exec .scandataRead s = .next { s with mgmt := { s.mgmt with
    scanpos := s.mgmt.scanpos + 1
    rdata := if Config.scanLength s.mgmt.scansel ≤ s.mgmt.scanpos then 0 else Config.scanWord s.mgmt.scansel s.mgmt.scanpos } }) ∧
  (∀ (s : State) (off : BitVec 16) (val : BitVec 64), s.mgmt.ready = true → off.toNat ∈ rasOffsets →
    exec (.rasCounterWrite off val) s = .next (s.setRas off.toNat 0) ∧ Map.get 0 (s.setRas off.toNat 0).mgmt.ras off.toNat = 0) ∧
  (∀ (s : State) (p : BitVec 10) (val : BitVec 64), s.mgmt.ready = true →
    let fab := val.toNat / 2 ^ 30 % 1024
    ∃ t, exec (.peerEntryWrite p val) s = .next t ∧ SameMemory s t ∧ (∀ q, q ≠ p.toNat → t.peer q = s.peer q) ∧
      (val.getLsbD 63 = true → peerValid (s.peer p.toNat) = false → (t.peer p.toNat).entry = peerEntry true 1 fab 0 0 0 0 false ∧
        (t.peer p.toNat).allow = 0) ∧
      (val.getLsbD 63 = false → (t.peer p.toNat).entry = peerEntry false 0 fab 0 0 0 0 false ∧ (t.peer p.toNat).allow = 0)) ∧
  (∀ (s : State) (val : BitVec 64),
    let m := s.mgmt
    let write (off : BitVec 16) (n : Mgmt) : Prop := exec (.mgmtRegisterWrite off val) s = .next { s with mgmt := n }
    let low : BitVec 32 := val.setWidth 32
    write 0x0010 { m with certsel := val &&& ~~~(7#64) } ∧ write 0x8000 { m with scansel := val.setWidth 8, scanpos := 0 } ∧
    (m.ready = false → ∀ off, off ≠ 0x0010 → off ≠ 0x8000 → write off m) ∧
    (m.ready = true →
      write 0x0108 { m with marg0 := val } ∧ write 0x0110 { m with marg1 := val } ∧ write 0x0200 { m with evrbase := val &&& ~~~(0xFFF#64) } ∧
      (m.evheld = [] → write 0x0208 { m with evrlog2 := val.setWidth 5 }) ∧
      write 0x2000 { m with pwrlim := BitVec.ofNat 32 (min 3200 (max 800 (val.toNat % 2 ^ 32))) } ∧
      (∃ t, exec (.mgmtRegisterWrite 0x2008 val) s = .next t ∧ t.mgmt.budget = low ∧ t.dram = s.dram ∧
        t.mgmt.ebudget = if m.ebudget = m.budget ∨ low.toNat ≤ m.ebudget.toNat then low else m.ebudget) ∧
      (∀ off ∈ [0x0000, 0x0008, 0x0018, 0x0020, 0x0118, 0x0210, 0x0308, 0x2010, 0x2018, 0x2020, 0x2028, 0x2030, 0x2038, 0x8008],
        write off m) ∧
      (∀ i op, Claims.commandRow i = some (op, m.marg0, m.marg1) → val.toNat % 256 = op → exec (.mgmtRegisterWrite 0x0100 val) s = exec i s) ∧
      (let en : BitVec 16 := val.extractLsb' 32 16
       let s0 : State := { s with mgmt := { m with portEn := en, reqto := val.setWidth 16, portUp := m.portUp &&& en } }
       let s1 := s0.requests.foldl (fun t r => t.reroute r) s0
       let lost := (s.peers.filter (fun p => m.ports p.2 != [] && s0.mgmt.ports (s0.peer p.1) == [])).map (fun p => p.1)
       (lost = [] → exec (.mgmtRegisterWrite 0x0300 val) s = .next s1) ∧
       (∀ t, State.losePeers lost s1 = .ok t → exec (.mgmtRegisterWrite 0x0300 val) s = .next t)))) ∧
  (∀ (s : State) (a b c d e : BitVec 32) (temp : BitVec 16), ∃ t, exec (.powerLoop a b c d temp e) s = .next t ∧ t.dram = s.dram ∧
    t.mgmt.pkgpw = a ∧ t.mgmt.diepw = c ++ b ∧ t.mgmt.hbmpw = d ∧ t.mgmt.temp = temp ∧ t.mgmt.budget = s.mgmt.budget ∧
    t.mgmt.ebudget = (if s.mgmt.budget.toNat ≤ e.toNat then s.mgmt.budget else e)) ∧
  (∀ s : State, s.mgmt.ebudget.toNat ≤ s.mgmt.budget.toNat → ∃ t, exec .powerOverdraw s = .next t ∧ t.dram = s.dram ∧
    t.mgmt.budget = s.mgmt.budget ∧ t.mgmt.ebudget.toNat ≤ s.mgmt.ebudget.toNat ∧
    (1 ≤ s.mgmt.budget.toNat → t.mgmt.ebudget.toNat = s.mgmt.ebudget.toNat / 2)) ∧
  (∀ (s : State) (f : BitVec 3), ∃ t, exec (.reset f) s = .next t ∧
    t.mgmt.code = (if s.mgmt.firmware.accepted = false then 1 else if 2 ≤ f.toNat ∧ f.toNat ≤ 5 then f.toNat else 0) ∧
    (t.mgmt.ready = true ↔ t.mgmt.code = 0) ∧ t.mgmt.step = (if t.mgmt.code = 0 then 6 else t.mgmt.code) ∧
    t.mgmt.frozen = false ∧ t.mgmt.portEn = 0xFFFF ∧ t.mgmt.reqto = 50 ∧ t.mgmt.pwrlim = 3200 ∧
    t.packs = [] ∧ (∀ c, t.ctx? c = none) ∧ t.dram = s.dram ∧ t.hostMem = s.hostMem)

/-! ## Tile arithmetic -/

namespace Sys2Proof.Claims

/-- A finite scale of a group (R94, R110): absent, E8M0 or FP16. -/
def scaleNum (sfmt x : Nat) : Int := if sfmt = 0 then 1 else if sfmt = 1 then 2 ^ (x % 256) else units fp16 x
def scaleDen (sfmt : Nat) : Nat := if sfmt = 0 then 0 else if sfmt = 1 then 127 else 24
def scaleOk (sfmt x : Nat) : Bool := if sfmt = 0 then true else if sfmt = 1 then x % 256 != 255 else finite fp16 x

/-- A byte of a pack's window, and element `i` of an array there whose elements are `half` half bytes wide. -/
def inWindow (p : Pack) (o : Nat) : Place := .scratch p.core (p.scrBase + o)
def code (s : State) (p : Pack) (base half i : Nat) : Nat :=
  if half = 1 then (s.readPlace (inWindow p (base + i / 2))).toNat / 16 ^ (i % 2) % 16
  else leNat ((List.range (half / 2)).map (fun k => s.readPlace (inWindow p (base + i * (half / 2) + k))))

/-- `acc` becomes `acc'` by the addition of `P / 2^j` with one rounding (R113, R114, R117). -/
def chunkStep (mode : Mode) (P : Int) (j acc acc' : Nat) : Prop :=
  let N := units fp32 acc * 2 ^ j + P * 2 ^ 149
  (finite fp32 acc = true → (N ≠ 0 → ∃ fl, gives fp32 mode N j (acc', fl)) ∧ (N = 0 → acc' = 0)) ∧
  (infinite fp32 acc = true → acc' = acc) ∧ (notNumber fp32 acc = true → acc' = 0x7FC00000)

/-- The rounding of `n / 2^149` in units of the smallest subnormal, a zero having the sign given. -/
def rounded (n : Int) (neg : Bool) (y : Nat) : Prop :=
  (n ≠ 0 → ∃ fl, gives fp32 .rne n 149 (y, fl)) ∧ (n = 0 → y = fp32.sign neg)

/-- The sum of two components, half of it where the layer scales (R352). -/
def sumOf (half : Bool) (x y r : Nat) : Prop :=
  let n := units fp32 x + units fp32 y
  (n ≠ 0 → ∃ fl, gives fp32 .rne n (if half then 1 else 0) (r, fl)) ∧
  (n = 0 → r = fp32.sign (negative fp32 x && negative fp32 y))

/-- A component with its sign reversed. -/
def flip (x : Nat) : Nat := if x < 2 ^ 31 then x + 2 ^ 31 else x - 2 ^ 31

/-- A component of a product of complex numbers: `x * c + y * d`, rounded once (R352). -/
def turned (x c y d r : Nat) : Prop :=
  let n := units fp32 x * units fp32 c + units fp32 y * units fp32 d
  (n ≠ 0 → ∃ fl, gives fp32 .rne n 149 (r, fl)) ∧ (n = 0 → r % 2 ^ 31 = 0)

/-- Where word `i` of a tile lies for a move (R347): the base of its array, and its index there. -/
def moved (c : MatCmd) (i : Nat) : Nat × Nat :=
  if mvShape c.ctl = 3 then (c.a.toNat, i)
  else (c.a.toNat + i / shapeN (mvShape c.ctl) * mvPitch c.ctl, i % shapeN (mvShape c.ctl))

end Sys2Proof.Claims

/-- A step of `mloop` or `mstep` (R113 to R117, R331, R332, R334). The first step begins with zeros where ACC = 0 or the tile is
CLEAN. With two unscaled integer operands each word gains the exact sum of the products of its row and column, modulo 2^32.
Otherwise each word takes the chunks of its row and column in turn, of L elements: the exact sum of the products of the elements
less their zero points, times the two scales, is added with one rounding, to nearest under NBV 2 and towards zero under NBV 1; a
NaN stays. This is said of finite elements and scales. A poisoned byte of an element poisons the words of its row or column.
Tile moves (R347 to R349). `mtld`: a word becomes its element, an integer with its sign and a floating number exactly, its NaN
the canonical one; a word that is not moved becomes +0; the tile holds no T. `mtst`: a finite word times the tile's T, 1.0 where
it has none, is rounded to nearest and then narrowed, one of an INT32 tile is saturated; each element is stored at its place, no
other byte changes, and the words stay. This is said of spans whose rows do not overlap. A stage of `mfft` (R350 to R353), of
radix 2, on rows whose words are finite. Of each block of L points and each j below m = L/2, the points at j and j + m become
their sum and their difference, halved where the plan scales; the difference, where j is not 0, is turned by exp(∓2πi j/L), as
R346's table has it. The first stage of a plan with IORD reads its points in digit-reversed order, and the last of one without
OORD leaves them so. Words of other rows stay. A stage of radix 4 turns the points 0, 1, 0, 0 into 1, -i, -1, i, and one of
radix 8 the points 0, 1, 0, ... into the eighth roots of one. -/
def Obligations.TileArithmetic : Prop :=
  (∀ (s : State) (p : Pack) (x : Context) (c : MatCmd) (t : TileState), c.op = .mloop ∨ c.op = .mstep → c.stepsDone < c.steps →
    let st := c.stepsDone
    let u := (s.stepTile p x c t).2
    let K := mcKstep c.ctl
    let N := shapeN (mcShape c.ctl)
    let blk (f : BitVec 128) : Nat := if fbBlen f = 0 then 0 else 8 * 2 ^ fbBlen f
    let L := if pktNbv p.pkt = 1 then 16 else if blk c.fA = 0 then (if blk c.fB = 0 then 32 else blk c.fB)
      else if blk c.fB = 0 then blk c.fA else min (blk c.fA) (blk c.fB)
    let f (b : Bool) : BitVec 128 := if b then c.fB else c.fA
    let rows (b : Bool) : Nat := if b then N else shapeM (mcShape c.ctl)
    let base (b : Bool) : Nat := ((if b then c.b else c.a).toNat + st * (if b then c.b1 else c.a1).toNat) % 2 ^ 64
    let half (b : Bool) : Nat := encBits (fbEnc (f b)) / 4
    let el (b : Bool) (r k : Nat) : Nat := Claims.code s p (base b) (half b) (r * K + k)
    let group (b : Bool) (r q : Nat) : Nat := (st * rows b + r) * (K / blk (f b)) + q * L / blk (f b)
    let scale (b : Bool) (r q : Nat) : Nat :=
      Claims.code s p (fbScl (f b)) (2 * fbScaleBytes (f b)) (group b r q)
    let zero (b : Bool) (r q : Nat) : Int :=
      if fbHasZp (f b) = true ∧ Claims.integral (fbEnc (f b)) = true then
        Claims.integer 6 (Claims.code s p (fbZp (f b)) 2 (group b r q)) else 0
    let start (i : Nat) : Nat := if st = 0 ∧ (mcAcc c.ctl = 0 ∨ t.kind = 0) then 0 else t.word i
    (∀ b, (Claims.formatOf (fbEnc (f b))).isSome ∨ Claims.integral (fbEnc (f b)) = true) → ∀ m n, m < rows false → n < N →
    let i := m * N + n
    let row (b : Bool) : Nat := if b then n else m
    let sum (q : Nat) : Int := ((List.range L).map (fun k =>
      (Claims.elemNum (fbEnc c.fA) (el false m (q * L + k)) - zero false m q) *
      (Claims.elemNum (fbEnc c.fB) (el true n (q * L + k)) - zero true n q))).sum
    (fbSfmt c.fA = 0 ∧ fbSfmt c.fB = 0 ∧ Claims.integral (fbEnc c.fA) = true ∧ Claims.integral (fbEnc c.fB) = true →
      fbHasZp c.fA = false → fbHasZp c.fB = false → (u.word i : Int) = (start i + ((List.range (K / L)).map sum).sum) % 2 ^ 32) ∧
    (¬(fbSfmt c.fA = 0 ∧ fbSfmt c.fB = 0 ∧ Claims.integral (fbEnc c.fA) = true ∧ Claims.integral (fbEnc c.fB) = true) →
      (∀ b k, k < K → Claims.elemOk (fbEnc (f b)) (el b (row b) k) = true) →
      (∀ b q, q < K / L → Claims.scaleOk (fbSfmt (f b)) (scale b (row b) q) = true) →
      ∃ acc : Nat → Nat, acc 0 = start i ∧ acc (K / L) = u.word i ∧ ∀ q, q < K / L →
        Claims.chunkStep (if pktNbv p.pkt = 1 then .rtz else .rne)
          (sum q * Claims.scaleNum (fbSfmt c.fA) (scale false m q) * Claims.scaleNum (fbSfmt c.fB) (scale true n q))
          (Claims.elemDen (fbEnc c.fA) + Claims.elemDen (fbEnc c.fB) + Claims.scaleDen (fbSfmt c.fA) + Claims.scaleDen (fbSfmt c.fB))
          (acc q) (acc (q + 1))) ∧
    (K % L = 0 → ∀ b k, k < K → s.badPlace (Claims.inWindow p (base b + (row b * K + k) * half b / 2)) = true → u.bad i = true)) ∧
  (∀ (s : State) (p : Pack) (x : Context) (c : MatCmd) (t : TileState),
    let enc := if mvEnc c.ctl = 11 then 0 else mvEnc c.ctl
    let half := encBits enc / 4
    let count := if mvShape c.ctl = 3 then mvCount c.ctl else 16384
    let at_ (i : Nat) : Nat × Nat := Claims.moved c i
    let neg := Claims.negative fp32
    (c.op = .mtld → let u := (s.stepTile p x c t).2
      u.tset = false ∧ ∀ i, i < 16384 →
      let e := Claims.code s p (at_ i).1 half (at_ i).2
      let w := u.word i
      (count ≤ i → w = 0) ∧ (i < count →
        (Claims.integral enc = true → u.kind = 2 ∧ w = (BitVec.ofInt 32 (Claims.integer enc e)).toNat) ∧
        (∀ f, Claims.formatOf enc = some f → u.kind = 1 ∧
          (Claims.finite f e = true → Claims.finite fp32 w = true ∧ Claims.negative f e = neg w ∧
            Claims.units fp32 w * 2 ^ (f.bias + f.mb - 1) = Claims.units f e * 2 ^ 149) ∧
          (Claims.infinite f e = true → w = fp32.sign (Claims.negative f e) + 0x7F800000) ∧
          (Claims.notNumber f e = true → w = 0x7FC00000)))) ∧
    (c.op = .mtst → mvShape c.ctl = 3 ∨ shapeN (mvShape c.ctl) * half ≤ 2 * mvPitch c.ctl → (half = 1 → count % 2 = 0) →
      let u := (s.stepTile p x c t).1
      (s.stepTile p x c t).2.words = t.words ∧
      (∀ q, (∀ a, q ≠ .host a) → (∀ i k, i < count → k < (half + 1) / 2 → q ≠ Claims.inWindow p ((at_ i).1 + (at_ i).2 * half / 2 + k)) →
        u.readPlace q = s.readPlace q) ∧
      ∀ i, i < count →
      let w := t.word i
      let g := if t.tset then t.t.toNat else 0x3F800000
      let z := Claims.code u p (at_ i).1 half (at_ i).2
      let v : Int := if w < 2 ^ 31 then w else (w : Int) - 2 ^ 32
      (enc = 12 → z = w) ∧ (enc = 6 → Claims.integer 6 z = max (-128) (min 127 v)) ∧ (enc = 7 → Claims.integer 7 z = max (-8) (min 7 v)) ∧
      (∀ f, Claims.formatOf enc = some f →
        (Claims.notNumber fp32 w = true ∨ Claims.notNumber fp32 g = true → z = f.nan) ∧
        (Claims.finite fp32 w = true → Claims.finite fp32 g = true → ∃ y,
          Claims.rounded (Claims.units fp32 w * Claims.units fp32 g) (neg w != neg g) y ∧
          (enc = 0 → z = y) ∧
          (Claims.infinite fp32 y = true → z = f.sign (neg y) + (if f.hasInf then f.infCode else f.top)) ∧
          (Claims.finite fp32 y = true → enc ≠ 0 →
            (Claims.units fp32 y ≠ 0 → ∃ fl, Claims.gives f .rne (Claims.units fp32 y) (149 - (f.bias + f.mb - 1)) (z, fl)) ∧
            (Claims.units fp32 y = 0 → z = f.sign (neg y))))))) ∧
  ((∀ (s : State) (p : Pack) (x : Context) (c : MatCmd) (t : TileState), c.op = .mfft → ffBad c.a c.a1 = false →
    let u := (s.stepTile p x c t).2
    let N := ffN c.a
    let rs := ffRadices c.a
    let st := ffFirst c.a + c.stepsDone
    let row (i : Nat) : Prop := ffFrow c.a1 ≤ i ∧ i < ffFrow c.a1 + ffRows c.a1
    u.kind = 1 ∧ u.tset = false ∧ (∀ i, i < 16384 → ¬row (i / (2 * N)) → u.word i = t.word i) ∧
    (st ≤ ffLast c.a → rs.getD (st - 1) 1 = 2 → ∀ r, row r →
      (∀ k, k < 2 * N → Claims.finite fp32 (t.word (2 * r * N + k)) = true) →
      let L := N / ((rs.take (st - 1)).foldl (fun a b => a * b) 1)
      let m := L / 2
      let half := decide (ffScale c.a ≠ 0)
      let from_ (k : Nat) : Nat := if st = 1 ∧ ffIord c.a = true then digitRev rs N k else k
      let to_ (k : Nat) : Nat := if st = rs.length ∧ ffOord c.a = false then digitRev rs N k else k
      let a (k d : Nat) : Nat := t.word (2 * (r * N + from_ k) + d)
      ∃ y : Nat → Nat → Nat, (∀ k d, k < N → d < 2 → u.word (2 * (r * N + k) + d) = y (to_ k) d) ∧
        ∀ b j, b % L = 0 → b < N → j < m → ∃ z : Nat → Nat,
          (∀ d, d < 2 → Claims.sumOf half (a (b + j) d) (a (b + j + m) d) (y (b + j) d) ∧
            Claims.sumOf half (a (b + j) d) (Claims.flip (a (b + j + m) d)) (z d)) ∧
          (j = 0 → y (b + m) 0 = z 0 ∧ y (b + m) 1 = z 1) ∧
          (j ≠ 0 → Claims.finite fp32 (z 0) = true → Claims.finite fp32 (z 1) = true →
            let C := (trigConst false j L).toNat
            let S := (trigConst true j L).toNat
            let up := if ffDir c.a then S else Claims.flip S
            Claims.turned (z 0) C (z 1) (Claims.flip up) (y (b + j + m) 0) ∧ Claims.turned (z 0) up (z 1) C (y (b + j + m) 1)))) ∧
  ((List.range 5).flatMap (fun j => [trigConst false j 8, trigConst true j 8]) =
    [0x3F800000, 0, 0x3F3504F3, 0x3F3504F3, 0, 0x3F800000, 0xBF3504F3, 0x3F3504F3, 0xBF800000, 0]) ∧
  (let pt (z : Nat × Nat) : Point := { re := { x := z.1, bad := false }, im := { x := z.2, bad := false } }
   let o := 0x3F800000
   let c := 0x3F3504F3
   let neg := 2 ^ 31
   butterfly false 0 4 ([(0, 0), (o, 0), (0, 0), (0, 0)].map pt) = [(o, 0), (0, neg + o), (neg + o, 0), (0, o)].map pt ∧
   butterfly false 0 8 ([(0, 0), (o, 0), (0, 0), (0, 0), (0, 0), (0, 0), (0, 0), (0, 0)].map pt) =
     [(o, 0), (c, neg + c), (0, neg + o), (neg + c, neg + c), (neg + o, 0), (neg + c, c), (0, o), (c, c)].map pt))

end Statements
end

