-- ==== Sys2Proof/Laws/Map.lean ====
section
/-! SUPPORT. The laws of sparse files and of memory: what is read after a write, and that every write keeps the canonical
form. -/

namespace Sys2Proof.Machine

theorem Map.get_drop {α : Type} (d : α) (m : Map α) (k j : Nat) :
    Map.get d (Map.drop m k) j = if j = k then d else Map.get d m j := by
  induction m with
  | nil => simp [Map.drop, Map.get]
  | cons p m ih =>
    obtain ⟨i, v⟩ := p
    simp only [Map.drop, Map.get]
    by_cases h : k = i
    · rw [if_pos h, ih]
      by_cases hj : j = k
      · simp [hj]
      · simp [hj, h ▸ hj]
    · rw [if_neg h, Map.get, ih]
      by_cases hj : j = k
      · simp [hj, h]
      · by_cases hi : j = i
        · rw [if_pos hi, if_neg hj, if_pos hi]
        · rw [if_neg hi, if_neg hj, if_neg hj, if_neg hi]

theorem Map.get_put {α : Type} (d : α) (m : Map α) (k j : Nat) (v : α)
    (h : ∀ w, (k, w) ∉ m) : Map.get d (Map.put m k v) j = if j = k then v else Map.get d m j := by
  induction m with
  | nil => simp [Map.put, Map.get]
  | cons p m ih =>
    obtain ⟨i, w⟩ := p
    have hi : k ≠ i := fun e => h w (by simp [e])
    have ih' := ih (fun x hx => h x (by simp [hx]))
    simp only [Map.put]
    by_cases hlt : k < i
    · rw [if_pos hlt, Map.get]
    · rw [if_neg hlt, Map.get, ih']
      by_cases hj : j = k
      · simp [hj, hi]
      · by_cases hji : j = i
        · simp [hji, Map.get]; intro e; exact absurd e.symm hi
        · simp [hj, hji, Map.get]

theorem Map.not_mem_drop {α : Type} (m : Map α) (k : Nat) (w : α) : (k, w) ∉ Map.drop m k := by
  induction m with
  | nil => simp [Map.drop]
  | cons p m ih =>
    obtain ⟨i, v⟩ := p
    simp only [Map.drop]
    by_cases h : k = i
    · rw [if_pos h]; exact ih
    · rw [if_neg h]; simp [h, ih]

/-- Read after write: the key that was set holds the new value, and every other key what it held. -/
theorem Map.get_set {α : Type} [DecidableEq α] (d : α) (m : Map α) (k j : Nat) (v : α) :
    Map.get d (Map.set d m k v) j = if j = k then v else Map.get d m j := by
  unfold Map.set
  split
  · next h => simp [Map.get_drop, h]
  · rw [Map.get_put d _ k j v (Map.not_mem_drop m k), Map.get_drop]
    by_cases hj : j = k <;> simp [hj]

/-- Read after write of a byte of memory. -/
theorem Memory.read_write (m : Memory) (a b : Nat) (x : BitVec 8) :
    (m.write a x).read b = if b = a then x else m.read b := Map.get_set Memory.blank m a b x

theorem Map.wfFrom_mono {α : Type} [DecidableEq α] (d : α) (lo lo' : Nat) (m : Map α) (h : lo' ≤ lo)
    (hm : Map.wfFrom d lo m = true) : Map.wfFrom d lo' m = true := by
  cases m with
  | nil => rfl
  | cons p m =>
    obtain ⟨i, v⟩ := p
    simp only [Map.wfFrom, Bool.and_eq_true, decide_eq_true_eq] at hm ⊢
    exact ⟨⟨by omega, hm.1.2⟩, hm.2⟩

theorem Map.wfFrom_drop {α : Type} [DecidableEq α] (d : α) (lo k : Nat) (m : Map α)
    (hm : Map.wfFrom d lo m = true) : Map.wfFrom d lo (Map.drop m k) = true := by
  induction m generalizing lo with
  | nil => rfl
  | cons p m ih =>
    obtain ⟨i, v⟩ := p
    simp only [Map.wfFrom, Bool.and_eq_true, decide_eq_true_eq] at hm
    simp only [Map.drop]
    split
    · exact Map.wfFrom_mono d (i + 1) lo _ (by omega) (ih _ hm.2)
    · simp only [Map.wfFrom, Bool.and_eq_true, decide_eq_true_eq]
      exact ⟨⟨hm.1.1, hm.1.2⟩, ih _ hm.2⟩

theorem Map.wfFrom_put {α : Type} [DecidableEq α] (d : α) (lo k : Nat) (m : Map α) (v : α) (hv : v ≠ d) (hk : lo ≤ k)
    (hm : Map.wfFrom d lo m = true) (hn : ∀ w, (k, w) ∉ m) : Map.wfFrom d lo (Map.put m k v) = true := by
  induction m generalizing lo with
  | nil => simp [Map.put, Map.wfFrom, hk, hv]
  | cons p m ih =>
    obtain ⟨i, w⟩ := p
    have hi : k ≠ i := fun e => hn w (by simp [e])
    simp only [Map.wfFrom, Bool.and_eq_true, decide_eq_true_eq] at hm
    simp only [Map.put]
    split
    · simp only [Map.wfFrom, Bool.and_eq_true, decide_eq_true_eq]
      exact ⟨⟨hk, hv⟩, ⟨by omega, hm.1.2⟩, hm.2⟩
    · simp only [Map.wfFrom, Bool.and_eq_true, decide_eq_true_eq]
      exact ⟨⟨hm.1.1, hm.1.2⟩, ih _ (by omega) hm.2 (fun x hx => hn x (by simp [hx]))⟩

/-- Setting a key keeps the canonical form. -/
theorem Map.wf_set {α : Type} [DecidableEq α] (d : α) (m : Map α) (k : Nat) (v : α) (h : Map.wf d m = true) :
    Map.wf d (Map.set d m k v) = true := by
  unfold Map.set Map.wf at *
  split
  · exact Map.wfFrom_drop d 0 k m h
  · next hv => exact Map.wfFrom_put d 0 k _ v hv (by omega) (Map.wfFrom_drop d 0 k m h) (fun w => Map.not_mem_drop m k w)

/-- Setting keys keeps the canonical form. -/
theorem Map.wf_setAll {α : Type} [DecidableEq α] (d : α) (m : Map α) (ps : List (Nat × α)) (h : Map.wf d m = true) :
    Map.wf d (Map.setAll d m ps) = true := by
  unfold Map.setAll
  induction ps generalizing m with
  | nil => exact h
  | cons p ps ih => exact ih _ (Map.wf_set d m _ _ h)

/-- Dropping a range of keys keeps the canonical form. -/
theorem Map.wf_dropRange {α : Type} [DecidableEq α] (d : α) (m : Map α) (lo hi : Nat) (h : Map.wf d m = true) :
    Map.wf d (Map.dropRange m lo hi) = true := by
  unfold Map.wf Map.dropRange at *
  generalize 0 = n at h ⊢
  induction m generalizing n with
  | nil => rfl
  | cons p m ih =>
    obtain ⟨i, v⟩ := p
    simp only [Map.wfFrom, Bool.and_eq_true, decide_eq_true_eq] at h
    rw [List.filter_cons]
    split
    · simp only [Map.wfFrom, Bool.and_eq_true, decide_eq_true_eq]
      exact ⟨⟨h.1.1, h.1.2⟩, ih _ h.2⟩
    · exact Map.wfFrom_mono d (i + 1) n _ (by omega) (ih _ h.2)

/-- A write of a byte keeps the memory's canonical form. -/
theorem Memory.wf_write (m : Memory) (a : Nat) (b : BitVec 8) (h : m.wf = true) : (m.write a b).wf = true :=
  Map.wf_set Memory.blank m a b h

/-- A write of bytes keeps the memory's canonical form. -/
theorem Memory.wf_writeBytes (m : Memory) (a : Nat) (bs : List (BitVec 8)) (h : m.wf = true) :
    (m.writeBytes a bs).wf = true := by
  induction bs generalizing m a with
  | nil => exact h
  | cons b bs ih => exact ih _ _ (Memory.wf_write m a b h)

end Sys2Proof.Machine
end

