-- ==== Sys2Proof/Laws/State.lean ====
section
/-! SUPPORT. What each update of the state leaves alone: one lemma for each field and update, true by `rfl`. -/

namespace Sys2Proof.Machine

/-! ### `State.setCore` -/

@[simp] theorem State.setCore_cycle (s : State) (n : Nat) (c : Core) : (s.setCore n c).cycle = s.cycle := rfl
@[simp] theorem State.setCore_dieCycle (s : State) (n : Nat) (c : Core) : (s.setCore n c).dieCycle = s.dieCycle := rfl
@[simp] theorem State.setCore_dram (s : State) (n : Nat) (c : Core) : (s.setCore n c).dram = s.dram := rfl
@[simp] theorem State.setCore_dramBad (s : State) (n : Nat) (c : Core) : (s.setCore n c).dramBad = s.dramBad := rfl
@[simp] theorem State.setCore_rawLines (s : State) (n : Nat) (c : Core) : (s.setCore n c).rawLines = s.rawLines := rfl
@[simp] theorem State.setCore_strikes (s : State) (n : Nat) (c : Core) : (s.setCore n c).strikes = s.strikes := rfl
@[simp] theorem State.setCore_prev (s : State) (n : Nat) (c : Core) : (s.setCore n c).prev = s.prev := rfl
@[simp] theorem State.setCore_wseq (s : State) (n : Nat) (c : Core) : (s.setCore n c).wseq = s.wseq := rfl
@[simp] theorem State.setCore_hostMem (s : State) (n : Nat) (c : Core) : (s.setCore n c).hostMem = s.hostMem := rfl
@[simp] theorem State.setCore_packs (s : State) (n : Nat) (c : Core) : (s.setCore n c).packs = s.packs := rfl
@[simp] theorem State.setCore_packSeq (s : State) (n : Nat) (c : Core) : (s.setCore n c).packSeq = s.packSeq := rfl
@[simp] theorem State.setCore_contexts (s : State) (n : Nat) (c : Core) : (s.setCore n c).contexts = s.contexts := rfl
@[simp] theorem State.setCore_colls (s : State) (n : Nat) (c : Core) : (s.setCore n c).colls = s.colls := rfl
@[simp] theorem State.setCore_collLog (s : State) (n : Nat) (c : Core) : (s.setCore n c).collLog = s.collLog := rfl
@[simp] theorem State.setCore_offers (s : State) (n : Nat) (c : Core) : (s.setCore n c).offers = s.offers := rfl
@[simp] theorem State.setCore_notices (s : State) (n : Nat) (c : Core) : (s.setCore n c).notices = s.notices := rfl
@[simp] theorem State.setCore_flightSeq (s : State) (n : Nat) (c : Core) : (s.setCore n c).flightSeq = s.flightSeq := rfl
@[simp] theorem State.setCore_spillSeq (s : State) (n : Nat) (c : Core) : (s.setCore n c).spillSeq = s.spillSeq := rfl
@[simp] theorem State.setCore_peers (s : State) (n : Nat) (c : Core) : (s.setCore n c).peers = s.peers := rfl
@[simp] theorem State.setCore_requests (s : State) (n : Nat) (c : Core) : (s.setCore n c).requests = s.requests := rfl
@[simp] theorem State.setCore_reqSeq (s : State) (n : Nat) (c : Core) : (s.setCore n c).reqSeq = s.reqSeq := rfl
@[simp] theorem State.setCore_replies (s : State) (n : Nat) (c : Core) : (s.setCore n c).replies = s.replies := rfl
@[simp] theorem State.setCore_answered (s : State) (n : Nat) (c : Core) : (s.setCore n c).answered = s.answered := rfl
@[simp] theorem State.setCore_mgmt (s : State) (n : Nat) (c : Core) : (s.setCore n c).mgmt = s.mgmt := rfl
@[simp] theorem State.setCore_agenda (s : State) (n : Nat) (c : Core) : (s.setCore n c).agenda = s.agenda := rfl
@[simp] theorem State.setCore_cur (s : State) (n : Nat) (c : Core) : (s.setCore n c).cur = s.cur := rfl
@[simp] theorem State.setCore_iss (s : State) (n : Nat) (c : Core) : (s.setCore n c).iss = s.iss := rfl
@[simp] theorem State.setCore_fresh (s : State) (n : Nat) (c : Core) : (s.setCore n c).fresh = s.fresh := rfl

/-! ### `State.modCore` -/

@[simp] theorem State.modCore_cycle (s : State) (n : Nat) (f : Core → Core) : (s.modCore n f).cycle = s.cycle := rfl
@[simp] theorem State.modCore_dieCycle (s : State) (n : Nat) (f : Core → Core) : (s.modCore n f).dieCycle = s.dieCycle := rfl
@[simp] theorem State.modCore_dram (s : State) (n : Nat) (f : Core → Core) : (s.modCore n f).dram = s.dram := rfl
@[simp] theorem State.modCore_dramBad (s : State) (n : Nat) (f : Core → Core) : (s.modCore n f).dramBad = s.dramBad := rfl
@[simp] theorem State.modCore_rawLines (s : State) (n : Nat) (f : Core → Core) : (s.modCore n f).rawLines = s.rawLines := rfl
@[simp] theorem State.modCore_strikes (s : State) (n : Nat) (f : Core → Core) : (s.modCore n f).strikes = s.strikes := rfl
@[simp] theorem State.modCore_prev (s : State) (n : Nat) (f : Core → Core) : (s.modCore n f).prev = s.prev := rfl
@[simp] theorem State.modCore_wseq (s : State) (n : Nat) (f : Core → Core) : (s.modCore n f).wseq = s.wseq := rfl
@[simp] theorem State.modCore_hostMem (s : State) (n : Nat) (f : Core → Core) : (s.modCore n f).hostMem = s.hostMem := rfl
@[simp] theorem State.modCore_packs (s : State) (n : Nat) (f : Core → Core) : (s.modCore n f).packs = s.packs := rfl
@[simp] theorem State.modCore_packSeq (s : State) (n : Nat) (f : Core → Core) : (s.modCore n f).packSeq = s.packSeq := rfl
@[simp] theorem State.modCore_contexts (s : State) (n : Nat) (f : Core → Core) : (s.modCore n f).contexts = s.contexts := rfl
@[simp] theorem State.modCore_colls (s : State) (n : Nat) (f : Core → Core) : (s.modCore n f).colls = s.colls := rfl
@[simp] theorem State.modCore_collLog (s : State) (n : Nat) (f : Core → Core) : (s.modCore n f).collLog = s.collLog := rfl
@[simp] theorem State.modCore_offers (s : State) (n : Nat) (f : Core → Core) : (s.modCore n f).offers = s.offers := rfl
@[simp] theorem State.modCore_notices (s : State) (n : Nat) (f : Core → Core) : (s.modCore n f).notices = s.notices := rfl
@[simp] theorem State.modCore_flightSeq (s : State) (n : Nat) (f : Core → Core) : (s.modCore n f).flightSeq = s.flightSeq := rfl
@[simp] theorem State.modCore_spillSeq (s : State) (n : Nat) (f : Core → Core) : (s.modCore n f).spillSeq = s.spillSeq := rfl
@[simp] theorem State.modCore_peers (s : State) (n : Nat) (f : Core → Core) : (s.modCore n f).peers = s.peers := rfl
@[simp] theorem State.modCore_requests (s : State) (n : Nat) (f : Core → Core) : (s.modCore n f).requests = s.requests := rfl
@[simp] theorem State.modCore_reqSeq (s : State) (n : Nat) (f : Core → Core) : (s.modCore n f).reqSeq = s.reqSeq := rfl
@[simp] theorem State.modCore_replies (s : State) (n : Nat) (f : Core → Core) : (s.modCore n f).replies = s.replies := rfl
@[simp] theorem State.modCore_answered (s : State) (n : Nat) (f : Core → Core) : (s.modCore n f).answered = s.answered := rfl
@[simp] theorem State.modCore_mgmt (s : State) (n : Nat) (f : Core → Core) : (s.modCore n f).mgmt = s.mgmt := rfl
@[simp] theorem State.modCore_agenda (s : State) (n : Nat) (f : Core → Core) : (s.modCore n f).agenda = s.agenda := rfl
@[simp] theorem State.modCore_cur (s : State) (n : Nat) (f : Core → Core) : (s.modCore n f).cur = s.cur := rfl
@[simp] theorem State.modCore_iss (s : State) (n : Nat) (f : Core → Core) : (s.modCore n f).iss = s.iss := rfl
@[simp] theorem State.modCore_fresh (s : State) (n : Nat) (f : Core → Core) : (s.modCore n f).fresh = s.fresh := rfl

/-! ### `State.setCtx` -/

@[simp] theorem State.setCtx_cycle (s : State) (n : Nat) (x : Option Context) : (s.setCtx n x).cycle = s.cycle := rfl
@[simp] theorem State.setCtx_dieCycle (s : State) (n : Nat) (x : Option Context) : (s.setCtx n x).dieCycle = s.dieCycle := rfl
@[simp] theorem State.setCtx_dram (s : State) (n : Nat) (x : Option Context) : (s.setCtx n x).dram = s.dram := rfl
@[simp] theorem State.setCtx_dramBad (s : State) (n : Nat) (x : Option Context) : (s.setCtx n x).dramBad = s.dramBad := rfl
@[simp] theorem State.setCtx_rawLines (s : State) (n : Nat) (x : Option Context) : (s.setCtx n x).rawLines = s.rawLines := rfl
@[simp] theorem State.setCtx_strikes (s : State) (n : Nat) (x : Option Context) : (s.setCtx n x).strikes = s.strikes := rfl
@[simp] theorem State.setCtx_prev (s : State) (n : Nat) (x : Option Context) : (s.setCtx n x).prev = s.prev := rfl
@[simp] theorem State.setCtx_wseq (s : State) (n : Nat) (x : Option Context) : (s.setCtx n x).wseq = s.wseq := rfl
@[simp] theorem State.setCtx_hostMem (s : State) (n : Nat) (x : Option Context) : (s.setCtx n x).hostMem = s.hostMem := rfl
@[simp] theorem State.setCtx_cores (s : State) (n : Nat) (x : Option Context) : (s.setCtx n x).cores = s.cores := rfl
@[simp] theorem State.setCtx_packs (s : State) (n : Nat) (x : Option Context) : (s.setCtx n x).packs = s.packs := rfl
@[simp] theorem State.setCtx_packSeq (s : State) (n : Nat) (x : Option Context) : (s.setCtx n x).packSeq = s.packSeq := rfl
@[simp] theorem State.setCtx_colls (s : State) (n : Nat) (x : Option Context) : (s.setCtx n x).colls = s.colls := rfl
@[simp] theorem State.setCtx_collLog (s : State) (n : Nat) (x : Option Context) : (s.setCtx n x).collLog = s.collLog := rfl
@[simp] theorem State.setCtx_offers (s : State) (n : Nat) (x : Option Context) : (s.setCtx n x).offers = s.offers := rfl
@[simp] theorem State.setCtx_notices (s : State) (n : Nat) (x : Option Context) : (s.setCtx n x).notices = s.notices := rfl
@[simp] theorem State.setCtx_flightSeq (s : State) (n : Nat) (x : Option Context) : (s.setCtx n x).flightSeq = s.flightSeq := rfl
@[simp] theorem State.setCtx_spillSeq (s : State) (n : Nat) (x : Option Context) : (s.setCtx n x).spillSeq = s.spillSeq := rfl
@[simp] theorem State.setCtx_peers (s : State) (n : Nat) (x : Option Context) : (s.setCtx n x).peers = s.peers := rfl
@[simp] theorem State.setCtx_requests (s : State) (n : Nat) (x : Option Context) : (s.setCtx n x).requests = s.requests := rfl
@[simp] theorem State.setCtx_reqSeq (s : State) (n : Nat) (x : Option Context) : (s.setCtx n x).reqSeq = s.reqSeq := rfl
@[simp] theorem State.setCtx_replies (s : State) (n : Nat) (x : Option Context) : (s.setCtx n x).replies = s.replies := rfl
@[simp] theorem State.setCtx_answered (s : State) (n : Nat) (x : Option Context) : (s.setCtx n x).answered = s.answered := rfl
@[simp] theorem State.setCtx_mgmt (s : State) (n : Nat) (x : Option Context) : (s.setCtx n x).mgmt = s.mgmt := rfl
@[simp] theorem State.setCtx_agenda (s : State) (n : Nat) (x : Option Context) : (s.setCtx n x).agenda = s.agenda := rfl
@[simp] theorem State.setCtx_cur (s : State) (n : Nat) (x : Option Context) : (s.setCtx n x).cur = s.cur := rfl
@[simp] theorem State.setCtx_iss (s : State) (n : Nat) (x : Option Context) : (s.setCtx n x).iss = s.iss := rfl
@[simp] theorem State.setCtx_fresh (s : State) (n : Nat) (x : Option Context) : (s.setCtx n x).fresh = s.fresh := rfl

/-! ### `State.modPack` -/

@[simp] theorem State.modPack_cycle (s : State) (n : Nat) (f : Pack → Pack) : (s.modPack n f).cycle = s.cycle := rfl
@[simp] theorem State.modPack_dieCycle (s : State) (n : Nat) (f : Pack → Pack) : (s.modPack n f).dieCycle = s.dieCycle := rfl
@[simp] theorem State.modPack_dram (s : State) (n : Nat) (f : Pack → Pack) : (s.modPack n f).dram = s.dram := rfl
@[simp] theorem State.modPack_dramBad (s : State) (n : Nat) (f : Pack → Pack) : (s.modPack n f).dramBad = s.dramBad := rfl
@[simp] theorem State.modPack_rawLines (s : State) (n : Nat) (f : Pack → Pack) : (s.modPack n f).rawLines = s.rawLines := rfl
@[simp] theorem State.modPack_strikes (s : State) (n : Nat) (f : Pack → Pack) : (s.modPack n f).strikes = s.strikes := rfl
@[simp] theorem State.modPack_prev (s : State) (n : Nat) (f : Pack → Pack) : (s.modPack n f).prev = s.prev := rfl
@[simp] theorem State.modPack_wseq (s : State) (n : Nat) (f : Pack → Pack) : (s.modPack n f).wseq = s.wseq := rfl
@[simp] theorem State.modPack_hostMem (s : State) (n : Nat) (f : Pack → Pack) : (s.modPack n f).hostMem = s.hostMem := rfl
@[simp] theorem State.modPack_cores (s : State) (n : Nat) (f : Pack → Pack) : (s.modPack n f).cores = s.cores := rfl
@[simp] theorem State.modPack_packSeq (s : State) (n : Nat) (f : Pack → Pack) : (s.modPack n f).packSeq = s.packSeq := rfl
@[simp] theorem State.modPack_contexts (s : State) (n : Nat) (f : Pack → Pack) : (s.modPack n f).contexts = s.contexts := rfl
@[simp] theorem State.modPack_colls (s : State) (n : Nat) (f : Pack → Pack) : (s.modPack n f).colls = s.colls := rfl
@[simp] theorem State.modPack_collLog (s : State) (n : Nat) (f : Pack → Pack) : (s.modPack n f).collLog = s.collLog := rfl
@[simp] theorem State.modPack_offers (s : State) (n : Nat) (f : Pack → Pack) : (s.modPack n f).offers = s.offers := rfl
@[simp] theorem State.modPack_notices (s : State) (n : Nat) (f : Pack → Pack) : (s.modPack n f).notices = s.notices := rfl
@[simp] theorem State.modPack_flightSeq (s : State) (n : Nat) (f : Pack → Pack) : (s.modPack n f).flightSeq = s.flightSeq := rfl
@[simp] theorem State.modPack_spillSeq (s : State) (n : Nat) (f : Pack → Pack) : (s.modPack n f).spillSeq = s.spillSeq := rfl
@[simp] theorem State.modPack_peers (s : State) (n : Nat) (f : Pack → Pack) : (s.modPack n f).peers = s.peers := rfl
@[simp] theorem State.modPack_requests (s : State) (n : Nat) (f : Pack → Pack) : (s.modPack n f).requests = s.requests := rfl
@[simp] theorem State.modPack_reqSeq (s : State) (n : Nat) (f : Pack → Pack) : (s.modPack n f).reqSeq = s.reqSeq := rfl
@[simp] theorem State.modPack_replies (s : State) (n : Nat) (f : Pack → Pack) : (s.modPack n f).replies = s.replies := rfl
@[simp] theorem State.modPack_answered (s : State) (n : Nat) (f : Pack → Pack) : (s.modPack n f).answered = s.answered := rfl
@[simp] theorem State.modPack_mgmt (s : State) (n : Nat) (f : Pack → Pack) : (s.modPack n f).mgmt = s.mgmt := rfl
@[simp] theorem State.modPack_agenda (s : State) (n : Nat) (f : Pack → Pack) : (s.modPack n f).agenda = s.agenda := rfl
@[simp] theorem State.modPack_cur (s : State) (n : Nat) (f : Pack → Pack) : (s.modPack n f).cur = s.cur := rfl
@[simp] theorem State.modPack_iss (s : State) (n : Nat) (f : Pack → Pack) : (s.modPack n f).iss = s.iss := rfl
@[simp] theorem State.modPack_fresh (s : State) (n : Nat) (f : Pack → Pack) : (s.modPack n f).fresh = s.fresh := rfl

/-! ### `State.modWarp` -/

@[simp] theorem State.modWarp_cycle (s : State) (n i : Nat) (f : Warp → Warp) : (s.modWarp n i f).cycle = s.cycle := rfl
@[simp] theorem State.modWarp_dieCycle (s : State) (n i : Nat) (f : Warp → Warp) : (s.modWarp n i f).dieCycle = s.dieCycle := rfl
@[simp] theorem State.modWarp_dram (s : State) (n i : Nat) (f : Warp → Warp) : (s.modWarp n i f).dram = s.dram := rfl
@[simp] theorem State.modWarp_dramBad (s : State) (n i : Nat) (f : Warp → Warp) : (s.modWarp n i f).dramBad = s.dramBad := rfl
@[simp] theorem State.modWarp_rawLines (s : State) (n i : Nat) (f : Warp → Warp) : (s.modWarp n i f).rawLines = s.rawLines := rfl
@[simp] theorem State.modWarp_strikes (s : State) (n i : Nat) (f : Warp → Warp) : (s.modWarp n i f).strikes = s.strikes := rfl
@[simp] theorem State.modWarp_prev (s : State) (n i : Nat) (f : Warp → Warp) : (s.modWarp n i f).prev = s.prev := rfl
@[simp] theorem State.modWarp_wseq (s : State) (n i : Nat) (f : Warp → Warp) : (s.modWarp n i f).wseq = s.wseq := rfl
@[simp] theorem State.modWarp_hostMem (s : State) (n i : Nat) (f : Warp → Warp) : (s.modWarp n i f).hostMem = s.hostMem := rfl
@[simp] theorem State.modWarp_cores (s : State) (n i : Nat) (f : Warp → Warp) : (s.modWarp n i f).cores = s.cores := rfl
@[simp] theorem State.modWarp_packSeq (s : State) (n i : Nat) (f : Warp → Warp) : (s.modWarp n i f).packSeq = s.packSeq := rfl
@[simp] theorem State.modWarp_contexts (s : State) (n i : Nat) (f : Warp → Warp) : (s.modWarp n i f).contexts = s.contexts := rfl
@[simp] theorem State.modWarp_colls (s : State) (n i : Nat) (f : Warp → Warp) : (s.modWarp n i f).colls = s.colls := rfl
@[simp] theorem State.modWarp_collLog (s : State) (n i : Nat) (f : Warp → Warp) : (s.modWarp n i f).collLog = s.collLog := rfl
@[simp] theorem State.modWarp_offers (s : State) (n i : Nat) (f : Warp → Warp) : (s.modWarp n i f).offers = s.offers := rfl
@[simp] theorem State.modWarp_notices (s : State) (n i : Nat) (f : Warp → Warp) : (s.modWarp n i f).notices = s.notices := rfl
@[simp] theorem State.modWarp_flightSeq (s : State) (n i : Nat) (f : Warp → Warp) : (s.modWarp n i f).flightSeq = s.flightSeq := rfl
@[simp] theorem State.modWarp_spillSeq (s : State) (n i : Nat) (f : Warp → Warp) : (s.modWarp n i f).spillSeq = s.spillSeq := rfl
@[simp] theorem State.modWarp_peers (s : State) (n i : Nat) (f : Warp → Warp) : (s.modWarp n i f).peers = s.peers := rfl
@[simp] theorem State.modWarp_requests (s : State) (n i : Nat) (f : Warp → Warp) : (s.modWarp n i f).requests = s.requests := rfl
@[simp] theorem State.modWarp_reqSeq (s : State) (n i : Nat) (f : Warp → Warp) : (s.modWarp n i f).reqSeq = s.reqSeq := rfl
@[simp] theorem State.modWarp_replies (s : State) (n i : Nat) (f : Warp → Warp) : (s.modWarp n i f).replies = s.replies := rfl
@[simp] theorem State.modWarp_answered (s : State) (n i : Nat) (f : Warp → Warp) : (s.modWarp n i f).answered = s.answered := rfl
@[simp] theorem State.modWarp_mgmt (s : State) (n i : Nat) (f : Warp → Warp) : (s.modWarp n i f).mgmt = s.mgmt := rfl
@[simp] theorem State.modWarp_agenda (s : State) (n i : Nat) (f : Warp → Warp) : (s.modWarp n i f).agenda = s.agenda := rfl
@[simp] theorem State.modWarp_cur (s : State) (n i : Nat) (f : Warp → Warp) : (s.modWarp n i f).cur = s.cur := rfl
@[simp] theorem State.modWarp_iss (s : State) (n i : Nat) (f : Warp → Warp) : (s.modWarp n i f).iss = s.iss := rfl
@[simp] theorem State.modWarp_fresh (s : State) (n i : Nat) (f : Warp → Warp) : (s.modWarp n i f).fresh = s.fresh := rfl

/-! ### `State.setCur` -/

@[simp] theorem State.setCur_cycle (s : State) (f : Warp → Warp) : (s.setCur f).cycle = s.cycle := rfl
@[simp] theorem State.setCur_dieCycle (s : State) (f : Warp → Warp) : (s.setCur f).dieCycle = s.dieCycle := rfl
@[simp] theorem State.setCur_dram (s : State) (f : Warp → Warp) : (s.setCur f).dram = s.dram := rfl
@[simp] theorem State.setCur_dramBad (s : State) (f : Warp → Warp) : (s.setCur f).dramBad = s.dramBad := rfl
@[simp] theorem State.setCur_rawLines (s : State) (f : Warp → Warp) : (s.setCur f).rawLines = s.rawLines := rfl
@[simp] theorem State.setCur_strikes (s : State) (f : Warp → Warp) : (s.setCur f).strikes = s.strikes := rfl
@[simp] theorem State.setCur_prev (s : State) (f : Warp → Warp) : (s.setCur f).prev = s.prev := rfl
@[simp] theorem State.setCur_wseq (s : State) (f : Warp → Warp) : (s.setCur f).wseq = s.wseq := rfl
@[simp] theorem State.setCur_hostMem (s : State) (f : Warp → Warp) : (s.setCur f).hostMem = s.hostMem := rfl
@[simp] theorem State.setCur_cores (s : State) (f : Warp → Warp) : (s.setCur f).cores = s.cores := rfl
@[simp] theorem State.setCur_packSeq (s : State) (f : Warp → Warp) : (s.setCur f).packSeq = s.packSeq := rfl
@[simp] theorem State.setCur_contexts (s : State) (f : Warp → Warp) : (s.setCur f).contexts = s.contexts := rfl
@[simp] theorem State.setCur_colls (s : State) (f : Warp → Warp) : (s.setCur f).colls = s.colls := rfl
@[simp] theorem State.setCur_collLog (s : State) (f : Warp → Warp) : (s.setCur f).collLog = s.collLog := rfl
@[simp] theorem State.setCur_offers (s : State) (f : Warp → Warp) : (s.setCur f).offers = s.offers := rfl
@[simp] theorem State.setCur_notices (s : State) (f : Warp → Warp) : (s.setCur f).notices = s.notices := rfl
@[simp] theorem State.setCur_flightSeq (s : State) (f : Warp → Warp) : (s.setCur f).flightSeq = s.flightSeq := rfl
@[simp] theorem State.setCur_spillSeq (s : State) (f : Warp → Warp) : (s.setCur f).spillSeq = s.spillSeq := rfl
@[simp] theorem State.setCur_peers (s : State) (f : Warp → Warp) : (s.setCur f).peers = s.peers := rfl
@[simp] theorem State.setCur_requests (s : State) (f : Warp → Warp) : (s.setCur f).requests = s.requests := rfl
@[simp] theorem State.setCur_reqSeq (s : State) (f : Warp → Warp) : (s.setCur f).reqSeq = s.reqSeq := rfl
@[simp] theorem State.setCur_replies (s : State) (f : Warp → Warp) : (s.setCur f).replies = s.replies := rfl
@[simp] theorem State.setCur_answered (s : State) (f : Warp → Warp) : (s.setCur f).answered = s.answered := rfl
@[simp] theorem State.setCur_mgmt (s : State) (f : Warp → Warp) : (s.setCur f).mgmt = s.mgmt := rfl
@[simp] theorem State.setCur_agenda (s : State) (f : Warp → Warp) : (s.setCur f).agenda = s.agenda := rfl
@[simp] theorem State.setCur_cur (s : State) (f : Warp → Warp) : (s.setCur f).cur = s.cur := rfl
@[simp] theorem State.setCur_iss (s : State) (f : Warp → Warp) : (s.setCur f).iss = s.iss := rfl
@[simp] theorem State.setCur_fresh (s : State) (f : Warp → Warp) : (s.setCur f).fresh = s.fresh := rfl

/-! ### `State.setPeer` -/

@[simp] theorem State.setPeer_cycle (s : State) (n : Nat) (e : Peer) : (s.setPeer n e).cycle = s.cycle := rfl
@[simp] theorem State.setPeer_dieCycle (s : State) (n : Nat) (e : Peer) : (s.setPeer n e).dieCycle = s.dieCycle := rfl
@[simp] theorem State.setPeer_dram (s : State) (n : Nat) (e : Peer) : (s.setPeer n e).dram = s.dram := rfl
@[simp] theorem State.setPeer_dramBad (s : State) (n : Nat) (e : Peer) : (s.setPeer n e).dramBad = s.dramBad := rfl
@[simp] theorem State.setPeer_rawLines (s : State) (n : Nat) (e : Peer) : (s.setPeer n e).rawLines = s.rawLines := rfl
@[simp] theorem State.setPeer_strikes (s : State) (n : Nat) (e : Peer) : (s.setPeer n e).strikes = s.strikes := rfl
@[simp] theorem State.setPeer_prev (s : State) (n : Nat) (e : Peer) : (s.setPeer n e).prev = s.prev := rfl
@[simp] theorem State.setPeer_wseq (s : State) (n : Nat) (e : Peer) : (s.setPeer n e).wseq = s.wseq := rfl
@[simp] theorem State.setPeer_hostMem (s : State) (n : Nat) (e : Peer) : (s.setPeer n e).hostMem = s.hostMem := rfl
@[simp] theorem State.setPeer_cores (s : State) (n : Nat) (e : Peer) : (s.setPeer n e).cores = s.cores := rfl
@[simp] theorem State.setPeer_packs (s : State) (n : Nat) (e : Peer) : (s.setPeer n e).packs = s.packs := rfl
@[simp] theorem State.setPeer_packSeq (s : State) (n : Nat) (e : Peer) : (s.setPeer n e).packSeq = s.packSeq := rfl
@[simp] theorem State.setPeer_contexts (s : State) (n : Nat) (e : Peer) : (s.setPeer n e).contexts = s.contexts := rfl
@[simp] theorem State.setPeer_colls (s : State) (n : Nat) (e : Peer) : (s.setPeer n e).colls = s.colls := rfl
@[simp] theorem State.setPeer_collLog (s : State) (n : Nat) (e : Peer) : (s.setPeer n e).collLog = s.collLog := rfl
@[simp] theorem State.setPeer_offers (s : State) (n : Nat) (e : Peer) : (s.setPeer n e).offers = s.offers := rfl
@[simp] theorem State.setPeer_notices (s : State) (n : Nat) (e : Peer) : (s.setPeer n e).notices = s.notices := rfl
@[simp] theorem State.setPeer_flightSeq (s : State) (n : Nat) (e : Peer) : (s.setPeer n e).flightSeq = s.flightSeq := rfl
@[simp] theorem State.setPeer_spillSeq (s : State) (n : Nat) (e : Peer) : (s.setPeer n e).spillSeq = s.spillSeq := rfl
@[simp] theorem State.setPeer_requests (s : State) (n : Nat) (e : Peer) : (s.setPeer n e).requests = s.requests := rfl
@[simp] theorem State.setPeer_reqSeq (s : State) (n : Nat) (e : Peer) : (s.setPeer n e).reqSeq = s.reqSeq := rfl
@[simp] theorem State.setPeer_replies (s : State) (n : Nat) (e : Peer) : (s.setPeer n e).replies = s.replies := rfl
@[simp] theorem State.setPeer_answered (s : State) (n : Nat) (e : Peer) : (s.setPeer n e).answered = s.answered := rfl
@[simp] theorem State.setPeer_mgmt (s : State) (n : Nat) (e : Peer) : (s.setPeer n e).mgmt = s.mgmt := rfl
@[simp] theorem State.setPeer_agenda (s : State) (n : Nat) (e : Peer) : (s.setPeer n e).agenda = s.agenda := rfl
@[simp] theorem State.setPeer_cur (s : State) (n : Nat) (e : Peer) : (s.setPeer n e).cur = s.cur := rfl
@[simp] theorem State.setPeer_iss (s : State) (n : Nat) (e : Peer) : (s.setPeer n e).iss = s.iss := rfl
@[simp] theorem State.setPeer_fresh (s : State) (n : Nat) (e : Peer) : (s.setPeer n e).fresh = s.fresh := rfl

/-! ### `State.setResult` -/

@[simp] theorem State.setResult_cycle (s : State) (r : WordResult) : (s.setResult r).cycle = s.cycle := rfl
@[simp] theorem State.setResult_dieCycle (s : State) (r : WordResult) : (s.setResult r).dieCycle = s.dieCycle := rfl
@[simp] theorem State.setResult_dram (s : State) (r : WordResult) : (s.setResult r).dram = s.dram := rfl
@[simp] theorem State.setResult_dramBad (s : State) (r : WordResult) : (s.setResult r).dramBad = s.dramBad := rfl
@[simp] theorem State.setResult_rawLines (s : State) (r : WordResult) : (s.setResult r).rawLines = s.rawLines := rfl
@[simp] theorem State.setResult_strikes (s : State) (r : WordResult) : (s.setResult r).strikes = s.strikes := rfl
@[simp] theorem State.setResult_prev (s : State) (r : WordResult) : (s.setResult r).prev = s.prev := rfl
@[simp] theorem State.setResult_wseq (s : State) (r : WordResult) : (s.setResult r).wseq = s.wseq := rfl
@[simp] theorem State.setResult_hostMem (s : State) (r : WordResult) : (s.setResult r).hostMem = s.hostMem := rfl
@[simp] theorem State.setResult_cores (s : State) (r : WordResult) : (s.setResult r).cores = s.cores := rfl
@[simp] theorem State.setResult_packs (s : State) (r : WordResult) : (s.setResult r).packs = s.packs := rfl
@[simp] theorem State.setResult_packSeq (s : State) (r : WordResult) : (s.setResult r).packSeq = s.packSeq := rfl
@[simp] theorem State.setResult_contexts (s : State) (r : WordResult) : (s.setResult r).contexts = s.contexts := rfl
@[simp] theorem State.setResult_colls (s : State) (r : WordResult) : (s.setResult r).colls = s.colls := rfl
@[simp] theorem State.setResult_collLog (s : State) (r : WordResult) : (s.setResult r).collLog = s.collLog := rfl
@[simp] theorem State.setResult_offers (s : State) (r : WordResult) : (s.setResult r).offers = s.offers := rfl
@[simp] theorem State.setResult_notices (s : State) (r : WordResult) : (s.setResult r).notices = s.notices := rfl
@[simp] theorem State.setResult_flightSeq (s : State) (r : WordResult) : (s.setResult r).flightSeq = s.flightSeq := rfl
@[simp] theorem State.setResult_spillSeq (s : State) (r : WordResult) : (s.setResult r).spillSeq = s.spillSeq := rfl
@[simp] theorem State.setResult_peers (s : State) (r : WordResult) : (s.setResult r).peers = s.peers := rfl
@[simp] theorem State.setResult_requests (s : State) (r : WordResult) : (s.setResult r).requests = s.requests := rfl
@[simp] theorem State.setResult_reqSeq (s : State) (r : WordResult) : (s.setResult r).reqSeq = s.reqSeq := rfl
@[simp] theorem State.setResult_replies (s : State) (r : WordResult) : (s.setResult r).replies = s.replies := rfl
@[simp] theorem State.setResult_answered (s : State) (r : WordResult) : (s.setResult r).answered = s.answered := rfl
@[simp] theorem State.setResult_mgmt (s : State) (r : WordResult) : (s.setResult r).mgmt = s.mgmt := rfl
@[simp] theorem State.setResult_agenda (s : State) (r : WordResult) : (s.setResult r).agenda = s.agenda := rfl
@[simp] theorem State.setResult_cur (s : State) (r : WordResult) : (s.setResult r).cur = s.cur := rfl
@[simp] theorem State.setResult_fresh (s : State) (r : WordResult) : (s.setResult r).fresh = s.fresh := rfl

/-! ### `Warp.setK` -/

@[simp] theorem Warp.setK_role (w : Warp) (n : Nat) (x : BitVec 64) : (w.setK n x).role = w.role := rfl
@[simp] theorem Warp.setK_num (w : Warp) (n : Nat) (x : BitVec 64) : (w.setK n x).num = w.num := rfl
@[simp] theorem Warp.setK_slot (w : Warp) (n : Nat) (x : BitVec 64) : (w.setK n x).slot = w.slot := rfl
@[simp] theorem Warp.setK_quad (w : Warp) (n : Nat) (x : BitVec 64) : (w.setK n x).quad = w.quad := rfl
@[simp] theorem Warp.setK_kbud (w : Warp) (n : Nat) (x : BitVec 64) : (w.setK n x).kbud = w.kbud := rfl
@[simp] theorem Warp.setK_vbud (w : Warp) (n : Nat) (x : BitVec 64) : (w.setK n x).vbud = w.vbud := rfl
@[simp] theorem Warp.setK_pc (w : Warp) (n : Nat) (x : BitVec 64) : (w.setK n x).pc = w.pc := rfl
@[simp] theorem Warp.setK_exec (w : Warp) (n : Nat) (x : BitVec 64) : (w.setK n x).exec = w.exec := rfl
@[simp] theorem Warp.setK_live (w : Warp) (n : Nat) (x : BitVec 64) : (w.setK n x).live = w.live := rfl
@[simp] theorem Warp.setK_level (w : Warp) (n : Nat) (x : BitVec 64) : (w.setK n x).level = w.level := rfl
@[simp] theorem Warp.setK_c (w : Warp) (n : Nat) (x : BitVec 64) : (w.setK n x).c = w.c := rfl
@[simp] theorem Warp.setK_v (w : Warp) (n : Nat) (x : BitVec 64) : (w.setK n x).v = w.v := rfl
@[simp] theorem Warp.setK_p (w : Warp) (n : Nat) (x : BitVec 64) : (w.setK n x).p = w.p := rfl
@[simp] theorem Warp.setK_stack (w : Warp) (n : Nat) (x : BitVec 64) : (w.setK n x).stack = w.stack := rfl
@[simp] theorem Warp.setK_depth (w : Warp) (n : Nat) (x : BitVec 64) : (w.setK n x).depth = w.depth := rfl
@[simp] theorem Warp.setK_rssel (w : Warp) (n : Nat) (x : BitVec 64) : (w.setK n x).rssel = w.rssel := rfl
@[simp] theorem Warp.setK_repc (w : Warp) (n : Nat) (x : BitVec 64) : (w.setK n x).repc = w.repc := rfl
@[simp] theorem Warp.setK_fpmode (w : Warp) (n : Nat) (x : BitVec 64) : (w.setK n x).fpmode = w.fpmode := rfl
@[simp] theorem Warp.setK_fpflags (w : Warp) (n : Nat) (x : BitVec 64) : (w.setK n x).fpflags = w.fpflags := rfl
@[simp] theorem Warp.setK_codebook (w : Warp) (n : Nat) (x : BitVec 64) : (w.setK n x).codebook = w.codebook := rfl
@[simp] theorem Warp.setK_latch (w : Warp) (n : Nat) (x : BitVec 64) : (w.setK n x).latch = w.latch := rfl
@[simp] theorem Warp.setK_xpc (w : Warp) (n : Nat) (x : BitVec 64) : (w.setK n x).xpc = w.xpc := rfl
@[simp] theorem Warp.setK_xcause (w : Warp) (n : Nat) (x : BitVec 64) : (w.setK n x).xcause = w.xcause := rfl
@[simp] theorem Warp.setK_xaddr (w : Warp) (n : Nat) (x : BitVec 64) : (w.setK n x).xaddr = w.xaddr := rfl
@[simp] theorem Warp.setK_xinfo (w : Warp) (n : Nat) (x : BitVec 64) : (w.setK n x).xinfo = w.xinfo := rfl
@[simp] theorem Warp.setK_xscr0 (w : Warp) (n : Nat) (x : BitVec 64) : (w.setK n x).xscr0 = w.xscr0 := rfl
@[simp] theorem Warp.setK_xscr1 (w : Warp) (n : Nat) (x : BitVec 64) : (w.setK n x).xscr1 = w.xscr1 := rfl
@[simp] theorem Warp.setK_skipWatch (w : Warp) (n : Nat) (x : BitVec 64) : (w.setK n x).skipWatch = w.skipWatch := rfl
@[simp] theorem Warp.setK_adrv (w : Warp) (n : Nat) (x : BitVec 64) : (w.setK n x).adrv = w.adrv := rfl
@[simp] theorem Warp.setK_batch (w : Warp) (n : Nat) (x : BitVec 64) : (w.setK n x).batch = w.batch := rfl
@[simp] theorem Warp.setK_lastEst (w : Warp) (n : Nat) (x : BitVec 64) : (w.setK n x).lastEst = w.lastEst := rfl
@[simp] theorem Warp.setK_mathSeq (w : Warp) (n : Nat) (x : BitVec 64) : (w.setK n x).mathSeq = w.mathSeq := rfl
@[simp] theorem Warp.setK_flight (w : Warp) (n : Nat) (x : BitVec 64) : (w.setK n x).flight = w.flight := rfl
@[simp] theorem Warp.setK_pending (w : Warp) (n : Nat) (x : BitVec 64) : (w.setK n x).pending = w.pending := rfl
@[simp] theorem Warp.setK_tags (w : Warp) (n : Nat) (x : BitVec 64) : (w.setK n x).tags = w.tags := rfl
@[simp] theorem Warp.setK_origins (w : Warp) (n : Nat) (x : BitVec 64) : (w.setK n x).origins = w.origins := rfl
@[simp] theorem Warp.setK_sideEff (w : Warp) (n : Nat) (x : BitVec 64) : (w.setK n x).sideEff = w.sideEff := rfl
@[simp] theorem Warp.setK_cfences (w : Warp) (n : Nat) (x : BitVec 64) : (w.setK n x).cfences = w.cfences := rfl
@[simp] theorem Warp.setK_nmFence (w : Warp) (n : Nat) (x : BitVec 64) : (w.setK n x).nmFence = w.nmFence := rfl
@[simp] theorem Warp.setK_ackWait (w : Warp) (n : Nat) (x : BitVec 64) : (w.setK n x).ackWait = w.ackWait := rfl
@[simp] theorem Warp.setK_block (w : Warp) (n : Nat) (x : BitVec 64) : (w.setK n x).block = w.block := rfl
@[simp] theorem Warp.setK_preHeld (w : Warp) (n : Nat) (x : BitVec 64) : (w.setK n x).preHeld = w.preHeld := rfl
@[simp] theorem Warp.setK_parkHeld (w : Warp) (n : Nat) (x : BitVec 64) : (w.setK n x).parkHeld = w.parkHeld := rfl
@[simp] theorem Warp.setK_lastIssue (w : Warp) (n : Nat) (x : BitVec 64) : (w.setK n x).lastIssue = w.lastIssue := rfl
@[simp] theorem Warp.setK_lastStep (w : Warp) (n : Nat) (x : BitVec 64) : (w.setK n x).lastStep = w.lastStep := rfl
@[simp] theorem Warp.setK_softErr (w : Warp) (n : Nat) (x : BitVec 64) : (w.setK n x).softErr = w.softErr := rfl
@[simp] theorem Warp.setK_launchRead (w : Warp) (n : Nat) (x : BitVec 64) : (w.setK n x).launchRead = w.launchRead := rfl
@[simp] theorem Warp.setK_midPair (w : Warp) (n : Nat) (x : BitVec 64) : (w.setK n x).midPair = w.midPair := rfl

/-! ### `Warp.setP` -/

@[simp] theorem Warp.setP_role (w : Warp) (n : Nat) (x : BitVec 32) : (w.setP n x).role = w.role := rfl
@[simp] theorem Warp.setP_num (w : Warp) (n : Nat) (x : BitVec 32) : (w.setP n x).num = w.num := rfl
@[simp] theorem Warp.setP_slot (w : Warp) (n : Nat) (x : BitVec 32) : (w.setP n x).slot = w.slot := rfl
@[simp] theorem Warp.setP_quad (w : Warp) (n : Nat) (x : BitVec 32) : (w.setP n x).quad = w.quad := rfl
@[simp] theorem Warp.setP_kbud (w : Warp) (n : Nat) (x : BitVec 32) : (w.setP n x).kbud = w.kbud := rfl
@[simp] theorem Warp.setP_vbud (w : Warp) (n : Nat) (x : BitVec 32) : (w.setP n x).vbud = w.vbud := rfl
@[simp] theorem Warp.setP_pc (w : Warp) (n : Nat) (x : BitVec 32) : (w.setP n x).pc = w.pc := rfl
@[simp] theorem Warp.setP_exec (w : Warp) (n : Nat) (x : BitVec 32) : (w.setP n x).exec = w.exec := rfl
@[simp] theorem Warp.setP_live (w : Warp) (n : Nat) (x : BitVec 32) : (w.setP n x).live = w.live := rfl
@[simp] theorem Warp.setP_level (w : Warp) (n : Nat) (x : BitVec 32) : (w.setP n x).level = w.level := rfl
@[simp] theorem Warp.setP_k (w : Warp) (n : Nat) (x : BitVec 32) : (w.setP n x).k = w.k := rfl
@[simp] theorem Warp.setP_c (w : Warp) (n : Nat) (x : BitVec 32) : (w.setP n x).c = w.c := rfl
@[simp] theorem Warp.setP_v (w : Warp) (n : Nat) (x : BitVec 32) : (w.setP n x).v = w.v := rfl
@[simp] theorem Warp.setP_stack (w : Warp) (n : Nat) (x : BitVec 32) : (w.setP n x).stack = w.stack := rfl
@[simp] theorem Warp.setP_depth (w : Warp) (n : Nat) (x : BitVec 32) : (w.setP n x).depth = w.depth := rfl
@[simp] theorem Warp.setP_rssel (w : Warp) (n : Nat) (x : BitVec 32) : (w.setP n x).rssel = w.rssel := rfl
@[simp] theorem Warp.setP_repc (w : Warp) (n : Nat) (x : BitVec 32) : (w.setP n x).repc = w.repc := rfl
@[simp] theorem Warp.setP_fpmode (w : Warp) (n : Nat) (x : BitVec 32) : (w.setP n x).fpmode = w.fpmode := rfl
@[simp] theorem Warp.setP_fpflags (w : Warp) (n : Nat) (x : BitVec 32) : (w.setP n x).fpflags = w.fpflags := rfl
@[simp] theorem Warp.setP_codebook (w : Warp) (n : Nat) (x : BitVec 32) : (w.setP n x).codebook = w.codebook := rfl
@[simp] theorem Warp.setP_latch (w : Warp) (n : Nat) (x : BitVec 32) : (w.setP n x).latch = w.latch := rfl
@[simp] theorem Warp.setP_xpc (w : Warp) (n : Nat) (x : BitVec 32) : (w.setP n x).xpc = w.xpc := rfl
@[simp] theorem Warp.setP_xcause (w : Warp) (n : Nat) (x : BitVec 32) : (w.setP n x).xcause = w.xcause := rfl
@[simp] theorem Warp.setP_xaddr (w : Warp) (n : Nat) (x : BitVec 32) : (w.setP n x).xaddr = w.xaddr := rfl
@[simp] theorem Warp.setP_xinfo (w : Warp) (n : Nat) (x : BitVec 32) : (w.setP n x).xinfo = w.xinfo := rfl
@[simp] theorem Warp.setP_xscr0 (w : Warp) (n : Nat) (x : BitVec 32) : (w.setP n x).xscr0 = w.xscr0 := rfl
@[simp] theorem Warp.setP_xscr1 (w : Warp) (n : Nat) (x : BitVec 32) : (w.setP n x).xscr1 = w.xscr1 := rfl
@[simp] theorem Warp.setP_skipWatch (w : Warp) (n : Nat) (x : BitVec 32) : (w.setP n x).skipWatch = w.skipWatch := rfl
@[simp] theorem Warp.setP_adrv (w : Warp) (n : Nat) (x : BitVec 32) : (w.setP n x).adrv = w.adrv := rfl
@[simp] theorem Warp.setP_batch (w : Warp) (n : Nat) (x : BitVec 32) : (w.setP n x).batch = w.batch := rfl
@[simp] theorem Warp.setP_lastEst (w : Warp) (n : Nat) (x : BitVec 32) : (w.setP n x).lastEst = w.lastEst := rfl
@[simp] theorem Warp.setP_mathSeq (w : Warp) (n : Nat) (x : BitVec 32) : (w.setP n x).mathSeq = w.mathSeq := rfl
@[simp] theorem Warp.setP_flight (w : Warp) (n : Nat) (x : BitVec 32) : (w.setP n x).flight = w.flight := rfl
@[simp] theorem Warp.setP_pending (w : Warp) (n : Nat) (x : BitVec 32) : (w.setP n x).pending = w.pending := rfl
@[simp] theorem Warp.setP_tags (w : Warp) (n : Nat) (x : BitVec 32) : (w.setP n x).tags = w.tags := rfl
@[simp] theorem Warp.setP_origins (w : Warp) (n : Nat) (x : BitVec 32) : (w.setP n x).origins = w.origins := rfl
@[simp] theorem Warp.setP_sideEff (w : Warp) (n : Nat) (x : BitVec 32) : (w.setP n x).sideEff = w.sideEff := rfl
@[simp] theorem Warp.setP_cfences (w : Warp) (n : Nat) (x : BitVec 32) : (w.setP n x).cfences = w.cfences := rfl
@[simp] theorem Warp.setP_nmFence (w : Warp) (n : Nat) (x : BitVec 32) : (w.setP n x).nmFence = w.nmFence := rfl
@[simp] theorem Warp.setP_ackWait (w : Warp) (n : Nat) (x : BitVec 32) : (w.setP n x).ackWait = w.ackWait := rfl
@[simp] theorem Warp.setP_block (w : Warp) (n : Nat) (x : BitVec 32) : (w.setP n x).block = w.block := rfl
@[simp] theorem Warp.setP_preHeld (w : Warp) (n : Nat) (x : BitVec 32) : (w.setP n x).preHeld = w.preHeld := rfl
@[simp] theorem Warp.setP_parkHeld (w : Warp) (n : Nat) (x : BitVec 32) : (w.setP n x).parkHeld = w.parkHeld := rfl
@[simp] theorem Warp.setP_lastIssue (w : Warp) (n : Nat) (x : BitVec 32) : (w.setP n x).lastIssue = w.lastIssue := rfl
@[simp] theorem Warp.setP_lastStep (w : Warp) (n : Nat) (x : BitVec 32) : (w.setP n x).lastStep = w.lastStep := rfl
@[simp] theorem Warp.setP_softErr (w : Warp) (n : Nat) (x : BitVec 32) : (w.setP n x).softErr = w.softErr := rfl
@[simp] theorem Warp.setP_launchRead (w : Warp) (n : Nat) (x : BitVec 32) : (w.setP n x).launchRead = w.launchRead := rfl
@[simp] theorem Warp.setP_midPair (w : Warp) (n : Nat) (x : BitVec 32) : (w.setP n x).midPair = w.midPair := rfl

/-! ### `Warp.setC` -/

@[simp] theorem Warp.setC_role (w : Warp) (n : Nat) (x : Bool) : (w.setC n x).role = w.role := rfl
@[simp] theorem Warp.setC_num (w : Warp) (n : Nat) (x : Bool) : (w.setC n x).num = w.num := rfl
@[simp] theorem Warp.setC_slot (w : Warp) (n : Nat) (x : Bool) : (w.setC n x).slot = w.slot := rfl
@[simp] theorem Warp.setC_quad (w : Warp) (n : Nat) (x : Bool) : (w.setC n x).quad = w.quad := rfl
@[simp] theorem Warp.setC_kbud (w : Warp) (n : Nat) (x : Bool) : (w.setC n x).kbud = w.kbud := rfl
@[simp] theorem Warp.setC_vbud (w : Warp) (n : Nat) (x : Bool) : (w.setC n x).vbud = w.vbud := rfl
@[simp] theorem Warp.setC_pc (w : Warp) (n : Nat) (x : Bool) : (w.setC n x).pc = w.pc := rfl
@[simp] theorem Warp.setC_exec (w : Warp) (n : Nat) (x : Bool) : (w.setC n x).exec = w.exec := rfl
@[simp] theorem Warp.setC_live (w : Warp) (n : Nat) (x : Bool) : (w.setC n x).live = w.live := rfl
@[simp] theorem Warp.setC_level (w : Warp) (n : Nat) (x : Bool) : (w.setC n x).level = w.level := rfl
@[simp] theorem Warp.setC_k (w : Warp) (n : Nat) (x : Bool) : (w.setC n x).k = w.k := rfl
@[simp] theorem Warp.setC_v (w : Warp) (n : Nat) (x : Bool) : (w.setC n x).v = w.v := rfl
@[simp] theorem Warp.setC_p (w : Warp) (n : Nat) (x : Bool) : (w.setC n x).p = w.p := rfl
@[simp] theorem Warp.setC_stack (w : Warp) (n : Nat) (x : Bool) : (w.setC n x).stack = w.stack := rfl
@[simp] theorem Warp.setC_depth (w : Warp) (n : Nat) (x : Bool) : (w.setC n x).depth = w.depth := rfl
@[simp] theorem Warp.setC_rssel (w : Warp) (n : Nat) (x : Bool) : (w.setC n x).rssel = w.rssel := rfl
@[simp] theorem Warp.setC_repc (w : Warp) (n : Nat) (x : Bool) : (w.setC n x).repc = w.repc := rfl
@[simp] theorem Warp.setC_fpmode (w : Warp) (n : Nat) (x : Bool) : (w.setC n x).fpmode = w.fpmode := rfl
@[simp] theorem Warp.setC_fpflags (w : Warp) (n : Nat) (x : Bool) : (w.setC n x).fpflags = w.fpflags := rfl
@[simp] theorem Warp.setC_codebook (w : Warp) (n : Nat) (x : Bool) : (w.setC n x).codebook = w.codebook := rfl
@[simp] theorem Warp.setC_latch (w : Warp) (n : Nat) (x : Bool) : (w.setC n x).latch = w.latch := rfl
@[simp] theorem Warp.setC_xpc (w : Warp) (n : Nat) (x : Bool) : (w.setC n x).xpc = w.xpc := rfl
@[simp] theorem Warp.setC_xcause (w : Warp) (n : Nat) (x : Bool) : (w.setC n x).xcause = w.xcause := rfl
@[simp] theorem Warp.setC_xaddr (w : Warp) (n : Nat) (x : Bool) : (w.setC n x).xaddr = w.xaddr := rfl
@[simp] theorem Warp.setC_xinfo (w : Warp) (n : Nat) (x : Bool) : (w.setC n x).xinfo = w.xinfo := rfl
@[simp] theorem Warp.setC_xscr0 (w : Warp) (n : Nat) (x : Bool) : (w.setC n x).xscr0 = w.xscr0 := rfl
@[simp] theorem Warp.setC_xscr1 (w : Warp) (n : Nat) (x : Bool) : (w.setC n x).xscr1 = w.xscr1 := rfl
@[simp] theorem Warp.setC_skipWatch (w : Warp) (n : Nat) (x : Bool) : (w.setC n x).skipWatch = w.skipWatch := rfl
@[simp] theorem Warp.setC_adrv (w : Warp) (n : Nat) (x : Bool) : (w.setC n x).adrv = w.adrv := rfl
@[simp] theorem Warp.setC_batch (w : Warp) (n : Nat) (x : Bool) : (w.setC n x).batch = w.batch := rfl
@[simp] theorem Warp.setC_lastEst (w : Warp) (n : Nat) (x : Bool) : (w.setC n x).lastEst = w.lastEst := rfl
@[simp] theorem Warp.setC_mathSeq (w : Warp) (n : Nat) (x : Bool) : (w.setC n x).mathSeq = w.mathSeq := rfl
@[simp] theorem Warp.setC_flight (w : Warp) (n : Nat) (x : Bool) : (w.setC n x).flight = w.flight := rfl
@[simp] theorem Warp.setC_pending (w : Warp) (n : Nat) (x : Bool) : (w.setC n x).pending = w.pending := rfl
@[simp] theorem Warp.setC_tags (w : Warp) (n : Nat) (x : Bool) : (w.setC n x).tags = w.tags := rfl
@[simp] theorem Warp.setC_origins (w : Warp) (n : Nat) (x : Bool) : (w.setC n x).origins = w.origins := rfl
@[simp] theorem Warp.setC_sideEff (w : Warp) (n : Nat) (x : Bool) : (w.setC n x).sideEff = w.sideEff := rfl
@[simp] theorem Warp.setC_cfences (w : Warp) (n : Nat) (x : Bool) : (w.setC n x).cfences = w.cfences := rfl
@[simp] theorem Warp.setC_nmFence (w : Warp) (n : Nat) (x : Bool) : (w.setC n x).nmFence = w.nmFence := rfl
@[simp] theorem Warp.setC_ackWait (w : Warp) (n : Nat) (x : Bool) : (w.setC n x).ackWait = w.ackWait := rfl
@[simp] theorem Warp.setC_block (w : Warp) (n : Nat) (x : Bool) : (w.setC n x).block = w.block := rfl
@[simp] theorem Warp.setC_preHeld (w : Warp) (n : Nat) (x : Bool) : (w.setC n x).preHeld = w.preHeld := rfl
@[simp] theorem Warp.setC_parkHeld (w : Warp) (n : Nat) (x : Bool) : (w.setC n x).parkHeld = w.parkHeld := rfl
@[simp] theorem Warp.setC_lastIssue (w : Warp) (n : Nat) (x : Bool) : (w.setC n x).lastIssue = w.lastIssue := rfl
@[simp] theorem Warp.setC_lastStep (w : Warp) (n : Nat) (x : Bool) : (w.setC n x).lastStep = w.lastStep := rfl
@[simp] theorem Warp.setC_softErr (w : Warp) (n : Nat) (x : Bool) : (w.setC n x).softErr = w.softErr := rfl
@[simp] theorem Warp.setC_launchRead (w : Warp) (n : Nat) (x : Bool) : (w.setC n x).launchRead = w.launchRead := rfl
@[simp] theorem Warp.setC_midPair (w : Warp) (n : Nat) (x : Bool) : (w.setC n x).midPair = w.midPair := rfl

/-! ### `Warp.setV` -/

@[simp] theorem Warp.setV_role (w : Warp) (c l : Nat) (x : BitVec 32) : (w.setV c l x).role = w.role := rfl
@[simp] theorem Warp.setV_num (w : Warp) (c l : Nat) (x : BitVec 32) : (w.setV c l x).num = w.num := rfl
@[simp] theorem Warp.setV_slot (w : Warp) (c l : Nat) (x : BitVec 32) : (w.setV c l x).slot = w.slot := rfl
@[simp] theorem Warp.setV_quad (w : Warp) (c l : Nat) (x : BitVec 32) : (w.setV c l x).quad = w.quad := rfl
@[simp] theorem Warp.setV_kbud (w : Warp) (c l : Nat) (x : BitVec 32) : (w.setV c l x).kbud = w.kbud := rfl
@[simp] theorem Warp.setV_vbud (w : Warp) (c l : Nat) (x : BitVec 32) : (w.setV c l x).vbud = w.vbud := rfl
@[simp] theorem Warp.setV_pc (w : Warp) (c l : Nat) (x : BitVec 32) : (w.setV c l x).pc = w.pc := rfl
@[simp] theorem Warp.setV_exec (w : Warp) (c l : Nat) (x : BitVec 32) : (w.setV c l x).exec = w.exec := rfl
@[simp] theorem Warp.setV_live (w : Warp) (c l : Nat) (x : BitVec 32) : (w.setV c l x).live = w.live := rfl
@[simp] theorem Warp.setV_level (w : Warp) (c l : Nat) (x : BitVec 32) : (w.setV c l x).level = w.level := rfl
@[simp] theorem Warp.setV_k (w : Warp) (c l : Nat) (x : BitVec 32) : (w.setV c l x).k = w.k := rfl
@[simp] theorem Warp.setV_c (w : Warp) (c l : Nat) (x : BitVec 32) : (w.setV c l x).c = w.c := rfl
@[simp] theorem Warp.setV_p (w : Warp) (c l : Nat) (x : BitVec 32) : (w.setV c l x).p = w.p := rfl
@[simp] theorem Warp.setV_stack (w : Warp) (c l : Nat) (x : BitVec 32) : (w.setV c l x).stack = w.stack := rfl
@[simp] theorem Warp.setV_depth (w : Warp) (c l : Nat) (x : BitVec 32) : (w.setV c l x).depth = w.depth := rfl
@[simp] theorem Warp.setV_rssel (w : Warp) (c l : Nat) (x : BitVec 32) : (w.setV c l x).rssel = w.rssel := rfl
@[simp] theorem Warp.setV_repc (w : Warp) (c l : Nat) (x : BitVec 32) : (w.setV c l x).repc = w.repc := rfl
@[simp] theorem Warp.setV_fpmode (w : Warp) (c l : Nat) (x : BitVec 32) : (w.setV c l x).fpmode = w.fpmode := rfl
@[simp] theorem Warp.setV_fpflags (w : Warp) (c l : Nat) (x : BitVec 32) : (w.setV c l x).fpflags = w.fpflags := rfl
@[simp] theorem Warp.setV_codebook (w : Warp) (c l : Nat) (x : BitVec 32) : (w.setV c l x).codebook = w.codebook := rfl
@[simp] theorem Warp.setV_latch (w : Warp) (c l : Nat) (x : BitVec 32) : (w.setV c l x).latch = w.latch := rfl
@[simp] theorem Warp.setV_xpc (w : Warp) (c l : Nat) (x : BitVec 32) : (w.setV c l x).xpc = w.xpc := rfl
@[simp] theorem Warp.setV_xcause (w : Warp) (c l : Nat) (x : BitVec 32) : (w.setV c l x).xcause = w.xcause := rfl
@[simp] theorem Warp.setV_xaddr (w : Warp) (c l : Nat) (x : BitVec 32) : (w.setV c l x).xaddr = w.xaddr := rfl
@[simp] theorem Warp.setV_xinfo (w : Warp) (c l : Nat) (x : BitVec 32) : (w.setV c l x).xinfo = w.xinfo := rfl
@[simp] theorem Warp.setV_xscr0 (w : Warp) (c l : Nat) (x : BitVec 32) : (w.setV c l x).xscr0 = w.xscr0 := rfl
@[simp] theorem Warp.setV_xscr1 (w : Warp) (c l : Nat) (x : BitVec 32) : (w.setV c l x).xscr1 = w.xscr1 := rfl
@[simp] theorem Warp.setV_skipWatch (w : Warp) (c l : Nat) (x : BitVec 32) : (w.setV c l x).skipWatch = w.skipWatch := rfl
@[simp] theorem Warp.setV_adrv (w : Warp) (c l : Nat) (x : BitVec 32) : (w.setV c l x).adrv = w.adrv := rfl
@[simp] theorem Warp.setV_batch (w : Warp) (c l : Nat) (x : BitVec 32) : (w.setV c l x).batch = w.batch := rfl
@[simp] theorem Warp.setV_lastEst (w : Warp) (c l : Nat) (x : BitVec 32) : (w.setV c l x).lastEst = w.lastEst := rfl
@[simp] theorem Warp.setV_mathSeq (w : Warp) (c l : Nat) (x : BitVec 32) : (w.setV c l x).mathSeq = w.mathSeq := rfl
@[simp] theorem Warp.setV_flight (w : Warp) (c l : Nat) (x : BitVec 32) : (w.setV c l x).flight = w.flight := rfl
@[simp] theorem Warp.setV_pending (w : Warp) (c l : Nat) (x : BitVec 32) : (w.setV c l x).pending = w.pending := rfl
@[simp] theorem Warp.setV_origins (w : Warp) (c l : Nat) (x : BitVec 32) : (w.setV c l x).origins = w.origins := rfl
@[simp] theorem Warp.setV_sideEff (w : Warp) (c l : Nat) (x : BitVec 32) : (w.setV c l x).sideEff = w.sideEff := rfl
@[simp] theorem Warp.setV_cfences (w : Warp) (c l : Nat) (x : BitVec 32) : (w.setV c l x).cfences = w.cfences := rfl
@[simp] theorem Warp.setV_nmFence (w : Warp) (c l : Nat) (x : BitVec 32) : (w.setV c l x).nmFence = w.nmFence := rfl
@[simp] theorem Warp.setV_ackWait (w : Warp) (c l : Nat) (x : BitVec 32) : (w.setV c l x).ackWait = w.ackWait := rfl
@[simp] theorem Warp.setV_block (w : Warp) (c l : Nat) (x : BitVec 32) : (w.setV c l x).block = w.block := rfl
@[simp] theorem Warp.setV_preHeld (w : Warp) (c l : Nat) (x : BitVec 32) : (w.setV c l x).preHeld = w.preHeld := rfl
@[simp] theorem Warp.setV_parkHeld (w : Warp) (c l : Nat) (x : BitVec 32) : (w.setV c l x).parkHeld = w.parkHeld := rfl
@[simp] theorem Warp.setV_lastIssue (w : Warp) (c l : Nat) (x : BitVec 32) : (w.setV c l x).lastIssue = w.lastIssue := rfl
@[simp] theorem Warp.setV_lastStep (w : Warp) (c l : Nat) (x : BitVec 32) : (w.setV c l x).lastStep = w.lastStep := rfl
@[simp] theorem Warp.setV_softErr (w : Warp) (c l : Nat) (x : BitVec 32) : (w.setV c l x).softErr = w.softErr := rfl
@[simp] theorem Warp.setV_launchRead (w : Warp) (c l : Nat) (x : BitVec 32) : (w.setV c l x).launchRead = w.launchRead := rfl
@[simp] theorem Warp.setV_midPair (w : Warp) (c l : Nat) (x : BitVec 32) : (w.setV c l x).midPair = w.midPair := rfl

/-! ### Reading what was written -/

@[simp] theorem State.core_setCore (s : State) (n m : Nat) (c : Core) :
    (s.setCore n c).core m = if m = n then c else s.core m := by
  simp [State.core, State.setCore, Map.get_set]

@[simp] theorem State.core_modCore (s : State) (n m : Nat) (f : Core → Core) :
    (s.modCore n f).core m = if m = n then f (s.core n) else s.core m := by
  simp [State.modCore]

@[simp] theorem State.peer_setPeer (s : State) (n m : Nat) (e : Peer) :
    (s.setPeer n e).peer m = if m = n then e else s.peer m := by
  simp [State.peer, State.setPeer, Map.get_set]

@[simp] theorem Warp.kreg_setK (w : Warp) (n m : Nat) (x : BitVec 64) :
    (w.setK n x).kreg m = if m = n then x else w.kreg m := by
  simp [Warp.kreg, Warp.setK, Map.get_set]

@[simp] theorem Warp.preg_setP (w : Warp) (n m : Nat) (x : BitVec 32) :
    (w.setP n x).preg m = if m = n then x else w.preg m := by
  simp [Warp.preg, Warp.setP, Map.get_set]

theorem Warp.vreg_setV (w : Warp) (c d l m : Nat) (x : BitVec 32) (hl : l < 32) (hm : m < 32) :
    (w.setV c l x).vreg d m = if d = c ∧ m = l then x else w.vreg d m := by
  have h : d * 32 + m = c * 32 + l ↔ d = c ∧ m = l := by omega
  simp [Warp.vreg, Warp.setV, Map.get_set, h]

/-- The pack of an identity after an update of a pack. -/
theorem State.pack?_modPack (s : State) (id m : Nat) (f : Pack → Pack) (hf : ∀ p, (f p).id = p.id) :
    (s.modPack id f).pack? m = (s.pack? m).map (fun p => if p.id = id then f p else p) := by
  simp only [State.pack?, State.modPack, List.find?_map]
  have : (fun p : Pack => (if p.id = id then f p else p).id == m) = fun p => p.id == m := by
    funext p; by_cases h : p.id = id <;> simp [h, hf]
  simp only [Function.comp_def, this]

theorem State.pack?_id {s : State} {m : Nat} {p : Pack} (h : s.pack? m = some p) : p.id = m := by
  have := List.find?_some h
  simpa using this

theorem State.pack?_modPack_self {s : State} {id : Nat} {p : Pack} (f : Pack → Pack) (hf : ∀ p, (f p).id = p.id)
    (h : s.pack? id = some p) : (s.modPack id f).pack? id = some (f p) := by
  simp [State.pack?_modPack s id id f hf, h, State.pack?_id h]

/-- The issuing warp after a change of it. -/
theorem State.curWarp_setCur (s : State) (f : Warp → Warp) : (s.setCur f).curWarp = s.curWarp.map f := by
  simp only [State.curWarp, State.setCur, State.modWarp]
  rw [show (s.modPack s.cur.1 (fun p => p.modWarp s.cur.2 f)).cur = s.cur from rfl]
  cases h : s.pack? s.cur.1 with
  | none => simp [State.pack?_modPack, Pack.modWarp, h]
  | some p =>
    rw [State.pack?_modPack_self (fun q => q.modWarp s.cur.2 f) (fun _ => rfl) h]
    simp [Pack.modWarp]

/-- The bytes of memory are where they were after a change of packs, contexts, peers or the issue record. -/
theorem State.readPlace_modPack (s : State) (n : Nat) (f : Pack → Pack) (p : Place) :
    (s.modPack n f).readPlace p = s.readPlace p := by cases p <;> rfl

theorem State.readPlace_setCur (s : State) (f : Warp → Warp) (p : Place) :
    (s.setCur f).readPlace p = s.readPlace p := by cases p <;> rfl

theorem State.readPlace_setCtx (s : State) (n : Nat) (x : Option Context) (p : Place) :
    (s.setCtx n x).readPlace p = s.readPlace p := by cases p <;> rfl

theorem State.readPlace_setPeer (s : State) (n : Nat) (e : Peer) (p : Place) :
    (s.setPeer n e).readPlace p = s.readPlace p := by cases p <;> rfl

theorem State.readPlace_modCtx (s : State) (n : Nat) (f : Context → Context) (p : Place) :
    (s.modCtx n f).readPlace p = s.readPlace p := by
  unfold State.modCtx; split
  · exact s.readPlace_setCtx _ _ p
  · rfl

theorem State.readPlace_setResult (s : State) (r : WordResult) (p : Place) :
    (s.setResult r).readPlace p = s.readPlace p := by cases p <;> rfl

end Sys2Proof.Machine
end

