-- ==== Sys2Proof/Laws/Ops.lean ====
section
/-! SUPPORT. One law for each operation that the meanings share: what it does where it succeeds, and where it stops. -/

namespace Sys2Proof.Machine

/-- A word that nothing keeps from taking effect passes every check. -/
theorem Issues.check {i : Instr} {s : State} {h : Here} (hr : Issues i s h) : wordCheck i h = .ok () := by
  obtain ⟨-, h1, h2, h3, h4, h5, h6⟩ := hr
  simp [wordCheck, h1, h2, h3, h4, h6]
  exact h5

/-- A word that issues does what its body does. -/
theorem runWord_issues {i : Instr} {s : State} {h : Here} (body : Here → Res State) (hr : Issues i s h) :
    runWord i s body = s.settle (body h) := by
  simp [runWord, hr.1, hr.check, bind, Except.bind]

/-- A word whose body succeeds leaves the body's state, marked done. -/
theorem runWord_done {i : Instr} {s t : State} {h : Here} {body : Here → Res State} (hr : Issues i s h)
    (hb : body h = .ok t) : runWord i s body = .next (t.setResult .done) := by
  rw [runWord_issues body hr, hb]; rfl

/-- A word whose body blocks. -/
theorem runWord_block {i : Instr} {s : State} {h : Here} {body : Here → Res State} {why : BlockWhy} (hr : Issues i s h)
    (hb : body h = .error (.block why)) : runWord i s body = .next ((s.blockCur s.iss.pre why).setResult .blocked) := by
  rw [runWord_issues body hr, hb]; rfl

/-- A word whose body is held. -/
theorem runWord_hold {i : Instr} {s : State} {h : Here} {body : Here → Res State} (hr : Issues i s h)
    (hb : body h = .error .hold) : runWord i s body = .next ((s.setCur (fun _ => s.iss.pre)).setResult .held) := by
  rw [runWord_issues body hr, hb]; rfl

/-- A word whose body raises a cause that is not held pending. -/
theorem runWord_raise {i : Instr} {s t : State} {h : Here} {body : Here → Res State} {c : Cause} {a x : BitVec 64}
    (hr : Issues i s h) (hb : body h = .error (.raise c a x false))
    (ht : s.takeTrap s.cur.1 s.cur.2 s.iss.pre c s.iss.restart a (s.fullInfo x) false = .ok t) :
    runWord i s body = .next (t.setResult .raised) := by
  rw [runWord_issues body hr, hb]
  simp [State.settle, State.stop, ht]

/-- The issuing warp of a word: its pack, its context and its own record exist. -/
theorem State.here_some {s : State} {h : Here} (hh : s.here = some h) :
    s.pack? s.cur.1 = some h.pack ∧ s.ctx? h.pack.ctx = some h.ctx ∧ h.warp = s.iss.pre ∧ h.lit = s.iss.lit ∧
      h.pid = s.cur.1 ∧ h.wi = s.cur.2 ∧ ∃ w, h.pack.warps[s.cur.2]? = some w := by
  unfold State.here at hh
  split at hh
  · cases hh
  · next p hp =>
    split at hh
    · next hw hx => cases hh; exact ⟨hp, hx, rfl, rfl, rfl, rfl, _, hw⟩
    · cases hh

end Sys2Proof.Machine
end

