-- ==== Sys2Proof/Laws/PerInstr.lean ====
section
/-! SUPPORT. The round trip of R77 to R82, one lemma for each instruction: the word that `encode` gives an instruction holds its
opcode and every one of its fields where `decodeFields` reads them. -/

open Sys2Proof

set_option linter.unusedSimpArgs false

/-- The fields of an instruction's word are read back as the instruction. -/
def Sys2Proof.Laws.RoundTrip.Statement (i : Instr) : Prop := ∀ w, encode i = some w → decodeFields w.toNat = some i

/-- The fields of a word with 1 fields at 0. -/
theorem Sys2Proof.Laws.fields_19at0 {x : Nat} (op : Nat) (f0 : BitVec 19) (g19 : Nat) (k19 : g19 < 2 ^ 5)
    (hx : x = op * 2 ^ 24 + f0.toNat * 2 ^ 0 + g19 * 2 ^ 19) :
    x / 2 ^ 24 % 2 ^ 7 = op % 128 ∧
    bf 19 x 0 = f0 ∧
    x / 2 ^ 19 % 2 ^ 5 = g19 := by
  have := f0.isLt
  refine ⟨by omega, BitVec.eq_of_toNat_eq (by simp only [bf, BitVec.toNat_ofNat]; omega), by omega⟩

/-- The fields of a word with 2 fields at 0, 19. -/
theorem Sys2Proof.Laws.fields_19at0_3at19 {x : Nat} (op : Nat) (f0 : BitVec 19) (f19 : BitVec 3) (g22 : Nat) (k22 : g22 < 2 ^ 2)
    (hx : x = op * 2 ^ 24 + f0.toNat * 2 ^ 0 + f19.toNat * 2 ^ 19 + g22 * 2 ^ 22) :
    x / 2 ^ 24 % 2 ^ 7 = op % 128 ∧
    bf 19 x 0 = f0 ∧
    bf 3 x 19 = f19 ∧
    x / 2 ^ 22 % 2 ^ 2 = g22 := by
  have := f0.isLt
  have := f19.isLt
  refine ⟨by omega, BitVec.eq_of_toNat_eq (by simp only [bf, BitVec.toNat_ofNat]; omega), BitVec.eq_of_toNat_eq (by simp only [bf, BitVec.toNat_ofNat]; omega), by omega⟩

/-- The fields of a word with 1 fields at 18. -/
theorem Sys2Proof.Laws.fields_6at18 {x : Nat} (op : Nat) (f18 : BitVec 6) (g0 : Nat) (k0 : g0 < 2 ^ 18)
    (hx : x = op * 2 ^ 24 + f18.toNat * 2 ^ 18 + g0 * 2 ^ 0) :
    x / 2 ^ 24 % 2 ^ 7 = op % 128 ∧
    bf 6 x 18 = f18 ∧
    x / 2 ^ 0 % 2 ^ 18 = g0 := by
  have := f18.isLt
  refine ⟨by omega, BitVec.eq_of_toNat_eq (by simp only [bf, BitVec.toNat_ofNat]; omega), by omega⟩

/-- The fields of a word with 2 fields at 0, 18. -/
theorem Sys2Proof.Laws.fields_6at0_6at18 {x : Nat} (op : Nat) (f0 : BitVec 6) (f18 : BitVec 6) (g6 : Nat) (k6 : g6 < 2 ^ 12)
    (hx : x = op * 2 ^ 24 + f0.toNat * 2 ^ 0 + f18.toNat * 2 ^ 18 + g6 * 2 ^ 6) :
    x / 2 ^ 24 % 2 ^ 7 = op % 128 ∧
    bf 6 x 0 = f0 ∧
    bf 6 x 18 = f18 ∧
    x / 2 ^ 6 % 2 ^ 12 = g6 := by
  have := f0.isLt
  have := f18.isLt
  refine ⟨by omega, BitVec.eq_of_toNat_eq (by simp only [bf, BitVec.toNat_ofNat]; omega), BitVec.eq_of_toNat_eq (by simp only [bf, BitVec.toNat_ofNat]; omega), by omega⟩

/-- The fields of a word with 1 fields at 0. -/
theorem Sys2Proof.Laws.fields_24at0 {x : Nat} (op : Nat) (f0 : BitVec 24)  
    (hx : x = op * 2 ^ 24 + f0.toNat * 2 ^ 0) :
    x / 2 ^ 24 % 2 ^ 7 = op % 128 ∧
    bf 24 x 0 = f0 := by
  have := f0.isLt
  refine ⟨by omega, BitVec.eq_of_toNat_eq (by simp only [bf, BitVec.toNat_ofNat]; omega)⟩

/-- The fields of a word with 6 fields at 12, 14, 15, 16, 17, 18. -/
theorem Sys2Proof.Laws.fields_2at12_1at14_1at15_1at16_1at17_6at18 {x : Nat} (op : Nat) (f12 : BitVec 2) (f14 : BitVec 1) (f15 : BitVec 1) (f16 : BitVec 1) (f17 : BitVec 1) (f18 : BitVec 6) (g0 : Nat) (k0 : g0 < 2 ^ 12)
    (hx : x = op * 2 ^ 24 + f12.toNat * 2 ^ 12 + f14.toNat * 2 ^ 14 + f15.toNat * 2 ^ 15 + f16.toNat * 2 ^ 16 + f17.toNat * 2 ^ 17 + f18.toNat * 2 ^ 18 + g0 * 2 ^ 0) :
    x / 2 ^ 24 % 2 ^ 7 = op % 128 ∧
    bf 2 x 12 = f12 ∧
    bf 1 x 14 = f14 ∧
    bf 1 x 15 = f15 ∧
    bf 1 x 16 = f16 ∧
    bf 1 x 17 = f17 ∧
    bf 6 x 18 = f18 ∧
    x / 2 ^ 0 % 2 ^ 12 = g0 := by
  have := f12.isLt
  have := f14.isLt
  have := f15.isLt
  have := f16.isLt
  have := f17.isLt
  have := f18.isLt
  refine ⟨by omega, BitVec.eq_of_toNat_eq (by simp only [bf, BitVec.toNat_ofNat]; omega), BitVec.eq_of_toNat_eq (by simp only [bf, BitVec.toNat_ofNat]; omega), BitVec.eq_of_toNat_eq (by simp only [bf, BitVec.toNat_ofNat]; omega), BitVec.eq_of_toNat_eq (by simp only [bf, BitVec.toNat_ofNat]; omega), BitVec.eq_of_toNat_eq (by simp only [bf, BitVec.toNat_ofNat]; omega), BitVec.eq_of_toNat_eq (by simp only [bf, BitVec.toNat_ofNat]; omega), by omega⟩

/-- The fields of a word with 1 fields at 0. -/
theorem Sys2Proof.Laws.fields_6at0 {x : Nat} (op : Nat) (f0 : BitVec 6) (g6 : Nat) (k6 : g6 < 2 ^ 18)
    (hx : x = op * 2 ^ 24 + f0.toNat * 2 ^ 0 + g6 * 2 ^ 6) :
    x / 2 ^ 24 % 2 ^ 7 = op % 128 ∧
    bf 6 x 0 = f0 ∧
    x / 2 ^ 6 % 2 ^ 18 = g6 := by
  have := f0.isLt
  refine ⟨by omega, BitVec.eq_of_toNat_eq (by simp only [bf, BitVec.toNat_ofNat]; omega), by omega⟩

/-- The fields of a word with 3 fields at 6, 12, 18. -/
theorem Sys2Proof.Laws.fields_6at6_6at12_6at18 {x : Nat} (op : Nat) (f6 : BitVec 6) (f12 : BitVec 6) (f18 : BitVec 6) (g0 : Nat) (k0 : g0 < 2 ^ 6)
    (hx : x = op * 2 ^ 24 + f6.toNat * 2 ^ 6 + f12.toNat * 2 ^ 12 + f18.toNat * 2 ^ 18 + g0 * 2 ^ 0) :
    x / 2 ^ 24 % 2 ^ 7 = op % 128 ∧
    bf 6 x 6 = f6 ∧
    bf 6 x 12 = f12 ∧
    bf 6 x 18 = f18 ∧
    x / 2 ^ 0 % 2 ^ 6 = g0 := by
  have := f6.isLt
  have := f12.isLt
  have := f18.isLt
  refine ⟨by omega, BitVec.eq_of_toNat_eq (by simp only [bf, BitVec.toNat_ofNat]; omega), BitVec.eq_of_toNat_eq (by simp only [bf, BitVec.toNat_ofNat]; omega), BitVec.eq_of_toNat_eq (by simp only [bf, BitVec.toNat_ofNat]; omega), by omega⟩

/-- The fields of a word with 2 fields at 12, 18. -/
theorem Sys2Proof.Laws.fields_6at12_6at18 {x : Nat} (op : Nat) (f12 : BitVec 6) (f18 : BitVec 6) (g0 : Nat) (k0 : g0 < 2 ^ 12)
    (hx : x = op * 2 ^ 24 + f12.toNat * 2 ^ 12 + f18.toNat * 2 ^ 18 + g0 * 2 ^ 0) :
    x / 2 ^ 24 % 2 ^ 7 = op % 128 ∧
    bf 6 x 12 = f12 ∧
    bf 6 x 18 = f18 ∧
    x / 2 ^ 0 % 2 ^ 12 = g0 := by
  have := f12.isLt
  have := f18.isLt
  refine ⟨by omega, BitVec.eq_of_toNat_eq (by simp only [bf, BitVec.toNat_ofNat]; omega), BitVec.eq_of_toNat_eq (by simp only [bf, BitVec.toNat_ofNat]; omega), by omega⟩

/-- The fields of a word with 4 fields at 0, 6, 12, 18. -/
theorem Sys2Proof.Laws.fields_6at0_6at6_6at12_3at18 {x : Nat} (op : Nat) (f0 : BitVec 6) (f6 : BitVec 6) (f12 : BitVec 6) (f18 : BitVec 3) (g21 : Nat) (k21 : g21 < 2 ^ 3)
    (hx : x = op * 2 ^ 24 + f0.toNat * 2 ^ 0 + f6.toNat * 2 ^ 6 + f12.toNat * 2 ^ 12 + f18.toNat * 2 ^ 18 + g21 * 2 ^ 21) :
    x / 2 ^ 24 % 2 ^ 7 = op % 128 ∧
    bf 6 x 0 = f0 ∧
    bf 6 x 6 = f6 ∧
    bf 6 x 12 = f12 ∧
    bf 3 x 18 = f18 ∧
    x / 2 ^ 21 % 2 ^ 3 = g21 := by
  have := f0.isLt
  have := f6.isLt
  have := f12.isLt
  have := f18.isLt
  refine ⟨by omega, BitVec.eq_of_toNat_eq (by simp only [bf, BitVec.toNat_ofNat]; omega), BitVec.eq_of_toNat_eq (by simp only [bf, BitVec.toNat_ofNat]; omega), BitVec.eq_of_toNat_eq (by simp only [bf, BitVec.toNat_ofNat]; omega), BitVec.eq_of_toNat_eq (by simp only [bf, BitVec.toNat_ofNat]; omega), by omega⟩

/-- The fields of a word with 4 fields at 0, 6, 12, 18. -/
theorem Sys2Proof.Laws.fields_3at0_6at6_6at12_6at18 {x : Nat} (op : Nat) (f0 : BitVec 3) (f6 : BitVec 6) (f12 : BitVec 6) (f18 : BitVec 6) (g3 : Nat) (k3 : g3 < 2 ^ 3)
    (hx : x = op * 2 ^ 24 + f0.toNat * 2 ^ 0 + f6.toNat * 2 ^ 6 + f12.toNat * 2 ^ 12 + f18.toNat * 2 ^ 18 + g3 * 2 ^ 3) :
    x / 2 ^ 24 % 2 ^ 7 = op % 128 ∧
    bf 3 x 0 = f0 ∧
    bf 6 x 6 = f6 ∧
    bf 6 x 12 = f12 ∧
    bf 6 x 18 = f18 ∧
    x / 2 ^ 3 % 2 ^ 3 = g3 := by
  have := f0.isLt
  have := f6.isLt
  have := f12.isLt
  have := f18.isLt
  refine ⟨by omega, BitVec.eq_of_toNat_eq (by simp only [bf, BitVec.toNat_ofNat]; omega), BitVec.eq_of_toNat_eq (by simp only [bf, BitVec.toNat_ofNat]; omega), BitVec.eq_of_toNat_eq (by simp only [bf, BitVec.toNat_ofNat]; omega), BitVec.eq_of_toNat_eq (by simp only [bf, BitVec.toNat_ofNat]; omega), by omega⟩

/-- The fields of a word with 2 fields at 0, 18. -/
theorem Sys2Proof.Laws.fields_18at0_6at18 {x : Nat} (op : Nat) (f0 : BitVec 18) (f18 : BitVec 6)  
    (hx : x = op * 2 ^ 24 + f0.toNat * 2 ^ 0 + f18.toNat * 2 ^ 18) :
    x / 2 ^ 24 % 2 ^ 7 = op % 128 ∧
    bf 18 x 0 = f0 ∧
    bf 6 x 18 = f18 := by
  have := f0.isLt
  have := f18.isLt
  refine ⟨by omega, BitVec.eq_of_toNat_eq (by simp only [bf, BitVec.toNat_ofNat]; omega), BitVec.eq_of_toNat_eq (by simp only [bf, BitVec.toNat_ofNat]; omega)⟩

/-- The fields of a word with 3 fields at 0, 12, 18. -/
theorem Sys2Proof.Laws.fields_12at0_6at12_6at18 {x : Nat} (op : Nat) (f0 : BitVec 12) (f12 : BitVec 6) (f18 : BitVec 6)  
    (hx : x = op * 2 ^ 24 + f0.toNat * 2 ^ 0 + f12.toNat * 2 ^ 12 + f18.toNat * 2 ^ 18) :
    x / 2 ^ 24 % 2 ^ 7 = op % 128 ∧
    bf 12 x 0 = f0 ∧
    bf 6 x 12 = f12 ∧
    bf 6 x 18 = f18 := by
  have := f0.isLt
  have := f12.isLt
  have := f18.isLt
  refine ⟨by omega, BitVec.eq_of_toNat_eq (by simp only [bf, BitVec.toNat_ofNat]; omega), BitVec.eq_of_toNat_eq (by simp only [bf, BitVec.toNat_ofNat]; omega), BitVec.eq_of_toNat_eq (by simp only [bf, BitVec.toNat_ofNat]; omega)⟩

/-- The fields of a word with 2 fields at 0, 18. -/
theorem Sys2Proof.Laws.fields_12at0_6at18 {x : Nat} (op : Nat) (f0 : BitVec 12) (f18 : BitVec 6) (g12 : Nat) (k12 : g12 < 2 ^ 6)
    (hx : x = op * 2 ^ 24 + f0.toNat * 2 ^ 0 + f18.toNat * 2 ^ 18 + g12 * 2 ^ 12) :
    x / 2 ^ 24 % 2 ^ 7 = op % 128 ∧
    bf 12 x 0 = f0 ∧
    bf 6 x 18 = f18 ∧
    x / 2 ^ 12 % 2 ^ 6 = g12 := by
  have := f0.isLt
  have := f18.isLt
  refine ⟨by omega, BitVec.eq_of_toNat_eq (by simp only [bf, BitVec.toNat_ofNat]; omega), BitVec.eq_of_toNat_eq (by simp only [bf, BitVec.toNat_ofNat]; omega), by omega⟩

/-- The fields of a word with 2 fields at 0, 12. -/
theorem Sys2Proof.Laws.fields_12at0_6at12 {x : Nat} (op : Nat) (f0 : BitVec 12) (f12 : BitVec 6) (g18 : Nat) (k18 : g18 < 2 ^ 6)
    (hx : x = op * 2 ^ 24 + f0.toNat * 2 ^ 0 + f12.toNat * 2 ^ 12 + g18 * 2 ^ 18) :
    x / 2 ^ 24 % 2 ^ 7 = op % 128 ∧
    bf 12 x 0 = f0 ∧
    bf 6 x 12 = f12 ∧
    x / 2 ^ 18 % 2 ^ 6 = g18 := by
  have := f0.isLt
  have := f12.isLt
  refine ⟨by omega, BitVec.eq_of_toNat_eq (by simp only [bf, BitVec.toNat_ofNat]; omega), BitVec.eq_of_toNat_eq (by simp only [bf, BitVec.toNat_ofNat]; omega), by omega⟩

/-- The fields of a word with 4 fields at 0, 8, 16, 23. -/
theorem Sys2Proof.Laws.fields_8at0_8at8_7at16_1at23 {x : Nat} (op : Nat) (f0 : BitVec 8) (f8 : BitVec 8) (f16 : BitVec 7) (f23 : BitVec 1)  
    (hx : x = op * 2 ^ 24 + f0.toNat * 2 ^ 0 + f8.toNat * 2 ^ 8 + f16.toNat * 2 ^ 16 + f23.toNat * 2 ^ 23) :
    x / 2 ^ 24 % 2 ^ 7 = op % 128 ∧
    bf 8 x 0 = f0 ∧
    bf 8 x 8 = f8 ∧
    bf 7 x 16 = f16 ∧
    bf 1 x 23 = f23 := by
  have := f0.isLt
  have := f8.isLt
  have := f16.isLt
  have := f23.isLt
  refine ⟨by omega, BitVec.eq_of_toNat_eq (by simp only [bf, BitVec.toNat_ofNat]; omega), BitVec.eq_of_toNat_eq (by simp only [bf, BitVec.toNat_ofNat]; omega), BitVec.eq_of_toNat_eq (by simp only [bf, BitVec.toNat_ofNat]; omega), BitVec.eq_of_toNat_eq (by simp only [bf, BitVec.toNat_ofNat]; omega)⟩

/-- The fields of a word with 4 fields at 0, 8, 16, 19. -/
theorem Sys2Proof.Laws.fields_8at0_8at8_3at16_4at19 {x : Nat} (op : Nat) (f0 : BitVec 8) (f8 : BitVec 8) (f16 : BitVec 3) (f19 : BitVec 4) (g23 : Nat) (k23 : g23 < 2 ^ 1)
    (hx : x = op * 2 ^ 24 + f0.toNat * 2 ^ 0 + f8.toNat * 2 ^ 8 + f16.toNat * 2 ^ 16 + f19.toNat * 2 ^ 19 + g23 * 2 ^ 23) :
    x / 2 ^ 24 % 2 ^ 7 = op % 128 ∧
    bf 8 x 0 = f0 ∧
    bf 8 x 8 = f8 ∧
    bf 3 x 16 = f16 ∧
    bf 4 x 19 = f19 ∧
    x / 2 ^ 23 % 2 ^ 1 = g23 := by
  have := f0.isLt
  have := f8.isLt
  have := f16.isLt
  have := f19.isLt
  refine ⟨by omega, BitVec.eq_of_toNat_eq (by simp only [bf, BitVec.toNat_ofNat]; omega), BitVec.eq_of_toNat_eq (by simp only [bf, BitVec.toNat_ofNat]; omega), BitVec.eq_of_toNat_eq (by simp only [bf, BitVec.toNat_ofNat]; omega), BitVec.eq_of_toNat_eq (by simp only [bf, BitVec.toNat_ofNat]; omega), by omega⟩

/-- The fields of a word with 3 fields at 8, 16, 23. -/
theorem Sys2Proof.Laws.fields_8at8_7at16_1at23 {x : Nat} (op : Nat) (f8 : BitVec 8) (f16 : BitVec 7) (f23 : BitVec 1) (g0 : Nat) (k0 : g0 < 2 ^ 8)
    (hx : x = op * 2 ^ 24 + f8.toNat * 2 ^ 8 + f16.toNat * 2 ^ 16 + f23.toNat * 2 ^ 23 + g0 * 2 ^ 0) :
    x / 2 ^ 24 % 2 ^ 7 = op % 128 ∧
    bf 8 x 8 = f8 ∧
    bf 7 x 16 = f16 ∧
    bf 1 x 23 = f23 ∧
    x / 2 ^ 0 % 2 ^ 8 = g0 := by
  have := f8.isLt
  have := f16.isLt
  have := f23.isLt
  refine ⟨by omega, BitVec.eq_of_toNat_eq (by simp only [bf, BitVec.toNat_ofNat]; omega), BitVec.eq_of_toNat_eq (by simp only [bf, BitVec.toNat_ofNat]; omega), BitVec.eq_of_toNat_eq (by simp only [bf, BitVec.toNat_ofNat]; omega), by omega⟩

/-- The fields of a word with 3 fields at 8, 16, 23. -/
theorem Sys2Proof.Laws.fields_3at8_7at16_1at23 {x : Nat} (op : Nat) (f8 : BitVec 3) (f16 : BitVec 7) (f23 : BitVec 1) (g0 : Nat) (g11 : Nat) (k0 : g0 < 2 ^ 8) (k11 : g11 < 2 ^ 5)
    (hx : x = op * 2 ^ 24 + f8.toNat * 2 ^ 8 + f16.toNat * 2 ^ 16 + f23.toNat * 2 ^ 23 + g0 * 2 ^ 0 + g11 * 2 ^ 11) :
    x / 2 ^ 24 % 2 ^ 7 = op % 128 ∧
    bf 3 x 8 = f8 ∧
    bf 7 x 16 = f16 ∧
    bf 1 x 23 = f23 ∧
    x / 2 ^ 0 % 2 ^ 8 = g0 ∧
    x / 2 ^ 11 % 2 ^ 5 = g11 := by
  have := f8.isLt
  have := f16.isLt
  have := f23.isLt
  refine ⟨by omega, BitVec.eq_of_toNat_eq (by simp only [bf, BitVec.toNat_ofNat]; omega), BitVec.eq_of_toNat_eq (by simp only [bf, BitVec.toNat_ofNat]; omega), BitVec.eq_of_toNat_eq (by simp only [bf, BitVec.toNat_ofNat]; omega), by omega, by omega⟩

/-- The fields of a word with 2 fields at 8, 16. -/
theorem Sys2Proof.Laws.fields_8at8_3at16 {x : Nat} (op : Nat) (f8 : BitVec 8) (f16 : BitVec 3) (g0 : Nat) (g19 : Nat) (k0 : g0 < 2 ^ 8) (k19 : g19 < 2 ^ 5)
    (hx : x = op * 2 ^ 24 + f8.toNat * 2 ^ 8 + f16.toNat * 2 ^ 16 + g0 * 2 ^ 0 + g19 * 2 ^ 19) :
    x / 2 ^ 24 % 2 ^ 7 = op % 128 ∧
    bf 8 x 8 = f8 ∧
    bf 3 x 16 = f16 ∧
    x / 2 ^ 0 % 2 ^ 8 = g0 ∧
    x / 2 ^ 19 % 2 ^ 5 = g19 := by
  have := f8.isLt
  have := f16.isLt
  refine ⟨by omega, BitVec.eq_of_toNat_eq (by simp only [bf, BitVec.toNat_ofNat]; omega), BitVec.eq_of_toNat_eq (by simp only [bf, BitVec.toNat_ofNat]; omega), by omega, by omega⟩

/-- The fields of a word with 5 fields at 0, 5, 8, 16, 23. -/
theorem Sys2Proof.Laws.fields_5at0_3at5_8at8_7at16_1at23 {x : Nat} (op : Nat) (f0 : BitVec 5) (f5 : BitVec 3) (f8 : BitVec 8) (f16 : BitVec 7) (f23 : BitVec 1)  
    (hx : x = op * 2 ^ 24 + f0.toNat * 2 ^ 0 + f5.toNat * 2 ^ 5 + f8.toNat * 2 ^ 8 + f16.toNat * 2 ^ 16 + f23.toNat * 2 ^ 23) :
    x / 2 ^ 24 % 2 ^ 7 = op % 128 ∧
    bf 5 x 0 = f0 ∧
    bf 3 x 5 = f5 ∧
    bf 8 x 8 = f8 ∧
    bf 7 x 16 = f16 ∧
    bf 1 x 23 = f23 := by
  have := f0.isLt
  have := f5.isLt
  have := f8.isLt
  have := f16.isLt
  have := f23.isLt
  refine ⟨by omega, BitVec.eq_of_toNat_eq (by simp only [bf, BitVec.toNat_ofNat]; omega), BitVec.eq_of_toNat_eq (by simp only [bf, BitVec.toNat_ofNat]; omega), BitVec.eq_of_toNat_eq (by simp only [bf, BitVec.toNat_ofNat]; omega), BitVec.eq_of_toNat_eq (by simp only [bf, BitVec.toNat_ofNat]; omega), BitVec.eq_of_toNat_eq (by simp only [bf, BitVec.toNat_ofNat]; omega)⟩

/-- The fields of a word with 1 fields at 8. -/
theorem Sys2Proof.Laws.fields_8at8 {x : Nat} (op : Nat) (f8 : BitVec 8) (g0 : Nat) (g16 : Nat) (k0 : g0 < 2 ^ 8) (k16 : g16 < 2 ^ 8)
    (hx : x = op * 2 ^ 24 + f8.toNat * 2 ^ 8 + g0 * 2 ^ 0 + g16 * 2 ^ 16) :
    x / 2 ^ 24 % 2 ^ 7 = op % 128 ∧
    bf 8 x 8 = f8 ∧
    x / 2 ^ 0 % 2 ^ 8 = g0 ∧
    x / 2 ^ 16 % 2 ^ 8 = g16 := by
  have := f8.isLt
  refine ⟨by omega, BitVec.eq_of_toNat_eq (by simp only [bf, BitVec.toNat_ofNat]; omega), by omega, by omega⟩

/-- The fields of a word with 4 fields at 0, 8, 16, 23. -/
theorem Sys2Proof.Laws.fields_4at0_8at8_7at16_1at23 {x : Nat} (op : Nat) (f0 : BitVec 4) (f8 : BitVec 8) (f16 : BitVec 7) (f23 : BitVec 1) (g4 : Nat) (k4 : g4 < 2 ^ 4)
    (hx : x = op * 2 ^ 24 + f0.toNat * 2 ^ 0 + f8.toNat * 2 ^ 8 + f16.toNat * 2 ^ 16 + f23.toNat * 2 ^ 23 + g4 * 2 ^ 4) :
    x / 2 ^ 24 % 2 ^ 7 = op % 128 ∧
    bf 4 x 0 = f0 ∧
    bf 8 x 8 = f8 ∧
    bf 7 x 16 = f16 ∧
    bf 1 x 23 = f23 ∧
    x / 2 ^ 4 % 2 ^ 4 = g4 := by
  have := f0.isLt
  have := f8.isLt
  have := f16.isLt
  have := f23.isLt
  refine ⟨by omega, BitVec.eq_of_toNat_eq (by simp only [bf, BitVec.toNat_ofNat]; omega), BitVec.eq_of_toNat_eq (by simp only [bf, BitVec.toNat_ofNat]; omega), BitVec.eq_of_toNat_eq (by simp only [bf, BitVec.toNat_ofNat]; omega), BitVec.eq_of_toNat_eq (by simp only [bf, BitVec.toNat_ofNat]; omega), by omega⟩

/-- The fields of a word with 5 fields at 0, 3, 8, 16, 23. -/
theorem Sys2Proof.Laws.fields_3at0_5at3_8at8_7at16_1at23 {x : Nat} (op : Nat) (f0 : BitVec 3) (f3 : BitVec 5) (f8 : BitVec 8) (f16 : BitVec 7) (f23 : BitVec 1)  
    (hx : x = op * 2 ^ 24 + f0.toNat * 2 ^ 0 + f3.toNat * 2 ^ 3 + f8.toNat * 2 ^ 8 + f16.toNat * 2 ^ 16 + f23.toNat * 2 ^ 23) :
    x / 2 ^ 24 % 2 ^ 7 = op % 128 ∧
    bf 3 x 0 = f0 ∧
    bf 5 x 3 = f3 ∧
    bf 8 x 8 = f8 ∧
    bf 7 x 16 = f16 ∧
    bf 1 x 23 = f23 := by
  have := f0.isLt
  have := f3.isLt
  have := f8.isLt
  have := f16.isLt
  have := f23.isLt
  refine ⟨by omega, BitVec.eq_of_toNat_eq (by simp only [bf, BitVec.toNat_ofNat]; omega), BitVec.eq_of_toNat_eq (by simp only [bf, BitVec.toNat_ofNat]; omega), BitVec.eq_of_toNat_eq (by simp only [bf, BitVec.toNat_ofNat]; omega), BitVec.eq_of_toNat_eq (by simp only [bf, BitVec.toNat_ofNat]; omega), BitVec.eq_of_toNat_eq (by simp only [bf, BitVec.toNat_ofNat]; omega)⟩

/-- The fields of a word with 5 fields at 0, 3, 8, 16, 23. -/
theorem Sys2Proof.Laws.fields_1at0_5at3_8at8_7at16_1at23 {x : Nat} (op : Nat) (f0 : BitVec 1) (f3 : BitVec 5) (f8 : BitVec 8) (f16 : BitVec 7) (f23 : BitVec 1) (g1 : Nat) (k1 : g1 < 2 ^ 2)
    (hx : x = op * 2 ^ 24 + f0.toNat * 2 ^ 0 + f3.toNat * 2 ^ 3 + f8.toNat * 2 ^ 8 + f16.toNat * 2 ^ 16 + f23.toNat * 2 ^ 23 + g1 * 2 ^ 1) :
    x / 2 ^ 24 % 2 ^ 7 = op % 128 ∧
    bf 1 x 0 = f0 ∧
    bf 5 x 3 = f3 ∧
    bf 8 x 8 = f8 ∧
    bf 7 x 16 = f16 ∧
    bf 1 x 23 = f23 ∧
    x / 2 ^ 1 % 2 ^ 2 = g1 := by
  have := f0.isLt
  have := f3.isLt
  have := f8.isLt
  have := f16.isLt
  have := f23.isLt
  refine ⟨by omega, BitVec.eq_of_toNat_eq (by simp only [bf, BitVec.toNat_ofNat]; omega), BitVec.eq_of_toNat_eq (by simp only [bf, BitVec.toNat_ofNat]; omega), BitVec.eq_of_toNat_eq (by simp only [bf, BitVec.toNat_ofNat]; omega), BitVec.eq_of_toNat_eq (by simp only [bf, BitVec.toNat_ofNat]; omega), BitVec.eq_of_toNat_eq (by simp only [bf, BitVec.toNat_ofNat]; omega), by omega⟩

/-- The fields of a word with 4 fields at 0, 3, 8, 16. -/
theorem Sys2Proof.Laws.fields_3at0_3at3_8at8_7at16 {x : Nat} (op : Nat) (f0 : BitVec 3) (f3 : BitVec 3) (f8 : BitVec 8) (f16 : BitVec 7) (g6 : Nat) (g23 : Nat) (k6 : g6 < 2 ^ 2) (k23 : g23 < 2 ^ 1)
    (hx : x = op * 2 ^ 24 + f0.toNat * 2 ^ 0 + f3.toNat * 2 ^ 3 + f8.toNat * 2 ^ 8 + f16.toNat * 2 ^ 16 + g6 * 2 ^ 6 + g23 * 2 ^ 23) :
    x / 2 ^ 24 % 2 ^ 7 = op % 128 ∧
    bf 3 x 0 = f0 ∧
    bf 3 x 3 = f3 ∧
    bf 8 x 8 = f8 ∧
    bf 7 x 16 = f16 ∧
    x / 2 ^ 6 % 2 ^ 2 = g6 ∧
    x / 2 ^ 23 % 2 ^ 1 = g23 := by
  have := f0.isLt
  have := f3.isLt
  have := f8.isLt
  have := f16.isLt
  refine ⟨by omega, BitVec.eq_of_toNat_eq (by simp only [bf, BitVec.toNat_ofNat]; omega), BitVec.eq_of_toNat_eq (by simp only [bf, BitVec.toNat_ofNat]; omega), BitVec.eq_of_toNat_eq (by simp only [bf, BitVec.toNat_ofNat]; omega), BitVec.eq_of_toNat_eq (by simp only [bf, BitVec.toNat_ofNat]; omega), by omega, by omega⟩

/-- The fields of a word with 3 fields at 0, 3, 8. -/
theorem Sys2Proof.Laws.fields_3at0_5at3_8at8 {x : Nat} (op : Nat) (f0 : BitVec 3) (f3 : BitVec 5) (f8 : BitVec 8) (g16 : Nat) (k16 : g16 < 2 ^ 8)
    (hx : x = op * 2 ^ 24 + f0.toNat * 2 ^ 0 + f3.toNat * 2 ^ 3 + f8.toNat * 2 ^ 8 + g16 * 2 ^ 16) :
    x / 2 ^ 24 % 2 ^ 7 = op % 128 ∧
    bf 3 x 0 = f0 ∧
    bf 5 x 3 = f3 ∧
    bf 8 x 8 = f8 ∧
    x / 2 ^ 16 % 2 ^ 8 = g16 := by
  have := f0.isLt
  have := f3.isLt
  have := f8.isLt
  refine ⟨by omega, BitVec.eq_of_toNat_eq (by simp only [bf, BitVec.toNat_ofNat]; omega), BitVec.eq_of_toNat_eq (by simp only [bf, BitVec.toNat_ofNat]; omega), BitVec.eq_of_toNat_eq (by simp only [bf, BitVec.toNat_ofNat]; omega), by omega⟩

/-- The fields of a word with 2 fields at 0, 3. -/
theorem Sys2Proof.Laws.fields_3at0_3at3 {x : Nat} (op : Nat) (f0 : BitVec 3) (f3 : BitVec 3) (g6 : Nat) (k6 : g6 < 2 ^ 18)
    (hx : x = op * 2 ^ 24 + f0.toNat * 2 ^ 0 + f3.toNat * 2 ^ 3 + g6 * 2 ^ 6) :
    x / 2 ^ 24 % 2 ^ 7 = op % 128 ∧
    bf 3 x 0 = f0 ∧
    bf 3 x 3 = f3 ∧
    x / 2 ^ 6 % 2 ^ 18 = g6 := by
  have := f0.isLt
  have := f3.isLt
  refine ⟨by omega, BitVec.eq_of_toNat_eq (by simp only [bf, BitVec.toNat_ofNat]; omega), BitVec.eq_of_toNat_eq (by simp only [bf, BitVec.toNat_ofNat]; omega), by omega⟩

/-- The fields of a word with 2 fields at 6, 18. -/
theorem Sys2Proof.Laws.fields_6at6_6at18 {x : Nat} (op : Nat) (f6 : BitVec 6) (f18 : BitVec 6) (g0 : Nat) (g12 : Nat) (k0 : g0 < 2 ^ 6) (k12 : g12 < 2 ^ 6)
    (hx : x = op * 2 ^ 24 + f6.toNat * 2 ^ 6 + f18.toNat * 2 ^ 18 + g0 * 2 ^ 0 + g12 * 2 ^ 12) :
    x / 2 ^ 24 % 2 ^ 7 = op % 128 ∧
    bf 6 x 6 = f6 ∧
    bf 6 x 18 = f18 ∧
    x / 2 ^ 0 % 2 ^ 6 = g0 ∧
    x / 2 ^ 12 % 2 ^ 6 = g12 := by
  have := f6.isLt
  have := f18.isLt
  refine ⟨by omega, BitVec.eq_of_toNat_eq (by simp only [bf, BitVec.toNat_ofNat]; omega), BitVec.eq_of_toNat_eq (by simp only [bf, BitVec.toNat_ofNat]; omega), by omega, by omega⟩

/-- The fields of a word with 1 fields at 6. -/
theorem Sys2Proof.Laws.fields_6at6 {x : Nat} (op : Nat) (f6 : BitVec 6) (g0 : Nat) (g12 : Nat) (k0 : g0 < 2 ^ 6) (k12 : g12 < 2 ^ 12)
    (hx : x = op * 2 ^ 24 + f6.toNat * 2 ^ 6 + g0 * 2 ^ 0 + g12 * 2 ^ 12) :
    x / 2 ^ 24 % 2 ^ 7 = op % 128 ∧
    bf 6 x 6 = f6 ∧
    x / 2 ^ 0 % 2 ^ 6 = g0 ∧
    x / 2 ^ 12 % 2 ^ 12 = g12 := by
  have := f6.isLt
  refine ⟨by omega, BitVec.eq_of_toNat_eq (by simp only [bf, BitVec.toNat_ofNat]; omega), by omega, by omega⟩

/-- The fields of a word with 2 fields at 6, 18. -/
theorem Sys2Proof.Laws.fields_4at6_6at18 {x : Nat} (op : Nat) (f6 : BitVec 4) (f18 : BitVec 6) (g0 : Nat) (g10 : Nat) (k0 : g0 < 2 ^ 6) (k10 : g10 < 2 ^ 8)
    (hx : x = op * 2 ^ 24 + f6.toNat * 2 ^ 6 + f18.toNat * 2 ^ 18 + g0 * 2 ^ 0 + g10 * 2 ^ 10) :
    x / 2 ^ 24 % 2 ^ 7 = op % 128 ∧
    bf 4 x 6 = f6 ∧
    bf 6 x 18 = f18 ∧
    x / 2 ^ 0 % 2 ^ 6 = g0 ∧
    x / 2 ^ 10 % 2 ^ 8 = g10 := by
  have := f6.isLt
  have := f18.isLt
  refine ⟨by omega, BitVec.eq_of_toNat_eq (by simp only [bf, BitVec.toNat_ofNat]; omega), BitVec.eq_of_toNat_eq (by simp only [bf, BitVec.toNat_ofNat]; omega), by omega, by omega⟩

/-- The fields of a word with 3 fields at 6, 12, 18. -/
theorem Sys2Proof.Laws.fields_4at6_3at12_6at18 {x : Nat} (op : Nat) (f6 : BitVec 4) (f12 : BitVec 3) (f18 : BitVec 6) (g0 : Nat) (g10 : Nat) (g15 : Nat) (k0 : g0 < 2 ^ 6) (k10 : g10 < 2 ^ 2) (k15 : g15 < 2 ^ 3)
    (hx : x = op * 2 ^ 24 + f6.toNat * 2 ^ 6 + f12.toNat * 2 ^ 12 + f18.toNat * 2 ^ 18 + g0 * 2 ^ 0 + g10 * 2 ^ 10 + g15 * 2 ^ 15) :
    x / 2 ^ 24 % 2 ^ 7 = op % 128 ∧
    bf 4 x 6 = f6 ∧
    bf 3 x 12 = f12 ∧
    bf 6 x 18 = f18 ∧
    x / 2 ^ 0 % 2 ^ 6 = g0 ∧
    x / 2 ^ 10 % 2 ^ 2 = g10 ∧
    x / 2 ^ 15 % 2 ^ 3 = g15 := by
  have := f6.isLt
  have := f12.isLt
  have := f18.isLt
  refine ⟨by omega, BitVec.eq_of_toNat_eq (by simp only [bf, BitVec.toNat_ofNat]; omega), BitVec.eq_of_toNat_eq (by simp only [bf, BitVec.toNat_ofNat]; omega), BitVec.eq_of_toNat_eq (by simp only [bf, BitVec.toNat_ofNat]; omega), by omega, by omega, by omega⟩

/-- The fields of a word with 1 fields at 6. -/
theorem Sys2Proof.Laws.fields_4at6 {x : Nat} (op : Nat) (f6 : BitVec 4) (g0 : Nat) (g10 : Nat) (k0 : g0 < 2 ^ 6) (k10 : g10 < 2 ^ 14)
    (hx : x = op * 2 ^ 24 + f6.toNat * 2 ^ 6 + g0 * 2 ^ 0 + g10 * 2 ^ 10) :
    x / 2 ^ 24 % 2 ^ 7 = op % 128 ∧
    bf 4 x 6 = f6 ∧
    x / 2 ^ 0 % 2 ^ 6 = g0 ∧
    x / 2 ^ 10 % 2 ^ 14 = g10 := by
  have := f6.isLt
  refine ⟨by omega, BitVec.eq_of_toNat_eq (by simp only [bf, BitVec.toNat_ofNat]; omega), by omega, by omega⟩

/-- The fields of a word with 2 fields at 12, 18. -/
theorem Sys2Proof.Laws.fields_3at12_6at18 {x : Nat} (op : Nat) (f12 : BitVec 3) (f18 : BitVec 6) (g0 : Nat) (g15 : Nat) (k0 : g0 < 2 ^ 12) (k15 : g15 < 2 ^ 3)
    (hx : x = op * 2 ^ 24 + f12.toNat * 2 ^ 12 + f18.toNat * 2 ^ 18 + g0 * 2 ^ 0 + g15 * 2 ^ 15) :
    x / 2 ^ 24 % 2 ^ 7 = op % 128 ∧
    bf 3 x 12 = f12 ∧
    bf 6 x 18 = f18 ∧
    x / 2 ^ 0 % 2 ^ 12 = g0 ∧
    x / 2 ^ 15 % 2 ^ 3 = g15 := by
  have := f12.isLt
  have := f18.isLt
  refine ⟨by omega, BitVec.eq_of_toNat_eq (by simp only [bf, BitVec.toNat_ofNat]; omega), BitVec.eq_of_toNat_eq (by simp only [bf, BitVec.toNat_ofNat]; omega), by omega, by omega⟩

/-- The fields of a word with 3 fields at 6, 12, 18. -/
theorem Sys2Proof.Laws.fields_6at6_3at12_6at18 {x : Nat} (op : Nat) (f6 : BitVec 6) (f12 : BitVec 3) (f18 : BitVec 6) (g0 : Nat) (g15 : Nat) (k0 : g0 < 2 ^ 6) (k15 : g15 < 2 ^ 3)
    (hx : x = op * 2 ^ 24 + f6.toNat * 2 ^ 6 + f12.toNat * 2 ^ 12 + f18.toNat * 2 ^ 18 + g0 * 2 ^ 0 + g15 * 2 ^ 15) :
    x / 2 ^ 24 % 2 ^ 7 = op % 128 ∧
    bf 6 x 6 = f6 ∧
    bf 3 x 12 = f12 ∧
    bf 6 x 18 = f18 ∧
    x / 2 ^ 0 % 2 ^ 6 = g0 ∧
    x / 2 ^ 15 % 2 ^ 3 = g15 := by
  have := f6.isLt
  have := f12.isLt
  have := f18.isLt
  refine ⟨by omega, BitVec.eq_of_toNat_eq (by simp only [bf, BitVec.toNat_ofNat]; omega), BitVec.eq_of_toNat_eq (by simp only [bf, BitVec.toNat_ofNat]; omega), BitVec.eq_of_toNat_eq (by simp only [bf, BitVec.toNat_ofNat]; omega), by omega, by omega⟩

/-- The fields of a word with 3 fields at 3, 8, 16. -/
theorem Sys2Proof.Laws.fields_5at3_8at8_7at16 {x : Nat} (op : Nat) (f3 : BitVec 5) (f8 : BitVec 8) (f16 : BitVec 7) (g0 : Nat) (g23 : Nat) (k0 : g0 < 2 ^ 3) (k23 : g23 < 2 ^ 1)
    (hx : x = op * 2 ^ 24 + f3.toNat * 2 ^ 3 + f8.toNat * 2 ^ 8 + f16.toNat * 2 ^ 16 + g0 * 2 ^ 0 + g23 * 2 ^ 23) :
    x / 2 ^ 24 % 2 ^ 7 = op % 128 ∧
    bf 5 x 3 = f3 ∧
    bf 8 x 8 = f8 ∧
    bf 7 x 16 = f16 ∧
    x / 2 ^ 0 % 2 ^ 3 = g0 ∧
    x / 2 ^ 23 % 2 ^ 1 = g23 := by
  have := f3.isLt
  have := f8.isLt
  have := f16.isLt
  refine ⟨by omega, BitVec.eq_of_toNat_eq (by simp only [bf, BitVec.toNat_ofNat]; omega), BitVec.eq_of_toNat_eq (by simp only [bf, BitVec.toNat_ofNat]; omega), BitVec.eq_of_toNat_eq (by simp only [bf, BitVec.toNat_ofNat]; omega), by omega, by omega⟩

/-- The fields of a word with 2 fields at 12, 18. -/
theorem Sys2Proof.Laws.fields_2at12_6at18 {x : Nat} (op : Nat) (f12 : BitVec 2) (f18 : BitVec 6) (g0 : Nat) (g14 : Nat) (k0 : g0 < 2 ^ 12) (k14 : g14 < 2 ^ 4)
    (hx : x = op * 2 ^ 24 + f12.toNat * 2 ^ 12 + f18.toNat * 2 ^ 18 + g0 * 2 ^ 0 + g14 * 2 ^ 14) :
    x / 2 ^ 24 % 2 ^ 7 = op % 128 ∧
    bf 2 x 12 = f12 ∧
    bf 6 x 18 = f18 ∧
    x / 2 ^ 0 % 2 ^ 12 = g0 ∧
    x / 2 ^ 14 % 2 ^ 4 = g14 := by
  have := f12.isLt
  have := f18.isLt
  refine ⟨by omega, BitVec.eq_of_toNat_eq (by simp only [bf, BitVec.toNat_ofNat]; omega), BitVec.eq_of_toNat_eq (by simp only [bf, BitVec.toNat_ofNat]; omega), by omega, by omega⟩

/-- The fields of a word with 3 fields at 2, 12, 18. -/
theorem Sys2Proof.Laws.fields_1at2_6at12_6at18 {x : Nat} (op : Nat) (f2 : BitVec 1) (f12 : BitVec 6) (f18 : BitVec 6) (g0 : Nat) (g3 : Nat) (k0 : g0 < 2 ^ 2) (k3 : g3 < 2 ^ 9)
    (hx : x = op * 2 ^ 24 + f2.toNat * 2 ^ 2 + f12.toNat * 2 ^ 12 + f18.toNat * 2 ^ 18 + g0 * 2 ^ 0 + g3 * 2 ^ 3) :
    x / 2 ^ 24 % 2 ^ 7 = op % 128 ∧
    bf 1 x 2 = f2 ∧
    bf 6 x 12 = f12 ∧
    bf 6 x 18 = f18 ∧
    x / 2 ^ 0 % 2 ^ 2 = g0 ∧
    x / 2 ^ 3 % 2 ^ 9 = g3 := by
  have := f2.isLt
  have := f12.isLt
  have := f18.isLt
  refine ⟨by omega, BitVec.eq_of_toNat_eq (by simp only [bf, BitVec.toNat_ofNat]; omega), BitVec.eq_of_toNat_eq (by simp only [bf, BitVec.toNat_ofNat]; omega), BitVec.eq_of_toNat_eq (by simp only [bf, BitVec.toNat_ofNat]; omega), by omega, by omega⟩

/-- The fields of a word with 4 fields at 2, 6, 12, 18. -/
theorem Sys2Proof.Laws.fields_4at2_6at6_6at12_6at18 {x : Nat} (op : Nat) (f2 : BitVec 4) (f6 : BitVec 6) (f12 : BitVec 6) (f18 : BitVec 6) (g0 : Nat) (k0 : g0 < 2 ^ 2)
    (hx : x = op * 2 ^ 24 + f2.toNat * 2 ^ 2 + f6.toNat * 2 ^ 6 + f12.toNat * 2 ^ 12 + f18.toNat * 2 ^ 18 + g0 * 2 ^ 0) :
    x / 2 ^ 24 % 2 ^ 7 = op % 128 ∧
    bf 4 x 2 = f2 ∧
    bf 6 x 6 = f6 ∧
    bf 6 x 12 = f12 ∧
    bf 6 x 18 = f18 ∧
    x / 2 ^ 0 % 2 ^ 2 = g0 := by
  have := f2.isLt
  have := f6.isLt
  have := f12.isLt
  have := f18.isLt
  refine ⟨by omega, BitVec.eq_of_toNat_eq (by simp only [bf, BitVec.toNat_ofNat]; omega), BitVec.eq_of_toNat_eq (by simp only [bf, BitVec.toNat_ofNat]; omega), BitVec.eq_of_toNat_eq (by simp only [bf, BitVec.toNat_ofNat]; omega), BitVec.eq_of_toNat_eq (by simp only [bf, BitVec.toNat_ofNat]; omega), by omega⟩

/-- The fields of a word with 1 fields at 0. -/
theorem Sys2Proof.Laws.fields_4at0 {x : Nat} (op : Nat) (f0 : BitVec 4) (g4 : Nat) (k4 : g4 < 2 ^ 20)
    (hx : x = op * 2 ^ 24 + f0.toNat * 2 ^ 0 + g4 * 2 ^ 4) :
    x / 2 ^ 24 % 2 ^ 7 = op % 128 ∧
    bf 4 x 0 = f0 ∧
    x / 2 ^ 4 % 2 ^ 20 = g4 := by
  have := f0.isLt
  refine ⟨by omega, BitVec.eq_of_toNat_eq (by simp only [bf, BitVec.toNat_ofNat]; omega), by omega⟩

/-- The fields of a word with 2 fields at 8, 18. -/
theorem Sys2Proof.Laws.fields_10at8_6at18 {x : Nat} (op : Nat) (f8 : BitVec 10) (f18 : BitVec 6) (g0 : Nat) (k0 : g0 < 2 ^ 8)
    (hx : x = op * 2 ^ 24 + f8.toNat * 2 ^ 8 + f18.toNat * 2 ^ 18 + g0 * 2 ^ 0) :
    x / 2 ^ 24 % 2 ^ 7 = op % 128 ∧
    bf 10 x 8 = f8 ∧
    bf 6 x 18 = f18 ∧
    x / 2 ^ 0 % 2 ^ 8 = g0 := by
  have := f8.isLt
  have := f18.isLt
  refine ⟨by omega, BitVec.eq_of_toNat_eq (by simp only [bf, BitVec.toNat_ofNat]; omega), BitVec.eq_of_toNat_eq (by simp only [bf, BitVec.toNat_ofNat]; omega), by omega⟩

/-- The fields of a word with 1 fields at 0. -/
theorem Sys2Proof.Laws.fields_3at0 {x : Nat} (op : Nat) (f0 : BitVec 3) (g3 : Nat) (k3 : g3 < 2 ^ 21)
    (hx : x = op * 2 ^ 24 + f0.toNat * 2 ^ 0 + g3 * 2 ^ 3) :
    x / 2 ^ 24 % 2 ^ 7 = op % 128 ∧
    bf 3 x 0 = f0 ∧
    x / 2 ^ 3 % 2 ^ 21 = g3 := by
  have := f0.isLt
  refine ⟨by omega, BitVec.eq_of_toNat_eq (by simp only [bf, BitVec.toNat_ofNat]; omega), by omega⟩

/-- The fields of a word with 3 fields at 0, 12, 18. -/
theorem Sys2Proof.Laws.fields_3at0_6at12_6at18 {x : Nat} (op : Nat) (f0 : BitVec 3) (f12 : BitVec 6) (f18 : BitVec 6) (g3 : Nat) (k3 : g3 < 2 ^ 9)
    (hx : x = op * 2 ^ 24 + f0.toNat * 2 ^ 0 + f12.toNat * 2 ^ 12 + f18.toNat * 2 ^ 18 + g3 * 2 ^ 3) :
    x / 2 ^ 24 % 2 ^ 7 = op % 128 ∧
    bf 3 x 0 = f0 ∧
    bf 6 x 12 = f12 ∧
    bf 6 x 18 = f18 ∧
    x / 2 ^ 3 % 2 ^ 9 = g3 := by
  have := f0.isLt
  have := f12.isLt
  have := f18.isLt
  refine ⟨by omega, BitVec.eq_of_toNat_eq (by simp only [bf, BitVec.toNat_ofNat]; omega), BitVec.eq_of_toNat_eq (by simp only [bf, BitVec.toNat_ofNat]; omega), BitVec.eq_of_toNat_eq (by simp only [bf, BitVec.toNat_ofNat]; omega), by omega⟩

/-- The fields of a word with 2 fields at 0, 18. -/
theorem Sys2Proof.Laws.fields_3at0_6at18 {x : Nat} (op : Nat) (f0 : BitVec 3) (f18 : BitVec 6) (g3 : Nat) (k3 : g3 < 2 ^ 15)
    (hx : x = op * 2 ^ 24 + f0.toNat * 2 ^ 0 + f18.toNat * 2 ^ 18 + g3 * 2 ^ 3) :
    x / 2 ^ 24 % 2 ^ 7 = op % 128 ∧
    bf 3 x 0 = f0 ∧
    bf 6 x 18 = f18 ∧
    x / 2 ^ 3 % 2 ^ 15 = g3 := by
  have := f0.isLt
  have := f18.isLt
  refine ⟨by omega, BitVec.eq_of_toNat_eq (by simp only [bf, BitVec.toNat_ofNat]; omega), BitVec.eq_of_toNat_eq (by simp only [bf, BitVec.toNat_ofNat]; omega), by omega⟩

/-- The fields of a word with 2 fields at 6, 18. -/
theorem Sys2Proof.Laws.fields_12at6_6at18 {x : Nat} (op : Nat) (f6 : BitVec 12) (f18 : BitVec 6) (g0 : Nat) (k0 : g0 < 2 ^ 6)
    (hx : x = op * 2 ^ 24 + f6.toNat * 2 ^ 6 + f18.toNat * 2 ^ 18 + g0 * 2 ^ 0) :
    x / 2 ^ 24 % 2 ^ 7 = op % 128 ∧
    bf 12 x 6 = f6 ∧
    bf 6 x 18 = f18 ∧
    x / 2 ^ 0 % 2 ^ 6 = g0 := by
  have := f6.isLt
  have := f18.isLt
  refine ⟨by omega, BitVec.eq_of_toNat_eq (by simp only [bf, BitVec.toNat_ofNat]; omega), BitVec.eq_of_toNat_eq (by simp only [bf, BitVec.toNat_ofNat]; omega), by omega⟩

theorem Sys2Proof.Laws.RoundTrip.nop :
    Sys2Proof.Laws.RoundTrip.Statement (.nop) := by
  intro word hw; cases hw; rfl

theorem Sys2Proof.Laws.RoundTrip.bra (off : BitVec 19) :
    Sys2Proof.Laws.RoundTrip.Statement (.bra off) := by
  intro word hw
  obtain rfl : BitVec.ofNat 32 (0x01000000 + off.toNat) = word := Option.some.inj hw
  have := off.isLt
  rw [BitVec.toNat_ofNat, Nat.mod_eq_of_lt (by omega)]
  generalize hx : (0x01000000 + off.toNat : Nat) = x
  obtain ⟨ho, e_off, h19⟩ := Sys2Proof.Laws.fields_19at0 0x1 off 0 (by decide) (x := x) (by omega)
  simp only [decodeFields, ho, decodeControl, e_off, h19, Nat.reduceMod, Nat.reduceLeDiff, Nat.reduceEqDiff, ↓reduceIte]

theorem Sys2Proof.Laws.RoundTrip.brc (n : BitVec 3) (off : BitVec 19) :
    Sys2Proof.Laws.RoundTrip.Statement (.brc n off) := by
  intro word hw
  obtain rfl : BitVec.ofNat 32 (0x01400000 + n.toNat * 0x80000 + off.toNat) = word := Option.some.inj hw
  have := n.isLt
  have := off.isLt
  rw [BitVec.toNat_ofNat, Nat.mod_eq_of_lt (by omega)]
  generalize hx : (0x01400000 + n.toNat * 0x80000 + off.toNat : Nat) = x
  obtain ⟨ho, e_off, e_n, h22⟩ := Sys2Proof.Laws.fields_19at0_3at19 0x1 off n 1 (by decide) (x := x) (by omega)
  have j0 : (x / 2 ^ 19 % 2 ^ 5 = 0) = False := by apply eq_false; omega
  simp only [decodeFields, ho, decodeControl, e_off, e_n, h22, j0, Nat.reduceMod, Nat.reduceLeDiff, Nat.reduceEqDiff, ↓reduceIte]

theorem Sys2Proof.Laws.RoundTrip.brcF (n : BitVec 3) (off : BitVec 19) :
    Sys2Proof.Laws.RoundTrip.Statement (.brcF n off) := by
  intro word hw
  obtain rfl : BitVec.ofNat 32 (0x01800000 + n.toNat * 0x80000 + off.toNat) = word := Option.some.inj hw
  have := n.isLt
  have := off.isLt
  rw [BitVec.toNat_ofNat, Nat.mod_eq_of_lt (by omega)]
  generalize hx : (0x01800000 + n.toNat * 0x80000 + off.toNat : Nat) = x
  obtain ⟨ho, e_off, e_n, h22⟩ := Sys2Proof.Laws.fields_19at0_3at19 0x1 off n 2 (by decide) (x := x) (by omega)
  have j0 : (x / 2 ^ 19 % 2 ^ 5 = 0) = False := by apply eq_false; omega
  simp only [decodeFields, ho, decodeControl, e_off, e_n, h22, j0, Nat.reduceMod, Nat.reduceLeDiff, Nat.reduceEqDiff, ↓reduceIte]

theorem Sys2Proof.Laws.RoundTrip.brp (n : BitVec 3) (off : BitVec 19) :
    Sys2Proof.Laws.RoundTrip.Statement (.brp n off) := by
  intro word hw
  obtain rfl : BitVec.ofNat 32 (0x01C00000 + n.toNat * 0x80000 + off.toNat) = word := Option.some.inj hw
  have := n.isLt
  have := off.isLt
  rw [BitVec.toNat_ofNat, Nat.mod_eq_of_lt (by omega)]
  generalize hx : (0x01C00000 + n.toNat * 0x80000 + off.toNat : Nat) = x
  obtain ⟨ho, e_off, e_n, h22⟩ := Sys2Proof.Laws.fields_19at0_3at19 0x1 off n 3 (by decide) (x := x) (by omega)
  have j0 : (x / 2 ^ 19 % 2 ^ 5 = 0) = False := by apply eq_false; omega
  simp only [decodeFields, ho, decodeControl, e_off, e_n, h22, j0, Nat.reduceMod, Nat.reduceLeDiff, Nat.reduceEqDiff, ↓reduceIte]

theorem Sys2Proof.Laws.RoundTrip.call (off : BitVec 19) :
    Sys2Proof.Laws.RoundTrip.Statement (.call off) := by
  intro word hw
  obtain rfl : BitVec.ofNat 32 (0x02000000 + off.toNat) = word := Option.some.inj hw
  have := off.isLt
  rw [BitVec.toNat_ofNat, Nat.mod_eq_of_lt (by omega)]
  generalize hx : (0x02000000 + off.toNat : Nat) = x
  obtain ⟨ho, e_off, h19⟩ := Sys2Proof.Laws.fields_19at0 0x2 off 0 (by decide) (x := x) (by omega)
  simp only [decodeFields, ho, decodeControl, e_off, h19, Nat.reduceMod, Nat.reduceLeDiff, Nat.reduceEqDiff, ↓reduceIte]

theorem Sys2Proof.Laws.RoundTrip.callC (n : BitVec 3) (off : BitVec 19) :
    Sys2Proof.Laws.RoundTrip.Statement (.callC n off) := by
  intro word hw
  obtain rfl : BitVec.ofNat 32 (0x02400000 + n.toNat * 0x80000 + off.toNat) = word := Option.some.inj hw
  have := n.isLt
  have := off.isLt
  rw [BitVec.toNat_ofNat, Nat.mod_eq_of_lt (by omega)]
  generalize hx : (0x02400000 + n.toNat * 0x80000 + off.toNat : Nat) = x
  obtain ⟨ho, e_off, e_n, h22⟩ := Sys2Proof.Laws.fields_19at0_3at19 0x2 off n 1 (by decide) (x := x) (by omega)
  have j0 : (x / 2 ^ 19 % 2 ^ 5 = 0) = False := by apply eq_false; omega
  simp only [decodeFields, ho, decodeControl, e_off, e_n, h22, j0, Nat.reduceMod, Nat.reduceLeDiff, Nat.reduceEqDiff, ↓reduceIte]

theorem Sys2Proof.Laws.RoundTrip.callF (n : BitVec 3) (off : BitVec 19) :
    Sys2Proof.Laws.RoundTrip.Statement (.callF n off) := by
  intro word hw
  obtain rfl : BitVec.ofNat 32 (0x02800000 + n.toNat * 0x80000 + off.toNat) = word := Option.some.inj hw
  have := n.isLt
  have := off.isLt
  rw [BitVec.toNat_ofNat, Nat.mod_eq_of_lt (by omega)]
  generalize hx : (0x02800000 + n.toNat * 0x80000 + off.toNat : Nat) = x
  obtain ⟨ho, e_off, e_n, h22⟩ := Sys2Proof.Laws.fields_19at0_3at19 0x2 off n 2 (by decide) (x := x) (by omega)
  have j0 : (x / 2 ^ 19 % 2 ^ 5 = 0) = False := by apply eq_false; omega
  simp only [decodeFields, ho, decodeControl, e_off, e_n, h22, j0, Nat.reduceMod, Nat.reduceLeDiff, Nat.reduceEqDiff, ↓reduceIte]

theorem Sys2Proof.Laws.RoundTrip.brx (ka : BitVec 6) :
    Sys2Proof.Laws.RoundTrip.Statement (.brx ka) := by
  intro word hw
  obtain rfl : BitVec.ofNat 32 (0x03000000 + ka.toNat * 0x40000) = word := Option.some.inj hw
  have := ka.isLt
  rw [BitVec.toNat_ofNat, Nat.mod_eq_of_lt (by omega)]
  generalize hx : (0x03000000 + ka.toNat * 0x40000 : Nat) = x
  obtain ⟨ho, e_ka, h0⟩ := Sys2Proof.Laws.fields_6at18 0x3 ka 0 (by decide) (x := x) (by omega)
  simp only [decodeFields, ho, decodeControl, e_ka, h0, Nat.reduceMod, Nat.reduceLeDiff, Nat.reduceEqDiff, ↓reduceIte]

theorem Sys2Proof.Laws.RoundTrip.ret (ka : BitVec 6) :
    Sys2Proof.Laws.RoundTrip.Statement (.ret ka) := by
  intro word hw
  obtain rfl : BitVec.ofNat 32 (0x04000000 + ka.toNat * 0x40000) = word := Option.some.inj hw
  have := ka.isLt
  rw [BitVec.toNat_ofNat, Nat.mod_eq_of_lt (by omega)]
  generalize hx : (0x04000000 + ka.toNat * 0x40000 : Nat) = x
  obtain ⟨ho, e_ka, h0⟩ := Sys2Proof.Laws.fields_6at18 0x4 ka 0 (by decide) (x := x) (by omega)
  simp only [decodeFields, ho, decodeControl, e_ka, h0, Nat.reduceMod, Nat.reduceLeDiff, Nat.reduceEqDiff, ↓reduceIte]

theorem Sys2Proof.Laws.RoundTrip.mark (off : BitVec 19) :
    Sys2Proof.Laws.RoundTrip.Statement (.mark off) := by
  intro word hw
  obtain rfl : BitVec.ofNat 32 (0x05000000 + off.toNat) = word := Option.some.inj hw
  have := off.isLt
  rw [BitVec.toNat_ofNat, Nat.mod_eq_of_lt (by omega)]
  generalize hx : (0x05000000 + off.toNat : Nat) = x
  obtain ⟨ho, e_off, h19⟩ := Sys2Proof.Laws.fields_19at0 0x5 off 0 (by decide) (x := x) (by omega)
  simp only [decodeFields, ho, decodeControl, e_off, h19, Nat.reduceMod, Nat.reduceLeDiff, Nat.reduceEqDiff, ↓reduceIte]

theorem Sys2Proof.Laws.RoundTrip.join :
    Sys2Proof.Laws.RoundTrip.Statement (.join) := by
  intro word hw; cases hw; rfl

theorem Sys2Proof.Laws.RoundTrip.exit :
    Sys2Proof.Laws.RoundTrip.Statement (.exit) := by
  intro word hw; cases hw; rfl

theorem Sys2Proof.Laws.RoundTrip.yield :
    Sys2Proof.Laws.RoundTrip.Statement (.yield) := by
  intro word hw; cases hw; rfl

theorem Sys2Proof.Laws.RoundTrip.waitc (ka : BitVec 6) (fn : BitVec 6) :
    Sys2Proof.Laws.RoundTrip.Statement (.waitc ka fn) := by
  intro word hw
  obtain rfl : BitVec.ofNat 32 (0x09000000 + ka.toNat * 0x40000 + fn.toNat) = word := Option.some.inj hw
  have := ka.isLt
  have := fn.isLt
  rw [BitVec.toNat_ofNat, Nat.mod_eq_of_lt (by omega)]
  generalize hx : (0x09000000 + ka.toNat * 0x40000 + fn.toNat : Nat) = x
  obtain ⟨ho, e_fn, e_ka, h6⟩ := Sys2Proof.Laws.fields_6at0_6at18 0x9 fn ka 0 (by decide) (x := x) (by omega)
  simp only [decodeFields, ho, decodeControl, e_fn, e_ka, h6, Nat.reduceMod, Nat.reduceLeDiff, Nat.reduceEqDiff, ↓reduceIte]

theorem Sys2Proof.Laws.RoundTrip.lit (payload : BitVec 24) :
    Sys2Proof.Laws.RoundTrip.Statement (.lit payload) := by
  intro word hw
  obtain rfl : BitVec.ofNat 32 (0x8A000000 + payload.toNat) = word := Option.some.inj hw
  have := payload.isLt
  rw [BitVec.toNat_ofNat, Nat.mod_eq_of_lt (by omega)]
  generalize hx : (0x8A000000 + payload.toNat : Nat) = x
  obtain ⟨ho, e_payload⟩ := Sys2Proof.Laws.fields_24at0 0x8a payload   (x := x) (by omega)
  simp only [decodeFields, ho, decodeControl, e_payload, Nat.reduceMod, Nat.reduceLeDiff, Nat.reduceEqDiff, ↓reduceIte]

theorem Sys2Proof.Laws.RoundTrip.rep (cnt : BitVec 6) (sd : BitVec 1) (sa : BitVec 1) (sb : BitVec 1) (sk : BitVec 1) (str : BitVec 2) :
    Sys2Proof.Laws.RoundTrip.Statement (.rep cnt sd sa sb sk str) := by
  intro word hw
  obtain rfl : BitVec.ofNat 32 (0x8B000000 + cnt.toNat * 0x40000 + sd.toNat * 0x20000 + sa.toNat * 0x10000 + sb.toNat * 0x8000 + sk.toNat * 0x4000 + str.toNat * 0x1000) = word := Option.some.inj hw
  have := cnt.isLt
  have := sd.isLt
  have := sa.isLt
  have := sb.isLt
  have := sk.isLt
  have := str.isLt
  rw [BitVec.toNat_ofNat, Nat.mod_eq_of_lt (by omega)]
  generalize hx : (0x8B000000 + cnt.toNat * 0x40000 + sd.toNat * 0x20000 + sa.toNat * 0x10000 + sb.toNat * 0x8000 + sk.toNat * 0x4000 + str.toNat * 0x1000 : Nat) = x
  obtain ⟨ho, e_str, e_sk, e_sb, e_sa, e_sd, e_cnt, h0⟩ := Sys2Proof.Laws.fields_2at12_1at14_1at15_1at16_1at17_6at18 0x8b str sk sb sa sd cnt 0 (by decide) (x := x) (by omega)
  simp only [decodeFields, ho, decodeControl, e_str, e_sk, e_sb, e_sa, e_sd, e_cnt, h0, Nat.reduceMod, Nat.reduceLeDiff, Nat.reduceEqDiff, ↓reduceIte]

theorem Sys2Proof.Laws.RoundTrip.trap (fn : BitVec 6) :
    Sys2Proof.Laws.RoundTrip.Statement (.trap fn) := by
  intro word hw
  obtain rfl : BitVec.ofNat 32 (0x0C000000 + fn.toNat) = word := Option.some.inj hw
  have := fn.isLt
  rw [BitVec.toNat_ofNat, Nat.mod_eq_of_lt (by omega)]
  generalize hx : (0x0C000000 + fn.toNat : Nat) = x
  obtain ⟨ho, e_fn, h6⟩ := Sys2Proof.Laws.fields_6at0 0xc fn 0 (by decide) (x := x) (by omega)
  simp only [decodeFields, ho, decodeControl, e_fn, h6, Nat.reduceMod, Nat.reduceLeDiff, Nat.reduceEqDiff, ↓reduceIte]

theorem Sys2Proof.Laws.RoundTrip.uadd (kd : BitVec 6) (ka : BitVec 6) (kb : BitVec 6) :
    Sys2Proof.Laws.RoundTrip.Statement (.uadd kd ka kb) := by
  intro word hw
  obtain rfl : BitVec.ofNat 32 (0x10000000 + kd.toNat * 0x40000 + ka.toNat * 0x1000 + kb.toNat * 0x40) = word := Option.some.inj hw
  have := kd.isLt
  have := ka.isLt
  have := kb.isLt
  rw [BitVec.toNat_ofNat, Nat.mod_eq_of_lt (by omega)]
  generalize hx : (0x10000000 + kd.toNat * 0x40000 + ka.toNat * 0x1000 + kb.toNat * 0x40 : Nat) = x
  obtain ⟨ho, e_kb, e_ka, e_kd, h0⟩ := Sys2Proof.Laws.fields_6at6_6at12_6at18 0x10 kb ka kd 0 (by decide) (x := x) (by omega)
  simp only [decodeFields, ho, decodeUniform, e_kb, e_ka, e_kd, h0, Nat.reduceMod, Nat.reduceLeDiff, Nat.reduceEqDiff, ↓reduceIte]

theorem Sys2Proof.Laws.RoundTrip.usub (kd : BitVec 6) (ka : BitVec 6) (kb : BitVec 6) :
    Sys2Proof.Laws.RoundTrip.Statement (.usub kd ka kb) := by
  intro word hw
  obtain rfl : BitVec.ofNat 32 (0x10000001 + kd.toNat * 0x40000 + ka.toNat * 0x1000 + kb.toNat * 0x40) = word := Option.some.inj hw
  have := kd.isLt
  have := ka.isLt
  have := kb.isLt
  rw [BitVec.toNat_ofNat, Nat.mod_eq_of_lt (by omega)]
  generalize hx : (0x10000001 + kd.toNat * 0x40000 + ka.toNat * 0x1000 + kb.toNat * 0x40 : Nat) = x
  obtain ⟨ho, e_kb, e_ka, e_kd, h0⟩ := Sys2Proof.Laws.fields_6at6_6at12_6at18 0x10 kb ka kd 1 (by decide) (x := x) (by omega)
  simp only [decodeFields, ho, decodeUniform, e_kb, e_ka, e_kd, h0, Nat.reduceMod, Nat.reduceLeDiff, Nat.reduceEqDiff, ↓reduceIte]

theorem Sys2Proof.Laws.RoundTrip.umul (kd : BitVec 6) (ka : BitVec 6) (kb : BitVec 6) :
    Sys2Proof.Laws.RoundTrip.Statement (.umul kd ka kb) := by
  intro word hw
  obtain rfl : BitVec.ofNat 32 (0x10000002 + kd.toNat * 0x40000 + ka.toNat * 0x1000 + kb.toNat * 0x40) = word := Option.some.inj hw
  have := kd.isLt
  have := ka.isLt
  have := kb.isLt
  rw [BitVec.toNat_ofNat, Nat.mod_eq_of_lt (by omega)]
  generalize hx : (0x10000002 + kd.toNat * 0x40000 + ka.toNat * 0x1000 + kb.toNat * 0x40 : Nat) = x
  obtain ⟨ho, e_kb, e_ka, e_kd, h0⟩ := Sys2Proof.Laws.fields_6at6_6at12_6at18 0x10 kb ka kd 2 (by decide) (x := x) (by omega)
  simp only [decodeFields, ho, decodeUniform, e_kb, e_ka, e_kd, h0, Nat.reduceMod, Nat.reduceLeDiff, Nat.reduceEqDiff, ↓reduceIte]

theorem Sys2Proof.Laws.RoundTrip.umulh (kd : BitVec 6) (ka : BitVec 6) (kb : BitVec 6) :
    Sys2Proof.Laws.RoundTrip.Statement (.umulh kd ka kb) := by
  intro word hw
  obtain rfl : BitVec.ofNat 32 (0x10000003 + kd.toNat * 0x40000 + ka.toNat * 0x1000 + kb.toNat * 0x40) = word := Option.some.inj hw
  have := kd.isLt
  have := ka.isLt
  have := kb.isLt
  rw [BitVec.toNat_ofNat, Nat.mod_eq_of_lt (by omega)]
  generalize hx : (0x10000003 + kd.toNat * 0x40000 + ka.toNat * 0x1000 + kb.toNat * 0x40 : Nat) = x
  obtain ⟨ho, e_kb, e_ka, e_kd, h0⟩ := Sys2Proof.Laws.fields_6at6_6at12_6at18 0x10 kb ka kd 3 (by decide) (x := x) (by omega)
  simp only [decodeFields, ho, decodeUniform, e_kb, e_ka, e_kd, h0, Nat.reduceMod, Nat.reduceLeDiff, Nat.reduceEqDiff, ↓reduceIte]

theorem Sys2Proof.Laws.RoundTrip.uand (kd : BitVec 6) (ka : BitVec 6) (kb : BitVec 6) :
    Sys2Proof.Laws.RoundTrip.Statement (.uand kd ka kb) := by
  intro word hw
  obtain rfl : BitVec.ofNat 32 (0x10000004 + kd.toNat * 0x40000 + ka.toNat * 0x1000 + kb.toNat * 0x40) = word := Option.some.inj hw
  have := kd.isLt
  have := ka.isLt
  have := kb.isLt
  rw [BitVec.toNat_ofNat, Nat.mod_eq_of_lt (by omega)]
  generalize hx : (0x10000004 + kd.toNat * 0x40000 + ka.toNat * 0x1000 + kb.toNat * 0x40 : Nat) = x
  obtain ⟨ho, e_kb, e_ka, e_kd, h0⟩ := Sys2Proof.Laws.fields_6at6_6at12_6at18 0x10 kb ka kd 4 (by decide) (x := x) (by omega)
  simp only [decodeFields, ho, decodeUniform, e_kb, e_ka, e_kd, h0, Nat.reduceMod, Nat.reduceLeDiff, Nat.reduceEqDiff, ↓reduceIte]

theorem Sys2Proof.Laws.RoundTrip.uor (kd : BitVec 6) (ka : BitVec 6) (kb : BitVec 6) :
    Sys2Proof.Laws.RoundTrip.Statement (.uor kd ka kb) := by
  intro word hw
  obtain rfl : BitVec.ofNat 32 (0x10000005 + kd.toNat * 0x40000 + ka.toNat * 0x1000 + kb.toNat * 0x40) = word := Option.some.inj hw
  have := kd.isLt
  have := ka.isLt
  have := kb.isLt
  rw [BitVec.toNat_ofNat, Nat.mod_eq_of_lt (by omega)]
  generalize hx : (0x10000005 + kd.toNat * 0x40000 + ka.toNat * 0x1000 + kb.toNat * 0x40 : Nat) = x
  obtain ⟨ho, e_kb, e_ka, e_kd, h0⟩ := Sys2Proof.Laws.fields_6at6_6at12_6at18 0x10 kb ka kd 5 (by decide) (x := x) (by omega)
  simp only [decodeFields, ho, decodeUniform, e_kb, e_ka, e_kd, h0, Nat.reduceMod, Nat.reduceLeDiff, Nat.reduceEqDiff, ↓reduceIte]

theorem Sys2Proof.Laws.RoundTrip.uxor (kd : BitVec 6) (ka : BitVec 6) (kb : BitVec 6) :
    Sys2Proof.Laws.RoundTrip.Statement (.uxor kd ka kb) := by
  intro word hw
  obtain rfl : BitVec.ofNat 32 (0x10000006 + kd.toNat * 0x40000 + ka.toNat * 0x1000 + kb.toNat * 0x40) = word := Option.some.inj hw
  have := kd.isLt
  have := ka.isLt
  have := kb.isLt
  rw [BitVec.toNat_ofNat, Nat.mod_eq_of_lt (by omega)]
  generalize hx : (0x10000006 + kd.toNat * 0x40000 + ka.toNat * 0x1000 + kb.toNat * 0x40 : Nat) = x
  obtain ⟨ho, e_kb, e_ka, e_kd, h0⟩ := Sys2Proof.Laws.fields_6at6_6at12_6at18 0x10 kb ka kd 6 (by decide) (x := x) (by omega)
  simp only [decodeFields, ho, decodeUniform, e_kb, e_ka, e_kd, h0, Nat.reduceMod, Nat.reduceLeDiff, Nat.reduceEqDiff, ↓reduceIte]

theorem Sys2Proof.Laws.RoundTrip.ushl (kd : BitVec 6) (ka : BitVec 6) (kb : BitVec 6) :
    Sys2Proof.Laws.RoundTrip.Statement (.ushl kd ka kb) := by
  intro word hw
  obtain rfl : BitVec.ofNat 32 (0x10000007 + kd.toNat * 0x40000 + ka.toNat * 0x1000 + kb.toNat * 0x40) = word := Option.some.inj hw
  have := kd.isLt
  have := ka.isLt
  have := kb.isLt
  rw [BitVec.toNat_ofNat, Nat.mod_eq_of_lt (by omega)]
  generalize hx : (0x10000007 + kd.toNat * 0x40000 + ka.toNat * 0x1000 + kb.toNat * 0x40 : Nat) = x
  obtain ⟨ho, e_kb, e_ka, e_kd, h0⟩ := Sys2Proof.Laws.fields_6at6_6at12_6at18 0x10 kb ka kd 7 (by decide) (x := x) (by omega)
  simp only [decodeFields, ho, decodeUniform, e_kb, e_ka, e_kd, h0, Nat.reduceMod, Nat.reduceLeDiff, Nat.reduceEqDiff, ↓reduceIte]

theorem Sys2Proof.Laws.RoundTrip.ushr (kd : BitVec 6) (ka : BitVec 6) (kb : BitVec 6) :
    Sys2Proof.Laws.RoundTrip.Statement (.ushr kd ka kb) := by
  intro word hw
  obtain rfl : BitVec.ofNat 32 (0x10000008 + kd.toNat * 0x40000 + ka.toNat * 0x1000 + kb.toNat * 0x40) = word := Option.some.inj hw
  have := kd.isLt
  have := ka.isLt
  have := kb.isLt
  rw [BitVec.toNat_ofNat, Nat.mod_eq_of_lt (by omega)]
  generalize hx : (0x10000008 + kd.toNat * 0x40000 + ka.toNat * 0x1000 + kb.toNat * 0x40 : Nat) = x
  obtain ⟨ho, e_kb, e_ka, e_kd, h0⟩ := Sys2Proof.Laws.fields_6at6_6at12_6at18 0x10 kb ka kd 8 (by decide) (x := x) (by omega)
  simp only [decodeFields, ho, decodeUniform, e_kb, e_ka, e_kd, h0, Nat.reduceMod, Nat.reduceLeDiff, Nat.reduceEqDiff, ↓reduceIte]

theorem Sys2Proof.Laws.RoundTrip.usar (kd : BitVec 6) (ka : BitVec 6) (kb : BitVec 6) :
    Sys2Proof.Laws.RoundTrip.Statement (.usar kd ka kb) := by
  intro word hw
  obtain rfl : BitVec.ofNat 32 (0x10000009 + kd.toNat * 0x40000 + ka.toNat * 0x1000 + kb.toNat * 0x40) = word := Option.some.inj hw
  have := kd.isLt
  have := ka.isLt
  have := kb.isLt
  rw [BitVec.toNat_ofNat, Nat.mod_eq_of_lt (by omega)]
  generalize hx : (0x10000009 + kd.toNat * 0x40000 + ka.toNat * 0x1000 + kb.toNat * 0x40 : Nat) = x
  obtain ⟨ho, e_kb, e_ka, e_kd, h0⟩ := Sys2Proof.Laws.fields_6at6_6at12_6at18 0x10 kb ka kd 9 (by decide) (x := x) (by omega)
  simp only [decodeFields, ho, decodeUniform, e_kb, e_ka, e_kd, h0, Nat.reduceMod, Nat.reduceLeDiff, Nat.reduceEqDiff, ↓reduceIte]

theorem Sys2Proof.Laws.RoundTrip.umin (kd : BitVec 6) (ka : BitVec 6) (kb : BitVec 6) :
    Sys2Proof.Laws.RoundTrip.Statement (.umin kd ka kb) := by
  intro word hw
  obtain rfl : BitVec.ofNat 32 (0x1000000A + kd.toNat * 0x40000 + ka.toNat * 0x1000 + kb.toNat * 0x40) = word := Option.some.inj hw
  have := kd.isLt
  have := ka.isLt
  have := kb.isLt
  rw [BitVec.toNat_ofNat, Nat.mod_eq_of_lt (by omega)]
  generalize hx : (0x1000000A + kd.toNat * 0x40000 + ka.toNat * 0x1000 + kb.toNat * 0x40 : Nat) = x
  obtain ⟨ho, e_kb, e_ka, e_kd, h0⟩ := Sys2Proof.Laws.fields_6at6_6at12_6at18 0x10 kb ka kd 10 (by decide) (x := x) (by omega)
  simp only [decodeFields, ho, decodeUniform, e_kb, e_ka, e_kd, h0, Nat.reduceMod, Nat.reduceLeDiff, Nat.reduceEqDiff, ↓reduceIte]

theorem Sys2Proof.Laws.RoundTrip.umax (kd : BitVec 6) (ka : BitVec 6) (kb : BitVec 6) :
    Sys2Proof.Laws.RoundTrip.Statement (.umax kd ka kb) := by
  intro word hw
  obtain rfl : BitVec.ofNat 32 (0x1000000B + kd.toNat * 0x40000 + ka.toNat * 0x1000 + kb.toNat * 0x40) = word := Option.some.inj hw
  have := kd.isLt
  have := ka.isLt
  have := kb.isLt
  rw [BitVec.toNat_ofNat, Nat.mod_eq_of_lt (by omega)]
  generalize hx : (0x1000000B + kd.toNat * 0x40000 + ka.toNat * 0x1000 + kb.toNat * 0x40 : Nat) = x
  obtain ⟨ho, e_kb, e_ka, e_kd, h0⟩ := Sys2Proof.Laws.fields_6at6_6at12_6at18 0x10 kb ka kd 11 (by decide) (x := x) (by omega)
  simp only [decodeFields, ho, decodeUniform, e_kb, e_ka, e_kd, h0, Nat.reduceMod, Nat.reduceLeDiff, Nat.reduceEqDiff, ↓reduceIte]

theorem Sys2Proof.Laws.RoundTrip.umov (kd : BitVec 6) (ka : BitVec 6) :
    Sys2Proof.Laws.RoundTrip.Statement (.umov kd ka) := by
  intro word hw
  obtain rfl : BitVec.ofNat 32 (0x1000000C + kd.toNat * 0x40000 + ka.toNat * 0x1000) = word := Option.some.inj hw
  have := kd.isLt
  have := ka.isLt
  rw [BitVec.toNat_ofNat, Nat.mod_eq_of_lt (by omega)]
  generalize hx : (0x1000000C + kd.toNat * 0x40000 + ka.toNat * 0x1000 : Nat) = x
  obtain ⟨ho, e_ka, e_kd, h0⟩ := Sys2Proof.Laws.fields_6at12_6at18 0x10 ka kd 12 (by decide) (x := x) (by omega)
  have j0 : x / 2 ^ 0 % 2 ^ 6 = 12 := by omega
  simp only [decodeFields, ho, decodeUniform, e_ka, e_kd, h0, j0, Nat.reduceMod, Nat.reduceLeDiff, Nat.reduceEqDiff, ↓reduceIte]

theorem Sys2Proof.Laws.RoundTrip.ubfe (kd : BitVec 6) (ka : BitVec 6) (kb : BitVec 6) :
    Sys2Proof.Laws.RoundTrip.Statement (.ubfe kd ka kb) := by
  intro word hw
  obtain rfl : BitVec.ofNat 32 (0x1000000D + kd.toNat * 0x40000 + ka.toNat * 0x1000 + kb.toNat * 0x40) = word := Option.some.inj hw
  have := kd.isLt
  have := ka.isLt
  have := kb.isLt
  rw [BitVec.toNat_ofNat, Nat.mod_eq_of_lt (by omega)]
  generalize hx : (0x1000000D + kd.toNat * 0x40000 + ka.toNat * 0x1000 + kb.toNat * 0x40 : Nat) = x
  obtain ⟨ho, e_kb, e_ka, e_kd, h0⟩ := Sys2Proof.Laws.fields_6at6_6at12_6at18 0x10 kb ka kd 13 (by decide) (x := x) (by omega)
  have j0 : (x / 2 ^ 0 % 2 ^ 12 = 12) = False := by apply eq_false; omega
  simp only [decodeFields, ho, decodeUniform, e_kb, e_ka, e_kd, h0, j0, Nat.reduceMod, Nat.reduceLeDiff, Nat.reduceEqDiff, ↓reduceIte]

theorem Sys2Proof.Laws.RoundTrip.uclz (kd : BitVec 6) (ka : BitVec 6) :
    Sys2Proof.Laws.RoundTrip.Statement (.uclz kd ka) := by
  intro word hw
  obtain rfl : BitVec.ofNat 32 (0x1000000E + kd.toNat * 0x40000 + ka.toNat * 0x1000) = word := Option.some.inj hw
  have := kd.isLt
  have := ka.isLt
  rw [BitVec.toNat_ofNat, Nat.mod_eq_of_lt (by omega)]
  generalize hx : (0x1000000E + kd.toNat * 0x40000 + ka.toNat * 0x1000 : Nat) = x
  obtain ⟨ho, e_ka, e_kd, h0⟩ := Sys2Proof.Laws.fields_6at12_6at18 0x10 ka kd 14 (by decide) (x := x) (by omega)
  have j0 : x / 2 ^ 0 % 2 ^ 6 = 14 := by omega
  simp only [decodeFields, ho, decodeUniform, e_ka, e_kd, h0, j0, Nat.reduceMod, Nat.reduceLeDiff, Nat.reduceEqDiff, ↓reduceIte]

theorem Sys2Proof.Laws.RoundTrip.ucnt (kd : BitVec 6) (ka : BitVec 6) :
    Sys2Proof.Laws.RoundTrip.Statement (.ucnt kd ka) := by
  intro word hw
  obtain rfl : BitVec.ofNat 32 (0x1000000F + kd.toNat * 0x40000 + ka.toNat * 0x1000) = word := Option.some.inj hw
  have := kd.isLt
  have := ka.isLt
  rw [BitVec.toNat_ofNat, Nat.mod_eq_of_lt (by omega)]
  generalize hx : (0x1000000F + kd.toNat * 0x40000 + ka.toNat * 0x1000 : Nat) = x
  obtain ⟨ho, e_ka, e_kd, h0⟩ := Sys2Proof.Laws.fields_6at12_6at18 0x10 ka kd 15 (by decide) (x := x) (by omega)
  have j0 : x / 2 ^ 0 % 2 ^ 6 = 15 := by omega
  simp only [decodeFields, ho, decodeUniform, e_ka, e_kd, h0, j0, Nat.reduceMod, Nat.reduceLeDiff, Nat.reduceEqDiff, ↓reduceIte]

theorem Sys2Proof.Laws.RoundTrip.umad (kd : BitVec 6) (ka : BitVec 6) (kb : BitVec 6) :
    Sys2Proof.Laws.RoundTrip.Statement (.umad kd ka kb) := by
  intro word hw
  obtain rfl : BitVec.ofNat 32 (0x10000010 + kd.toNat * 0x40000 + ka.toNat * 0x1000 + kb.toNat * 0x40) = word := Option.some.inj hw
  have := kd.isLt
  have := ka.isLt
  have := kb.isLt
  rw [BitVec.toNat_ofNat, Nat.mod_eq_of_lt (by omega)]
  generalize hx : (0x10000010 + kd.toNat * 0x40000 + ka.toNat * 0x1000 + kb.toNat * 0x40 : Nat) = x
  obtain ⟨ho, e_kb, e_ka, e_kd, h0⟩ := Sys2Proof.Laws.fields_6at6_6at12_6at18 0x10 kb ka kd 16 (by decide) (x := x) (by omega)
  have j0 : (x / 2 ^ 0 % 2 ^ 12 = 12) = False := by apply eq_false; omega
  have j1 : (x / 2 ^ 0 % 2 ^ 12 = 14) = False := by apply eq_false; omega
  have j2 : (x / 2 ^ 0 % 2 ^ 12 = 15) = False := by apply eq_false; omega
  simp only [decodeFields, ho, decodeUniform, e_kb, e_ka, e_kd, h0, j0, j1, j2, Nat.reduceMod, Nat.reduceLeDiff, Nat.reduceEqDiff, ↓reduceIte]

theorem Sys2Proof.Laws.RoundTrip.ucmp (n : BitVec 3) (ka : BitVec 6) (kb : BitVec 6) (fn : BitVec 6) :
    Sys2Proof.Laws.RoundTrip.Statement (.ucmp n ka kb fn) := by
  intro word hw
  obtain rfl : BitVec.ofNat 32 (0x11000000 + n.toNat * 0x40000 + ka.toNat * 0x1000 + kb.toNat * 0x40 + fn.toNat) = word := Option.some.inj hw
  have := n.isLt
  have := ka.isLt
  have := kb.isLt
  have := fn.isLt
  rw [BitVec.toNat_ofNat, Nat.mod_eq_of_lt (by omega)]
  generalize hx : (0x11000000 + n.toNat * 0x40000 + ka.toNat * 0x1000 + kb.toNat * 0x40 + fn.toNat : Nat) = x
  obtain ⟨ho, e_fn, e_kb, e_ka, e_n, h21⟩ := Sys2Proof.Laws.fields_6at0_6at6_6at12_3at18 0x11 fn kb ka n 0 (by decide) (x := x) (by omega)
  simp only [decodeFields, ho, decodeUniform, e_fn, e_kb, e_ka, e_n, h21, Nat.reduceMod, Nat.reduceLeDiff, Nat.reduceEqDiff, ↓reduceIte]

theorem Sys2Proof.Laws.RoundTrip.usel (kd : BitVec 6) (ka : BitVec 6) (kb : BitVec 6) (n : BitVec 3) :
    Sys2Proof.Laws.RoundTrip.Statement (.usel kd ka kb n) := by
  intro word hw
  obtain rfl : BitVec.ofNat 32 (0x12000000 + kd.toNat * 0x40000 + ka.toNat * 0x1000 + kb.toNat * 0x40 + n.toNat) = word := Option.some.inj hw
  have := kd.isLt
  have := ka.isLt
  have := kb.isLt
  have := n.isLt
  rw [BitVec.toNat_ofNat, Nat.mod_eq_of_lt (by omega)]
  generalize hx : (0x12000000 + kd.toNat * 0x40000 + ka.toNat * 0x1000 + kb.toNat * 0x40 + n.toNat : Nat) = x
  obtain ⟨ho, e_n, e_kb, e_ka, e_kd, h3⟩ := Sys2Proof.Laws.fields_3at0_6at6_6at12_6at18 0x12 n kb ka kd 0 (by decide) (x := x) (by omega)
  simp only [decodeFields, ho, decodeUniform, e_n, e_kb, e_ka, e_kd, h3, Nat.reduceMod, Nat.reduceLeDiff, Nat.reduceEqDiff, ↓reduceIte]

theorem Sys2Proof.Laws.RoundTrip.uli (kd : BitVec 6) (imm : BitVec 18) :
    Sys2Proof.Laws.RoundTrip.Statement (.uli kd imm) := by
  intro word hw
  obtain rfl : BitVec.ofNat 32 (0x13000000 + kd.toNat * 0x40000 + imm.toNat) = word := Option.some.inj hw
  have := kd.isLt
  have := imm.isLt
  rw [BitVec.toNat_ofNat, Nat.mod_eq_of_lt (by omega)]
  generalize hx : (0x13000000 + kd.toNat * 0x40000 + imm.toNat : Nat) = x
  obtain ⟨ho, e_imm, e_kd⟩ := Sys2Proof.Laws.fields_18at0_6at18 0x13 imm kd   (x := x) (by omega)
  simp only [decodeFields, ho, decodeUniform, e_imm, e_kd, Nat.reduceMod, Nat.reduceLeDiff, Nat.reduceEqDiff, ↓reduceIte]

theorem Sys2Proof.Laws.RoundTrip.uld (kd : BitVec 6) (ka : BitVec 6) (off : BitVec 12) :
    Sys2Proof.Laws.RoundTrip.Statement (.uld kd ka off) := by
  intro word hw
  obtain rfl : BitVec.ofNat 32 (0x14000000 + kd.toNat * 0x40000 + ka.toNat * 0x1000 + off.toNat) = word := Option.some.inj hw
  have := kd.isLt
  have := ka.isLt
  have := off.isLt
  rw [BitVec.toNat_ofNat, Nat.mod_eq_of_lt (by omega)]
  generalize hx : (0x14000000 + kd.toNat * 0x40000 + ka.toNat * 0x1000 + off.toNat : Nat) = x
  obtain ⟨ho, e_off, e_ka, e_kd⟩ := Sys2Proof.Laws.fields_12at0_6at12_6at18 0x14 off ka kd   (x := x) (by omega)
  simp only [decodeFields, ho, decodeUniform, e_off, e_ka, e_kd, Nat.reduceMod, Nat.reduceLeDiff, Nat.reduceEqDiff, ↓reduceIte]

theorem Sys2Proof.Laws.RoundTrip.ust (kd : BitVec 6) (ka : BitVec 6) (off : BitVec 12) :
    Sys2Proof.Laws.RoundTrip.Statement (.ust kd ka off) := by
  intro word hw
  obtain rfl : BitVec.ofNat 32 (0x15000000 + kd.toNat * 0x40000 + ka.toNat * 0x1000 + off.toNat) = word := Option.some.inj hw
  have := kd.isLt
  have := ka.isLt
  have := off.isLt
  rw [BitVec.toNat_ofNat, Nat.mod_eq_of_lt (by omega)]
  generalize hx : (0x15000000 + kd.toNat * 0x40000 + ka.toNat * 0x1000 + off.toNat : Nat) = x
  obtain ⟨ho, e_off, e_ka, e_kd⟩ := Sys2Proof.Laws.fields_12at0_6at12_6at18 0x15 off ka kd   (x := x) (by omega)
  simp only [decodeFields, ho, decodeUniform, e_off, e_ka, e_kd, Nat.reduceMod, Nat.reduceLeDiff, Nat.reduceEqDiff, ↓reduceIte]

theorem Sys2Proof.Laws.RoundTrip.usr (kd : BitVec 6) (idx : BitVec 12) :
    Sys2Proof.Laws.RoundTrip.Statement (.usr kd idx) := by
  intro word hw
  obtain rfl : BitVec.ofNat 32 (0x16000000 + kd.toNat * 0x40000 + idx.toNat) = word := Option.some.inj hw
  have := kd.isLt
  have := idx.isLt
  rw [BitVec.toNat_ofNat, Nat.mod_eq_of_lt (by omega)]
  generalize hx : (0x16000000 + kd.toNat * 0x40000 + idx.toNat : Nat) = x
  obtain ⟨ho, e_idx, e_kd, h12⟩ := Sys2Proof.Laws.fields_12at0_6at18 0x16 idx kd 0 (by decide) (x := x) (by omega)
  simp only [decodeFields, ho, decodeUniform, e_idx, e_kd, h12, Nat.reduceMod, Nat.reduceLeDiff, Nat.reduceEqDiff, ↓reduceIte]

theorem Sys2Proof.Laws.RoundTrip.uws (ka : BitVec 6) (idx : BitVec 12) :
    Sys2Proof.Laws.RoundTrip.Statement (.uws ka idx) := by
  intro word hw
  obtain rfl : BitVec.ofNat 32 (0x17000000 + ka.toNat * 0x1000 + idx.toNat) = word := Option.some.inj hw
  have := ka.isLt
  have := idx.isLt
  rw [BitVec.toNat_ofNat, Nat.mod_eq_of_lt (by omega)]
  generalize hx : (0x17000000 + ka.toNat * 0x1000 + idx.toNat : Nat) = x
  obtain ⟨ho, e_idx, e_ka, h18⟩ := Sys2Proof.Laws.fields_12at0_6at12 0x17 idx ka 0 (by decide) (x := x) (by omega)
  simp only [decodeFields, ho, decodeUniform, e_idx, e_ka, h18, Nat.reduceMod, Nat.reduceLeDiff, Nat.reduceEqDiff, ↓reduceIte]

theorem Sys2Proof.Laws.RoundTrip.vadd (w : BitVec 1) (d : BitVec 7) (a : BitVec 8) (b : BitVec 8) :
    Sys2Proof.Laws.RoundTrip.Statement (.vadd w d a b) := by
  intro word hw
  obtain rfl : BitVec.ofNat 32 (0x20000000 + w.toNat * 0x800000 + d.toNat * 0x10000 + a.toNat * 0x100 + b.toNat) = word := Option.some.inj hw
  have := w.isLt
  have := d.isLt
  have := a.isLt
  have := b.isLt
  rw [BitVec.toNat_ofNat, Nat.mod_eq_of_lt (by omega)]
  generalize hx : (0x20000000 + w.toNat * 0x800000 + d.toNat * 0x10000 + a.toNat * 0x100 + b.toNat : Nat) = x
  obtain ⟨ho, e_b, e_a, e_d, e_w⟩ := Sys2Proof.Laws.fields_8at0_8at8_7at16_1at23 0x20 b a d w   (x := x) (by omega)
  simp only [decodeFields, ho, decodeInteger, e_b, e_a, e_d, e_w, Nat.reduceMod, Nat.reduceLeDiff, Nat.reduceEqDiff, ↓reduceIte]

theorem Sys2Proof.Laws.RoundTrip.vsub (w : BitVec 1) (d : BitVec 7) (a : BitVec 8) (b : BitVec 8) :
    Sys2Proof.Laws.RoundTrip.Statement (.vsub w d a b) := by
  intro word hw
  obtain rfl : BitVec.ofNat 32 (0x21000000 + w.toNat * 0x800000 + d.toNat * 0x10000 + a.toNat * 0x100 + b.toNat) = word := Option.some.inj hw
  have := w.isLt
  have := d.isLt
  have := a.isLt
  have := b.isLt
  rw [BitVec.toNat_ofNat, Nat.mod_eq_of_lt (by omega)]
  generalize hx : (0x21000000 + w.toNat * 0x800000 + d.toNat * 0x10000 + a.toNat * 0x100 + b.toNat : Nat) = x
  obtain ⟨ho, e_b, e_a, e_d, e_w⟩ := Sys2Proof.Laws.fields_8at0_8at8_7at16_1at23 0x21 b a d w   (x := x) (by omega)
  simp only [decodeFields, ho, decodeInteger, e_b, e_a, e_d, e_w, Nat.reduceMod, Nat.reduceLeDiff, Nat.reduceEqDiff, ↓reduceIte]

theorem Sys2Proof.Laws.RoundTrip.vmul (w : BitVec 1) (d : BitVec 7) (a : BitVec 8) (b : BitVec 8) :
    Sys2Proof.Laws.RoundTrip.Statement (.vmul w d a b) := by
  intro word hw
  obtain rfl : BitVec.ofNat 32 (0x22000000 + w.toNat * 0x800000 + d.toNat * 0x10000 + a.toNat * 0x100 + b.toNat) = word := Option.some.inj hw
  have := w.isLt
  have := d.isLt
  have := a.isLt
  have := b.isLt
  rw [BitVec.toNat_ofNat, Nat.mod_eq_of_lt (by omega)]
  generalize hx : (0x22000000 + w.toNat * 0x800000 + d.toNat * 0x10000 + a.toNat * 0x100 + b.toNat : Nat) = x
  obtain ⟨ho, e_b, e_a, e_d, e_w⟩ := Sys2Proof.Laws.fields_8at0_8at8_7at16_1at23 0x22 b a d w   (x := x) (by omega)
  simp only [decodeFields, ho, decodeInteger, e_b, e_a, e_d, e_w, Nat.reduceMod, Nat.reduceLeDiff, Nat.reduceEqDiff, ↓reduceIte]

theorem Sys2Proof.Laws.RoundTrip.vmulh (w : BitVec 1) (d : BitVec 7) (a : BitVec 8) (b : BitVec 8) :
    Sys2Proof.Laws.RoundTrip.Statement (.vmulh w d a b) := by
  intro word hw
  obtain rfl : BitVec.ofNat 32 (0x23000000 + w.toNat * 0x800000 + d.toNat * 0x10000 + a.toNat * 0x100 + b.toNat) = word := Option.some.inj hw
  have := w.isLt
  have := d.isLt
  have := a.isLt
  have := b.isLt
  rw [BitVec.toNat_ofNat, Nat.mod_eq_of_lt (by omega)]
  generalize hx : (0x23000000 + w.toNat * 0x800000 + d.toNat * 0x10000 + a.toNat * 0x100 + b.toNat : Nat) = x
  obtain ⟨ho, e_b, e_a, e_d, e_w⟩ := Sys2Proof.Laws.fields_8at0_8at8_7at16_1at23 0x23 b a d w   (x := x) (by omega)
  simp only [decodeFields, ho, decodeInteger, e_b, e_a, e_d, e_w, Nat.reduceMod, Nat.reduceLeDiff, Nat.reduceEqDiff, ↓reduceIte]

theorem Sys2Proof.Laws.RoundTrip.vmad (w : BitVec 1) (d : BitVec 7) (a : BitVec 8) (b : BitVec 8) :
    Sys2Proof.Laws.RoundTrip.Statement (.vmad w d a b) := by
  intro word hw
  obtain rfl : BitVec.ofNat 32 (0x24000000 + w.toNat * 0x800000 + d.toNat * 0x10000 + a.toNat * 0x100 + b.toNat) = word := Option.some.inj hw
  have := w.isLt
  have := d.isLt
  have := a.isLt
  have := b.isLt
  rw [BitVec.toNat_ofNat, Nat.mod_eq_of_lt (by omega)]
  generalize hx : (0x24000000 + w.toNat * 0x800000 + d.toNat * 0x10000 + a.toNat * 0x100 + b.toNat : Nat) = x
  obtain ⟨ho, e_b, e_a, e_d, e_w⟩ := Sys2Proof.Laws.fields_8at0_8at8_7at16_1at23 0x24 b a d w   (x := x) (by omega)
  simp only [decodeFields, ho, decodeInteger, e_b, e_a, e_d, e_w, Nat.reduceMod, Nat.reduceLeDiff, Nat.reduceEqDiff, ↓reduceIte]

theorem Sys2Proof.Laws.RoundTrip.vadds (w : BitVec 1) (d : BitVec 7) (a : BitVec 8) (b : BitVec 8) :
    Sys2Proof.Laws.RoundTrip.Statement (.vadds w d a b) := by
  intro word hw
  obtain rfl : BitVec.ofNat 32 (0x25000000 + w.toNat * 0x800000 + d.toNat * 0x10000 + a.toNat * 0x100 + b.toNat) = word := Option.some.inj hw
  have := w.isLt
  have := d.isLt
  have := a.isLt
  have := b.isLt
  rw [BitVec.toNat_ofNat, Nat.mod_eq_of_lt (by omega)]
  generalize hx : (0x25000000 + w.toNat * 0x800000 + d.toNat * 0x10000 + a.toNat * 0x100 + b.toNat : Nat) = x
  obtain ⟨ho, e_b, e_a, e_d, e_w⟩ := Sys2Proof.Laws.fields_8at0_8at8_7at16_1at23 0x25 b a d w   (x := x) (by omega)
  simp only [decodeFields, ho, decodeInteger, e_b, e_a, e_d, e_w, Nat.reduceMod, Nat.reduceLeDiff, Nat.reduceEqDiff, ↓reduceIte]

theorem Sys2Proof.Laws.RoundTrip.vsubs (w : BitVec 1) (d : BitVec 7) (a : BitVec 8) (b : BitVec 8) :
    Sys2Proof.Laws.RoundTrip.Statement (.vsubs w d a b) := by
  intro word hw
  obtain rfl : BitVec.ofNat 32 (0x26000000 + w.toNat * 0x800000 + d.toNat * 0x10000 + a.toNat * 0x100 + b.toNat) = word := Option.some.inj hw
  have := w.isLt
  have := d.isLt
  have := a.isLt
  have := b.isLt
  rw [BitVec.toNat_ofNat, Nat.mod_eq_of_lt (by omega)]
  generalize hx : (0x26000000 + w.toNat * 0x800000 + d.toNat * 0x10000 + a.toNat * 0x100 + b.toNat : Nat) = x
  obtain ⟨ho, e_b, e_a, e_d, e_w⟩ := Sys2Proof.Laws.fields_8at0_8at8_7at16_1at23 0x26 b a d w   (x := x) (by omega)
  simp only [decodeFields, ho, decodeInteger, e_b, e_a, e_d, e_w, Nat.reduceMod, Nat.reduceLeDiff, Nat.reduceEqDiff, ↓reduceIte]

theorem Sys2Proof.Laws.RoundTrip.vand (w : BitVec 1) (d : BitVec 7) (a : BitVec 8) (b : BitVec 8) :
    Sys2Proof.Laws.RoundTrip.Statement (.vand w d a b) := by
  intro word hw
  obtain rfl : BitVec.ofNat 32 (0x27000000 + w.toNat * 0x800000 + d.toNat * 0x10000 + a.toNat * 0x100 + b.toNat) = word := Option.some.inj hw
  have := w.isLt
  have := d.isLt
  have := a.isLt
  have := b.isLt
  rw [BitVec.toNat_ofNat, Nat.mod_eq_of_lt (by omega)]
  generalize hx : (0x27000000 + w.toNat * 0x800000 + d.toNat * 0x10000 + a.toNat * 0x100 + b.toNat : Nat) = x
  obtain ⟨ho, e_b, e_a, e_d, e_w⟩ := Sys2Proof.Laws.fields_8at0_8at8_7at16_1at23 0x27 b a d w   (x := x) (by omega)
  simp only [decodeFields, ho, decodeInteger, e_b, e_a, e_d, e_w, Nat.reduceMod, Nat.reduceLeDiff, Nat.reduceEqDiff, ↓reduceIte]

theorem Sys2Proof.Laws.RoundTrip.vor (w : BitVec 1) (d : BitVec 7) (a : BitVec 8) (b : BitVec 8) :
    Sys2Proof.Laws.RoundTrip.Statement (.vor w d a b) := by
  intro word hw
  obtain rfl : BitVec.ofNat 32 (0x28000000 + w.toNat * 0x800000 + d.toNat * 0x10000 + a.toNat * 0x100 + b.toNat) = word := Option.some.inj hw
  have := w.isLt
  have := d.isLt
  have := a.isLt
  have := b.isLt
  rw [BitVec.toNat_ofNat, Nat.mod_eq_of_lt (by omega)]
  generalize hx : (0x28000000 + w.toNat * 0x800000 + d.toNat * 0x10000 + a.toNat * 0x100 + b.toNat : Nat) = x
  obtain ⟨ho, e_b, e_a, e_d, e_w⟩ := Sys2Proof.Laws.fields_8at0_8at8_7at16_1at23 0x28 b a d w   (x := x) (by omega)
  simp only [decodeFields, ho, decodeInteger, e_b, e_a, e_d, e_w, Nat.reduceMod, Nat.reduceLeDiff, Nat.reduceEqDiff, ↓reduceIte]

theorem Sys2Proof.Laws.RoundTrip.vxor (w : BitVec 1) (d : BitVec 7) (a : BitVec 8) (b : BitVec 8) :
    Sys2Proof.Laws.RoundTrip.Statement (.vxor w d a b) := by
  intro word hw
  obtain rfl : BitVec.ofNat 32 (0x29000000 + w.toNat * 0x800000 + d.toNat * 0x10000 + a.toNat * 0x100 + b.toNat) = word := Option.some.inj hw
  have := w.isLt
  have := d.isLt
  have := a.isLt
  have := b.isLt
  rw [BitVec.toNat_ofNat, Nat.mod_eq_of_lt (by omega)]
  generalize hx : (0x29000000 + w.toNat * 0x800000 + d.toNat * 0x10000 + a.toNat * 0x100 + b.toNat : Nat) = x
  obtain ⟨ho, e_b, e_a, e_d, e_w⟩ := Sys2Proof.Laws.fields_8at0_8at8_7at16_1at23 0x29 b a d w   (x := x) (by omega)
  simp only [decodeFields, ho, decodeInteger, e_b, e_a, e_d, e_w, Nat.reduceMod, Nat.reduceLeDiff, Nat.reduceEqDiff, ↓reduceIte]

theorem Sys2Proof.Laws.RoundTrip.vshl (w : BitVec 1) (d : BitVec 7) (a : BitVec 8) (b : BitVec 8) :
    Sys2Proof.Laws.RoundTrip.Statement (.vshl w d a b) := by
  intro word hw
  obtain rfl : BitVec.ofNat 32 (0x2A000000 + w.toNat * 0x800000 + d.toNat * 0x10000 + a.toNat * 0x100 + b.toNat) = word := Option.some.inj hw
  have := w.isLt
  have := d.isLt
  have := a.isLt
  have := b.isLt
  rw [BitVec.toNat_ofNat, Nat.mod_eq_of_lt (by omega)]
  generalize hx : (0x2A000000 + w.toNat * 0x800000 + d.toNat * 0x10000 + a.toNat * 0x100 + b.toNat : Nat) = x
  obtain ⟨ho, e_b, e_a, e_d, e_w⟩ := Sys2Proof.Laws.fields_8at0_8at8_7at16_1at23 0x2a b a d w   (x := x) (by omega)
  simp only [decodeFields, ho, decodeInteger, e_b, e_a, e_d, e_w, Nat.reduceMod, Nat.reduceLeDiff, Nat.reduceEqDiff, ↓reduceIte]

theorem Sys2Proof.Laws.RoundTrip.vshr (w : BitVec 1) (d : BitVec 7) (a : BitVec 8) (b : BitVec 8) :
    Sys2Proof.Laws.RoundTrip.Statement (.vshr w d a b) := by
  intro word hw
  obtain rfl : BitVec.ofNat 32 (0x2B000000 + w.toNat * 0x800000 + d.toNat * 0x10000 + a.toNat * 0x100 + b.toNat) = word := Option.some.inj hw
  have := w.isLt
  have := d.isLt
  have := a.isLt
  have := b.isLt
  rw [BitVec.toNat_ofNat, Nat.mod_eq_of_lt (by omega)]
  generalize hx : (0x2B000000 + w.toNat * 0x800000 + d.toNat * 0x10000 + a.toNat * 0x100 + b.toNat : Nat) = x
  obtain ⟨ho, e_b, e_a, e_d, e_w⟩ := Sys2Proof.Laws.fields_8at0_8at8_7at16_1at23 0x2b b a d w   (x := x) (by omega)
  simp only [decodeFields, ho, decodeInteger, e_b, e_a, e_d, e_w, Nat.reduceMod, Nat.reduceLeDiff, Nat.reduceEqDiff, ↓reduceIte]

theorem Sys2Proof.Laws.RoundTrip.vsar (w : BitVec 1) (d : BitVec 7) (a : BitVec 8) (b : BitVec 8) :
    Sys2Proof.Laws.RoundTrip.Statement (.vsar w d a b) := by
  intro word hw
  obtain rfl : BitVec.ofNat 32 (0x2C000000 + w.toNat * 0x800000 + d.toNat * 0x10000 + a.toNat * 0x100 + b.toNat) = word := Option.some.inj hw
  have := w.isLt
  have := d.isLt
  have := a.isLt
  have := b.isLt
  rw [BitVec.toNat_ofNat, Nat.mod_eq_of_lt (by omega)]
  generalize hx : (0x2C000000 + w.toNat * 0x800000 + d.toNat * 0x10000 + a.toNat * 0x100 + b.toNat : Nat) = x
  obtain ⟨ho, e_b, e_a, e_d, e_w⟩ := Sys2Proof.Laws.fields_8at0_8at8_7at16_1at23 0x2c b a d w   (x := x) (by omega)
  simp only [decodeFields, ho, decodeInteger, e_b, e_a, e_d, e_w, Nat.reduceMod, Nat.reduceLeDiff, Nat.reduceEqDiff, ↓reduceIte]

theorem Sys2Proof.Laws.RoundTrip.vfsh (w : BitVec 1) (d : BitVec 7) (a : BitVec 8) (b : BitVec 8) :
    Sys2Proof.Laws.RoundTrip.Statement (.vfsh w d a b) := by
  intro word hw
  obtain rfl : BitVec.ofNat 32 (0x2D000000 + w.toNat * 0x800000 + d.toNat * 0x10000 + a.toNat * 0x100 + b.toNat) = word := Option.some.inj hw
  have := w.isLt
  have := d.isLt
  have := a.isLt
  have := b.isLt
  rw [BitVec.toNat_ofNat, Nat.mod_eq_of_lt (by omega)]
  generalize hx : (0x2D000000 + w.toNat * 0x800000 + d.toNat * 0x10000 + a.toNat * 0x100 + b.toNat : Nat) = x
  obtain ⟨ho, e_b, e_a, e_d, e_w⟩ := Sys2Proof.Laws.fields_8at0_8at8_7at16_1at23 0x2d b a d w   (x := x) (by omega)
  simp only [decodeFields, ho, decodeInteger, e_b, e_a, e_d, e_w, Nat.reduceMod, Nat.reduceLeDiff, Nat.reduceEqDiff, ↓reduceIte]

theorem Sys2Proof.Laws.RoundTrip.vmin (w : BitVec 1) (d : BitVec 7) (a : BitVec 8) (b : BitVec 8) :
    Sys2Proof.Laws.RoundTrip.Statement (.vmin w d a b) := by
  intro word hw
  obtain rfl : BitVec.ofNat 32 (0x2E000000 + w.toNat * 0x800000 + d.toNat * 0x10000 + a.toNat * 0x100 + b.toNat) = word := Option.some.inj hw
  have := w.isLt
  have := d.isLt
  have := a.isLt
  have := b.isLt
  rw [BitVec.toNat_ofNat, Nat.mod_eq_of_lt (by omega)]
  generalize hx : (0x2E000000 + w.toNat * 0x800000 + d.toNat * 0x10000 + a.toNat * 0x100 + b.toNat : Nat) = x
  obtain ⟨ho, e_b, e_a, e_d, e_w⟩ := Sys2Proof.Laws.fields_8at0_8at8_7at16_1at23 0x2e b a d w   (x := x) (by omega)
  simp only [decodeFields, ho, decodeInteger, e_b, e_a, e_d, e_w, Nat.reduceMod, Nat.reduceLeDiff, Nat.reduceEqDiff, ↓reduceIte]

theorem Sys2Proof.Laws.RoundTrip.vmax (w : BitVec 1) (d : BitVec 7) (a : BitVec 8) (b : BitVec 8) :
    Sys2Proof.Laws.RoundTrip.Statement (.vmax w d a b) := by
  intro word hw
  obtain rfl : BitVec.ofNat 32 (0x2F000000 + w.toNat * 0x800000 + d.toNat * 0x10000 + a.toNat * 0x100 + b.toNat) = word := Option.some.inj hw
  have := w.isLt
  have := d.isLt
  have := a.isLt
  have := b.isLt
  rw [BitVec.toNat_ofNat, Nat.mod_eq_of_lt (by omega)]
  generalize hx : (0x2F000000 + w.toNat * 0x800000 + d.toNat * 0x10000 + a.toNat * 0x100 + b.toNat : Nat) = x
  obtain ⟨ho, e_b, e_a, e_d, e_w⟩ := Sys2Proof.Laws.fields_8at0_8at8_7at16_1at23 0x2f b a d w   (x := x) (by omega)
  simp only [decodeFields, ho, decodeInteger, e_b, e_a, e_d, e_w, Nat.reduceMod, Nat.reduceLeDiff, Nat.reduceEqDiff, ↓reduceIte]

theorem Sys2Proof.Laws.RoundTrip.vminu (w : BitVec 1) (d : BitVec 7) (a : BitVec 8) (b : BitVec 8) :
    Sys2Proof.Laws.RoundTrip.Statement (.vminu w d a b) := by
  intro word hw
  obtain rfl : BitVec.ofNat 32 (0x30000000 + w.toNat * 0x800000 + d.toNat * 0x10000 + a.toNat * 0x100 + b.toNat) = word := Option.some.inj hw
  have := w.isLt
  have := d.isLt
  have := a.isLt
  have := b.isLt
  rw [BitVec.toNat_ofNat, Nat.mod_eq_of_lt (by omega)]
  generalize hx : (0x30000000 + w.toNat * 0x800000 + d.toNat * 0x10000 + a.toNat * 0x100 + b.toNat : Nat) = x
  obtain ⟨ho, e_b, e_a, e_d, e_w⟩ := Sys2Proof.Laws.fields_8at0_8at8_7at16_1at23 0x30 b a d w   (x := x) (by omega)
  simp only [decodeFields, ho, decodeInteger, e_b, e_a, e_d, e_w, Nat.reduceMod, Nat.reduceLeDiff, Nat.reduceEqDiff, ↓reduceIte]

theorem Sys2Proof.Laws.RoundTrip.vmaxu (w : BitVec 1) (d : BitVec 7) (a : BitVec 8) (b : BitVec 8) :
    Sys2Proof.Laws.RoundTrip.Statement (.vmaxu w d a b) := by
  intro word hw
  obtain rfl : BitVec.ofNat 32 (0x31000000 + w.toNat * 0x800000 + d.toNat * 0x10000 + a.toNat * 0x100 + b.toNat) = word := Option.some.inj hw
  have := w.isLt
  have := d.isLt
  have := a.isLt
  have := b.isLt
  rw [BitVec.toNat_ofNat, Nat.mod_eq_of_lt (by omega)]
  generalize hx : (0x31000000 + w.toNat * 0x800000 + d.toNat * 0x10000 + a.toNat * 0x100 + b.toNat : Nat) = x
  obtain ⟨ho, e_b, e_a, e_d, e_w⟩ := Sys2Proof.Laws.fields_8at0_8at8_7at16_1at23 0x31 b a d w   (x := x) (by omega)
  simp only [decodeFields, ho, decodeInteger, e_b, e_a, e_d, e_w, Nat.reduceMod, Nat.reduceLeDiff, Nat.reduceEqDiff, ↓reduceIte]

theorem Sys2Proof.Laws.RoundTrip.vbfe (w : BitVec 1) (d : BitVec 7) (a : BitVec 8) (b : BitVec 8) :
    Sys2Proof.Laws.RoundTrip.Statement (.vbfe w d a b) := by
  intro word hw
  obtain rfl : BitVec.ofNat 32 (0x32000000 + w.toNat * 0x800000 + d.toNat * 0x10000 + a.toNat * 0x100 + b.toNat) = word := Option.some.inj hw
  have := w.isLt
  have := d.isLt
  have := a.isLt
  have := b.isLt
  rw [BitVec.toNat_ofNat, Nat.mod_eq_of_lt (by omega)]
  generalize hx : (0x32000000 + w.toNat * 0x800000 + d.toNat * 0x10000 + a.toNat * 0x100 + b.toNat : Nat) = x
  obtain ⟨ho, e_b, e_a, e_d, e_w⟩ := Sys2Proof.Laws.fields_8at0_8at8_7at16_1at23 0x32 b a d w   (x := x) (by omega)
  simp only [decodeFields, ho, decodeInteger, e_b, e_a, e_d, e_w, Nat.reduceMod, Nat.reduceLeDiff, Nat.reduceEqDiff, ↓reduceIte]

theorem Sys2Proof.Laws.RoundTrip.vbfi (w : BitVec 1) (d : BitVec 7) (a : BitVec 8) (b : BitVec 8) :
    Sys2Proof.Laws.RoundTrip.Statement (.vbfi w d a b) := by
  intro word hw
  obtain rfl : BitVec.ofNat 32 (0x33000000 + w.toNat * 0x800000 + d.toNat * 0x10000 + a.toNat * 0x100 + b.toNat) = word := Option.some.inj hw
  have := w.isLt
  have := d.isLt
  have := a.isLt
  have := b.isLt
  rw [BitVec.toNat_ofNat, Nat.mod_eq_of_lt (by omega)]
  generalize hx : (0x33000000 + w.toNat * 0x800000 + d.toNat * 0x10000 + a.toNat * 0x100 + b.toNat : Nat) = x
  obtain ⟨ho, e_b, e_a, e_d, e_w⟩ := Sys2Proof.Laws.fields_8at0_8at8_7at16_1at23 0x33 b a d w   (x := x) (by omega)
  simp only [decodeFields, ho, decodeInteger, e_b, e_a, e_d, e_w, Nat.reduceMod, Nat.reduceLeDiff, Nat.reduceEqDiff, ↓reduceIte]

theorem Sys2Proof.Laws.RoundTrip.vcmp (cond : BitVec 4) (n : BitVec 3) (a : BitVec 8) (b : BitVec 8) :
    Sys2Proof.Laws.RoundTrip.Statement (.vcmp cond n a b) := by
  intro word hw
  obtain rfl : BitVec.ofNat 32 (0x34800000 + cond.toNat * 0x80000 + n.toNat * 0x10000 + a.toNat * 0x100 + b.toNat) = word := Option.some.inj hw
  have := cond.isLt
  have := n.isLt
  have := a.isLt
  have := b.isLt
  rw [BitVec.toNat_ofNat, Nat.mod_eq_of_lt (by omega)]
  generalize hx : (0x34800000 + cond.toNat * 0x80000 + n.toNat * 0x10000 + a.toNat * 0x100 + b.toNat : Nat) = x
  obtain ⟨ho, e_b, e_a, e_n, e_cond, h23⟩ := Sys2Proof.Laws.fields_8at0_8at8_3at16_4at19 0x34 b a n cond 1 (by decide) (x := x) (by omega)
  simp only [decodeFields, ho, decodeInteger, e_b, e_a, e_n, e_cond, h23, Nat.reduceMod, Nat.reduceLeDiff, Nat.reduceEqDiff, ↓reduceIte]

theorem Sys2Proof.Laws.RoundTrip.vsel (w : BitVec 1) (d : BitVec 7) (a : BitVec 8) (b : BitVec 8) :
    Sys2Proof.Laws.RoundTrip.Statement (.vsel w d a b) := by
  intro word hw
  obtain rfl : BitVec.ofNat 32 (0x35000000 + w.toNat * 0x800000 + d.toNat * 0x10000 + a.toNat * 0x100 + b.toNat) = word := Option.some.inj hw
  have := w.isLt
  have := d.isLt
  have := a.isLt
  have := b.isLt
  rw [BitVec.toNat_ofNat, Nat.mod_eq_of_lt (by omega)]
  generalize hx : (0x35000000 + w.toNat * 0x800000 + d.toNat * 0x10000 + a.toNat * 0x100 + b.toNat : Nat) = x
  obtain ⟨ho, e_b, e_a, e_d, e_w⟩ := Sys2Proof.Laws.fields_8at0_8at8_7at16_1at23 0x35 b a d w   (x := x) (by omega)
  simp only [decodeFields, ho, decodeInteger, e_b, e_a, e_d, e_w, Nat.reduceMod, Nat.reduceLeDiff, Nat.reduceEqDiff, ↓reduceIte]

theorem Sys2Proof.Laws.RoundTrip.vabs (w : BitVec 1) (d : BitVec 7) (a : BitVec 8) :
    Sys2Proof.Laws.RoundTrip.Statement (.vabs w d a) := by
  intro word hw
  obtain rfl : BitVec.ofNat 32 (0x37000000 + w.toNat * 0x800000 + d.toNat * 0x10000 + a.toNat * 0x100) = word := Option.some.inj hw
  have := w.isLt
  have := d.isLt
  have := a.isLt
  rw [BitVec.toNat_ofNat, Nat.mod_eq_of_lt (by omega)]
  generalize hx : (0x37000000 + w.toNat * 0x800000 + d.toNat * 0x10000 + a.toNat * 0x100 : Nat) = x
  obtain ⟨ho, e_a, e_d, e_w, h0⟩ := Sys2Proof.Laws.fields_8at8_7at16_1at23 0x37 a d w 0 (by decide) (x := x) (by omega)
  simp only [decodeFields, ho, decodeInteger, e_a, e_d, e_w, h0, Nat.reduceMod, Nat.reduceLeDiff, Nat.reduceEqDiff, ↓reduceIte]

theorem Sys2Proof.Laws.RoundTrip.vclz (w : BitVec 1) (d : BitVec 7) (a : BitVec 8) :
    Sys2Proof.Laws.RoundTrip.Statement (.vclz w d a) := by
  intro word hw
  obtain rfl : BitVec.ofNat 32 (0x37000001 + w.toNat * 0x800000 + d.toNat * 0x10000 + a.toNat * 0x100) = word := Option.some.inj hw
  have := w.isLt
  have := d.isLt
  have := a.isLt
  rw [BitVec.toNat_ofNat, Nat.mod_eq_of_lt (by omega)]
  generalize hx : (0x37000001 + w.toNat * 0x800000 + d.toNat * 0x10000 + a.toNat * 0x100 : Nat) = x
  obtain ⟨ho, e_a, e_d, e_w, h0⟩ := Sys2Proof.Laws.fields_8at8_7at16_1at23 0x37 a d w 1 (by decide) (x := x) (by omega)
  simp only [decodeFields, ho, decodeInteger, e_a, e_d, e_w, h0, Nat.reduceMod, Nat.reduceLeDiff, Nat.reduceEqDiff, ↓reduceIte]

theorem Sys2Proof.Laws.RoundTrip.vcnt (w : BitVec 1) (d : BitVec 7) (a : BitVec 8) :
    Sys2Proof.Laws.RoundTrip.Statement (.vcnt w d a) := by
  intro word hw
  obtain rfl : BitVec.ofNat 32 (0x37000002 + w.toNat * 0x800000 + d.toNat * 0x10000 + a.toNat * 0x100) = word := Option.some.inj hw
  have := w.isLt
  have := d.isLt
  have := a.isLt
  rw [BitVec.toNat_ofNat, Nat.mod_eq_of_lt (by omega)]
  generalize hx : (0x37000002 + w.toNat * 0x800000 + d.toNat * 0x10000 + a.toNat * 0x100 : Nat) = x
  obtain ⟨ho, e_a, e_d, e_w, h0⟩ := Sys2Proof.Laws.fields_8at8_7at16_1at23 0x37 a d w 2 (by decide) (x := x) (by omega)
  simp only [decodeFields, ho, decodeInteger, e_a, e_d, e_w, h0, Nat.reduceMod, Nat.reduceLeDiff, Nat.reduceEqDiff, ↓reduceIte]

theorem Sys2Proof.Laws.RoundTrip.vbrev (w : BitVec 1) (d : BitVec 7) (a : BitVec 8) :
    Sys2Proof.Laws.RoundTrip.Statement (.vbrev w d a) := by
  intro word hw
  obtain rfl : BitVec.ofNat 32 (0x37000003 + w.toNat * 0x800000 + d.toNat * 0x10000 + a.toNat * 0x100) = word := Option.some.inj hw
  have := w.isLt
  have := d.isLt
  have := a.isLt
  rw [BitVec.toNat_ofNat, Nat.mod_eq_of_lt (by omega)]
  generalize hx : (0x37000003 + w.toNat * 0x800000 + d.toNat * 0x10000 + a.toNat * 0x100 : Nat) = x
  obtain ⟨ho, e_a, e_d, e_w, h0⟩ := Sys2Proof.Laws.fields_8at8_7at16_1at23 0x37 a d w 3 (by decide) (x := x) (by omega)
  simp only [decodeFields, ho, decodeInteger, e_a, e_d, e_w, h0, Nat.reduceMod, Nat.reduceLeDiff, Nat.reduceEqDiff, ↓reduceIte]

theorem Sys2Proof.Laws.RoundTrip.vmov (w : BitVec 1) (d : BitVec 7) (a : BitVec 8) :
    Sys2Proof.Laws.RoundTrip.Statement (.vmov w d a) := by
  intro word hw
  obtain rfl : BitVec.ofNat 32 (0x37000004 + w.toNat * 0x800000 + d.toNat * 0x10000 + a.toNat * 0x100) = word := Option.some.inj hw
  have := w.isLt
  have := d.isLt
  have := a.isLt
  rw [BitVec.toNat_ofNat, Nat.mod_eq_of_lt (by omega)]
  generalize hx : (0x37000004 + w.toNat * 0x800000 + d.toNat * 0x10000 + a.toNat * 0x100 : Nat) = x
  obtain ⟨ho, e_a, e_d, e_w, h0⟩ := Sys2Proof.Laws.fields_8at8_7at16_1at23 0x37 a d w 4 (by decide) (x := x) (by omega)
  simp only [decodeFields, ho, decodeInteger, e_a, e_d, e_w, h0, Nat.reduceMod, Nat.reduceLeDiff, Nat.reduceEqDiff, ↓reduceIte]

theorem Sys2Proof.Laws.RoundTrip.vpm (w : BitVec 1) (d : BitVec 7) (n : BitVec 3) :
    Sys2Proof.Laws.RoundTrip.Statement (.vpm w d n) := by
  intro word hw
  obtain rfl : BitVec.ofNat 32 (0x37000005 + w.toNat * 0x800000 + d.toNat * 0x10000 + n.toNat * 0x100) = word := Option.some.inj hw
  have := w.isLt
  have := d.isLt
  have := n.isLt
  rw [BitVec.toNat_ofNat, Nat.mod_eq_of_lt (by omega)]
  generalize hx : (0x37000005 + w.toNat * 0x800000 + d.toNat * 0x10000 + n.toNat * 0x100 : Nat) = x
  obtain ⟨ho, e_n, e_d, e_w, h0, h11⟩ := Sys2Proof.Laws.fields_3at8_7at16_1at23 0x37 n d w 5 0 (by decide) (by decide) (x := x) (by omega)
  simp only [decodeFields, ho, decodeInteger, e_n, e_d, e_w, h0, h11, Nat.reduceMod, Nat.reduceLeDiff, Nat.reduceEqDiff, and_self, and_true, and_false, true_and, false_and, ↓reduceIte]

theorem Sys2Proof.Laws.RoundTrip.vmp (n : BitVec 3) (a : BitVec 8) :
    Sys2Proof.Laws.RoundTrip.Statement (.vmp n a) := by
  intro word hw
  obtain rfl : BitVec.ofNat 32 (0x37800006 + n.toNat * 0x10000 + a.toNat * 0x100) = word := Option.some.inj hw
  have := n.isLt
  have := a.isLt
  rw [BitVec.toNat_ofNat, Nat.mod_eq_of_lt (by omega)]
  generalize hx : (0x37800006 + n.toNat * 0x10000 + a.toNat * 0x100 : Nat) = x
  obtain ⟨ho, e_a, e_n, h0, h19⟩ := Sys2Proof.Laws.fields_8at8_3at16 0x37 a n 6 16 (by decide) (by decide) (x := x) (by omega)
  simp only [decodeFields, ho, decodeInteger, e_a, e_n, h0, h19, Nat.reduceMod, Nat.reduceLeDiff, Nat.reduceEqDiff, and_self, and_true, and_false, true_and, false_and, ↓reduceIte]

theorem Sys2Proof.Laws.RoundTrip.vfadd (w : BitVec 1) (d : BitVec 7) (a : BitVec 8) (b : BitVec 8) :
    Sys2Proof.Laws.RoundTrip.Statement (.vfadd w d a b) := by
  intro word hw
  obtain rfl : BitVec.ofNat 32 (0x38000000 + w.toNat * 0x800000 + d.toNat * 0x10000 + a.toNat * 0x100 + b.toNat) = word := Option.some.inj hw
  have := w.isLt
  have := d.isLt
  have := a.isLt
  have := b.isLt
  rw [BitVec.toNat_ofNat, Nat.mod_eq_of_lt (by omega)]
  generalize hx : (0x38000000 + w.toNat * 0x800000 + d.toNat * 0x10000 + a.toNat * 0x100 + b.toNat : Nat) = x
  obtain ⟨ho, e_b, e_a, e_d, e_w⟩ := Sys2Proof.Laws.fields_8at0_8at8_7at16_1at23 0x38 b a d w   (x := x) (by omega)
  simp only [decodeFields, ho, decodeFloat, e_b, e_a, e_d, e_w, Nat.reduceMod, Nat.reduceLeDiff, Nat.reduceEqDiff, ↓reduceIte]

theorem Sys2Proof.Laws.RoundTrip.vfsub (w : BitVec 1) (d : BitVec 7) (a : BitVec 8) (b : BitVec 8) :
    Sys2Proof.Laws.RoundTrip.Statement (.vfsub w d a b) := by
  intro word hw
  obtain rfl : BitVec.ofNat 32 (0x39000000 + w.toNat * 0x800000 + d.toNat * 0x10000 + a.toNat * 0x100 + b.toNat) = word := Option.some.inj hw
  have := w.isLt
  have := d.isLt
  have := a.isLt
  have := b.isLt
  rw [BitVec.toNat_ofNat, Nat.mod_eq_of_lt (by omega)]
  generalize hx : (0x39000000 + w.toNat * 0x800000 + d.toNat * 0x10000 + a.toNat * 0x100 + b.toNat : Nat) = x
  obtain ⟨ho, e_b, e_a, e_d, e_w⟩ := Sys2Proof.Laws.fields_8at0_8at8_7at16_1at23 0x39 b a d w   (x := x) (by omega)
  simp only [decodeFields, ho, decodeFloat, e_b, e_a, e_d, e_w, Nat.reduceMod, Nat.reduceLeDiff, Nat.reduceEqDiff, ↓reduceIte]

theorem Sys2Proof.Laws.RoundTrip.vfmul (w : BitVec 1) (d : BitVec 7) (a : BitVec 8) (b : BitVec 8) :
    Sys2Proof.Laws.RoundTrip.Statement (.vfmul w d a b) := by
  intro word hw
  obtain rfl : BitVec.ofNat 32 (0x3A000000 + w.toNat * 0x800000 + d.toNat * 0x10000 + a.toNat * 0x100 + b.toNat) = word := Option.some.inj hw
  have := w.isLt
  have := d.isLt
  have := a.isLt
  have := b.isLt
  rw [BitVec.toNat_ofNat, Nat.mod_eq_of_lt (by omega)]
  generalize hx : (0x3A000000 + w.toNat * 0x800000 + d.toNat * 0x10000 + a.toNat * 0x100 + b.toNat : Nat) = x
  obtain ⟨ho, e_b, e_a, e_d, e_w⟩ := Sys2Proof.Laws.fields_8at0_8at8_7at16_1at23 0x3a b a d w   (x := x) (by omega)
  simp only [decodeFields, ho, decodeFloat, e_b, e_a, e_d, e_w, Nat.reduceMod, Nat.reduceLeDiff, Nat.reduceEqDiff, ↓reduceIte]

theorem Sys2Proof.Laws.RoundTrip.vfma (w : BitVec 1) (d : BitVec 7) (a : BitVec 8) (b : BitVec 8) :
    Sys2Proof.Laws.RoundTrip.Statement (.vfma w d a b) := by
  intro word hw
  obtain rfl : BitVec.ofNat 32 (0x3B000000 + w.toNat * 0x800000 + d.toNat * 0x10000 + a.toNat * 0x100 + b.toNat) = word := Option.some.inj hw
  have := w.isLt
  have := d.isLt
  have := a.isLt
  have := b.isLt
  rw [BitVec.toNat_ofNat, Nat.mod_eq_of_lt (by omega)]
  generalize hx : (0x3B000000 + w.toNat * 0x800000 + d.toNat * 0x10000 + a.toNat * 0x100 + b.toNat : Nat) = x
  obtain ⟨ho, e_b, e_a, e_d, e_w⟩ := Sys2Proof.Laws.fields_8at0_8at8_7at16_1at23 0x3b b a d w   (x := x) (by omega)
  simp only [decodeFields, ho, decodeFloat, e_b, e_a, e_d, e_w, Nat.reduceMod, Nat.reduceLeDiff, Nat.reduceEqDiff, ↓reduceIte]

theorem Sys2Proof.Laws.RoundTrip.vfma2 (w : BitVec 1) (d : BitVec 7) (a : BitVec 8) (b : BitVec 8) :
    Sys2Proof.Laws.RoundTrip.Statement (.vfma2 w d a b) := by
  intro word hw
  obtain rfl : BitVec.ofNat 32 (0x3C000000 + w.toNat * 0x800000 + d.toNat * 0x10000 + a.toNat * 0x100 + b.toNat) = word := Option.some.inj hw
  have := w.isLt
  have := d.isLt
  have := a.isLt
  have := b.isLt
  rw [BitVec.toNat_ofNat, Nat.mod_eq_of_lt (by omega)]
  generalize hx : (0x3C000000 + w.toNat * 0x800000 + d.toNat * 0x10000 + a.toNat * 0x100 + b.toNat : Nat) = x
  obtain ⟨ho, e_b, e_a, e_d, e_w⟩ := Sys2Proof.Laws.fields_8at0_8at8_7at16_1at23 0x3c b a d w   (x := x) (by omega)
  simp only [decodeFields, ho, decodeFloat, e_b, e_a, e_d, e_w, Nat.reduceMod, Nat.reduceLeDiff, Nat.reduceEqDiff, ↓reduceIte]

theorem Sys2Proof.Laws.RoundTrip.vhfma2 (w : BitVec 1) (d : BitVec 7) (a : BitVec 8) (b : BitVec 8) :
    Sys2Proof.Laws.RoundTrip.Statement (.vhfma2 w d a b) := by
  intro word hw
  obtain rfl : BitVec.ofNat 32 (0x3D000000 + w.toNat * 0x800000 + d.toNat * 0x10000 + a.toNat * 0x100 + b.toNat) = word := Option.some.inj hw
  have := w.isLt
  have := d.isLt
  have := a.isLt
  have := b.isLt
  rw [BitVec.toNat_ofNat, Nat.mod_eq_of_lt (by omega)]
  generalize hx : (0x3D000000 + w.toNat * 0x800000 + d.toNat * 0x10000 + a.toNat * 0x100 + b.toNat : Nat) = x
  obtain ⟨ho, e_b, e_a, e_d, e_w⟩ := Sys2Proof.Laws.fields_8at0_8at8_7at16_1at23 0x3d b a d w   (x := x) (by omega)
  simp only [decodeFields, ho, decodeFloat, e_b, e_a, e_d, e_w, Nat.reduceMod, Nat.reduceLeDiff, Nat.reduceEqDiff, ↓reduceIte]

theorem Sys2Proof.Laws.RoundTrip.vfmin (w : BitVec 1) (d : BitVec 7) (a : BitVec 8) (b : BitVec 8) :
    Sys2Proof.Laws.RoundTrip.Statement (.vfmin w d a b) := by
  intro word hw
  obtain rfl : BitVec.ofNat 32 (0x3E000000 + w.toNat * 0x800000 + d.toNat * 0x10000 + a.toNat * 0x100 + b.toNat) = word := Option.some.inj hw
  have := w.isLt
  have := d.isLt
  have := a.isLt
  have := b.isLt
  rw [BitVec.toNat_ofNat, Nat.mod_eq_of_lt (by omega)]
  generalize hx : (0x3E000000 + w.toNat * 0x800000 + d.toNat * 0x10000 + a.toNat * 0x100 + b.toNat : Nat) = x
  obtain ⟨ho, e_b, e_a, e_d, e_w⟩ := Sys2Proof.Laws.fields_8at0_8at8_7at16_1at23 0x3e b a d w   (x := x) (by omega)
  simp only [decodeFields, ho, decodeFloat, e_b, e_a, e_d, e_w, Nat.reduceMod, Nat.reduceLeDiff, Nat.reduceEqDiff, ↓reduceIte]

theorem Sys2Proof.Laws.RoundTrip.vfmax (w : BitVec 1) (d : BitVec 7) (a : BitVec 8) (b : BitVec 8) :
    Sys2Proof.Laws.RoundTrip.Statement (.vfmax w d a b) := by
  intro word hw
  obtain rfl : BitVec.ofNat 32 (0x3F000000 + w.toNat * 0x800000 + d.toNat * 0x10000 + a.toNat * 0x100 + b.toNat) = word := Option.some.inj hw
  have := w.isLt
  have := d.isLt
  have := a.isLt
  have := b.isLt
  rw [BitVec.toNat_ofNat, Nat.mod_eq_of_lt (by omega)]
  generalize hx : (0x3F000000 + w.toNat * 0x800000 + d.toNat * 0x10000 + a.toNat * 0x100 + b.toNat : Nat) = x
  obtain ⟨ho, e_b, e_a, e_d, e_w⟩ := Sys2Proof.Laws.fields_8at0_8at8_7at16_1at23 0x3f b a d w   (x := x) (by omega)
  simp only [decodeFields, ho, decodeFloat, e_b, e_a, e_d, e_w, Nat.reduceMod, Nat.reduceLeDiff, Nat.reduceEqDiff, ↓reduceIte]

theorem Sys2Proof.Laws.RoundTrip.vfcmp (cond : BitVec 4) (n : BitVec 3) (a : BitVec 8) (b : BitVec 8) :
    Sys2Proof.Laws.RoundTrip.Statement (.vfcmp cond n a b) := by
  intro word hw
  obtain rfl : BitVec.ofNat 32 (0x40800000 + cond.toNat * 0x80000 + n.toNat * 0x10000 + a.toNat * 0x100 + b.toNat) = word := Option.some.inj hw
  have := cond.isLt
  have := n.isLt
  have := a.isLt
  have := b.isLt
  rw [BitVec.toNat_ofNat, Nat.mod_eq_of_lt (by omega)]
  generalize hx : (0x40800000 + cond.toNat * 0x80000 + n.toNat * 0x10000 + a.toNat * 0x100 + b.toNat : Nat) = x
  obtain ⟨ho, e_b, e_a, e_n, e_cond, h23⟩ := Sys2Proof.Laws.fields_8at0_8at8_3at16_4at19 0x40 b a n cond 1 (by decide) (x := x) (by omega)
  simp only [decodeFields, ho, decodeFloat, e_b, e_a, e_n, e_cond, h23, Nat.reduceMod, Nat.reduceLeDiff, Nat.reduceEqDiff, ↓reduceIte]

theorem Sys2Proof.Laws.RoundTrip.vfcvt (w : BitVec 1) (d : BitVec 7) (a : BitVec 8) (rnd : BitVec 3) (conv : BitVec 5) :
    Sys2Proof.Laws.RoundTrip.Statement (.vfcvt w d a rnd conv) := by
  intro word hw
  obtain rfl : BitVec.ofNat 32 (0x41000000 + w.toNat * 0x800000 + d.toNat * 0x10000 + a.toNat * 0x100 + rnd.toNat * 0x20 + conv.toNat) = word := Option.some.inj hw
  have := w.isLt
  have := d.isLt
  have := a.isLt
  have := rnd.isLt
  have := conv.isLt
  rw [BitVec.toNat_ofNat, Nat.mod_eq_of_lt (by omega)]
  generalize hx : (0x41000000 + w.toNat * 0x800000 + d.toNat * 0x10000 + a.toNat * 0x100 + rnd.toNat * 0x20 + conv.toNat : Nat) = x
  obtain ⟨ho, e_conv, e_rnd, e_a, e_d, e_w⟩ := Sys2Proof.Laws.fields_5at0_3at5_8at8_7at16_1at23 0x41 conv rnd a d w   (x := x) (by omega)
  simp only [decodeFields, ho, decodeFloat, e_conv, e_rnd, e_a, e_d, e_w, Nat.reduceMod, Nat.reduceLeDiff, Nat.reduceEqDiff, ↓reduceIte]

theorem Sys2Proof.Laws.RoundTrip.vfrcp (w : BitVec 1) (d : BitVec 7) (a : BitVec 8) :
    Sys2Proof.Laws.RoundTrip.Statement (.vfrcp w d a) := by
  intro word hw
  obtain rfl : BitVec.ofNat 32 (0x42000000 + w.toNat * 0x800000 + d.toNat * 0x10000 + a.toNat * 0x100) = word := Option.some.inj hw
  have := w.isLt
  have := d.isLt
  have := a.isLt
  rw [BitVec.toNat_ofNat, Nat.mod_eq_of_lt (by omega)]
  generalize hx : (0x42000000 + w.toNat * 0x800000 + d.toNat * 0x10000 + a.toNat * 0x100 : Nat) = x
  obtain ⟨ho, e_a, e_d, e_w, h0⟩ := Sys2Proof.Laws.fields_8at8_7at16_1at23 0x42 a d w 0 (by decide) (x := x) (by omega)
  simp only [decodeFields, ho, decodeFloat, e_a, e_d, e_w, h0, Nat.reduceMod, Nat.reduceLeDiff, Nat.reduceEqDiff, ↓reduceIte]

theorem Sys2Proof.Laws.RoundTrip.vfrsq (w : BitVec 1) (d : BitVec 7) (a : BitVec 8) :
    Sys2Proof.Laws.RoundTrip.Statement (.vfrsq w d a) := by
  intro word hw
  obtain rfl : BitVec.ofNat 32 (0x42000001 + w.toNat * 0x800000 + d.toNat * 0x10000 + a.toNat * 0x100) = word := Option.some.inj hw
  have := w.isLt
  have := d.isLt
  have := a.isLt
  rw [BitVec.toNat_ofNat, Nat.mod_eq_of_lt (by omega)]
  generalize hx : (0x42000001 + w.toNat * 0x800000 + d.toNat * 0x10000 + a.toNat * 0x100 : Nat) = x
  obtain ⟨ho, e_a, e_d, e_w, h0⟩ := Sys2Proof.Laws.fields_8at8_7at16_1at23 0x42 a d w 1 (by decide) (x := x) (by omega)
  simp only [decodeFields, ho, decodeFloat, e_a, e_d, e_w, h0, Nat.reduceMod, Nat.reduceLeDiff, Nat.reduceEqDiff, ↓reduceIte]

theorem Sys2Proof.Laws.RoundTrip.vfsqrt (w : BitVec 1) (d : BitVec 7) (a : BitVec 8) :
    Sys2Proof.Laws.RoundTrip.Statement (.vfsqrt w d a) := by
  intro word hw
  obtain rfl : BitVec.ofNat 32 (0x42000002 + w.toNat * 0x800000 + d.toNat * 0x10000 + a.toNat * 0x100) = word := Option.some.inj hw
  have := w.isLt
  have := d.isLt
  have := a.isLt
  rw [BitVec.toNat_ofNat, Nat.mod_eq_of_lt (by omega)]
  generalize hx : (0x42000002 + w.toNat * 0x800000 + d.toNat * 0x10000 + a.toNat * 0x100 : Nat) = x
  obtain ⟨ho, e_a, e_d, e_w, h0⟩ := Sys2Proof.Laws.fields_8at8_7at16_1at23 0x42 a d w 2 (by decide) (x := x) (by omega)
  simp only [decodeFields, ho, decodeFloat, e_a, e_d, e_w, h0, Nat.reduceMod, Nat.reduceLeDiff, Nat.reduceEqDiff, ↓reduceIte]

theorem Sys2Proof.Laws.RoundTrip.vfexp2 (w : BitVec 1) (d : BitVec 7) (a : BitVec 8) :
    Sys2Proof.Laws.RoundTrip.Statement (.vfexp2 w d a) := by
  intro word hw
  obtain rfl : BitVec.ofNat 32 (0x42000003 + w.toNat * 0x800000 + d.toNat * 0x10000 + a.toNat * 0x100) = word := Option.some.inj hw
  have := w.isLt
  have := d.isLt
  have := a.isLt
  rw [BitVec.toNat_ofNat, Nat.mod_eq_of_lt (by omega)]
  generalize hx : (0x42000003 + w.toNat * 0x800000 + d.toNat * 0x10000 + a.toNat * 0x100 : Nat) = x
  obtain ⟨ho, e_a, e_d, e_w, h0⟩ := Sys2Proof.Laws.fields_8at8_7at16_1at23 0x42 a d w 3 (by decide) (x := x) (by omega)
  simp only [decodeFields, ho, decodeFloat, e_a, e_d, e_w, h0, Nat.reduceMod, Nat.reduceLeDiff, Nat.reduceEqDiff, ↓reduceIte]

theorem Sys2Proof.Laws.RoundTrip.vflog2 (w : BitVec 1) (d : BitVec 7) (a : BitVec 8) :
    Sys2Proof.Laws.RoundTrip.Statement (.vflog2 w d a) := by
  intro word hw
  obtain rfl : BitVec.ofNat 32 (0x42000004 + w.toNat * 0x800000 + d.toNat * 0x10000 + a.toNat * 0x100) = word := Option.some.inj hw
  have := w.isLt
  have := d.isLt
  have := a.isLt
  rw [BitVec.toNat_ofNat, Nat.mod_eq_of_lt (by omega)]
  generalize hx : (0x42000004 + w.toNat * 0x800000 + d.toNat * 0x10000 + a.toNat * 0x100 : Nat) = x
  obtain ⟨ho, e_a, e_d, e_w, h0⟩ := Sys2Proof.Laws.fields_8at8_7at16_1at23 0x42 a d w 4 (by decide) (x := x) (by omega)
  simp only [decodeFields, ho, decodeFloat, e_a, e_d, e_w, h0, Nat.reduceMod, Nat.reduceLeDiff, Nat.reduceEqDiff, ↓reduceIte]

theorem Sys2Proof.Laws.RoundTrip.vfsin (w : BitVec 1) (d : BitVec 7) (a : BitVec 8) :
    Sys2Proof.Laws.RoundTrip.Statement (.vfsin w d a) := by
  intro word hw
  obtain rfl : BitVec.ofNat 32 (0x42000005 + w.toNat * 0x800000 + d.toNat * 0x10000 + a.toNat * 0x100) = word := Option.some.inj hw
  have := w.isLt
  have := d.isLt
  have := a.isLt
  rw [BitVec.toNat_ofNat, Nat.mod_eq_of_lt (by omega)]
  generalize hx : (0x42000005 + w.toNat * 0x800000 + d.toNat * 0x10000 + a.toNat * 0x100 : Nat) = x
  obtain ⟨ho, e_a, e_d, e_w, h0⟩ := Sys2Proof.Laws.fields_8at8_7at16_1at23 0x42 a d w 5 (by decide) (x := x) (by omega)
  simp only [decodeFields, ho, decodeFloat, e_a, e_d, e_w, h0, Nat.reduceMod, Nat.reduceLeDiff, Nat.reduceEqDiff, ↓reduceIte]

theorem Sys2Proof.Laws.RoundTrip.vfcos (w : BitVec 1) (d : BitVec 7) (a : BitVec 8) :
    Sys2Proof.Laws.RoundTrip.Statement (.vfcos w d a) := by
  intro word hw
  obtain rfl : BitVec.ofNat 32 (0x42000006 + w.toNat * 0x800000 + d.toNat * 0x10000 + a.toNat * 0x100) = word := Option.some.inj hw
  have := w.isLt
  have := d.isLt
  have := a.isLt
  rw [BitVec.toNat_ofNat, Nat.mod_eq_of_lt (by omega)]
  generalize hx : (0x42000006 + w.toNat * 0x800000 + d.toNat * 0x10000 + a.toNat * 0x100 : Nat) = x
  obtain ⟨ho, e_a, e_d, e_w, h0⟩ := Sys2Proof.Laws.fields_8at8_7at16_1at23 0x42 a d w 6 (by decide) (x := x) (by omega)
  simp only [decodeFields, ho, decodeFloat, e_a, e_d, e_w, h0, Nat.reduceMod, Nat.reduceLeDiff, Nat.reduceEqDiff, ↓reduceIte]

theorem Sys2Proof.Laws.RoundTrip.vcbld (a : BitVec 8) :
    Sys2Proof.Laws.RoundTrip.Statement (.vcbld a) := by
  intro word hw
  obtain rfl : BitVec.ofNat 32 (0x43000000 + a.toNat * 0x100) = word := Option.some.inj hw
  have := a.isLt
  rw [BitVec.toNat_ofNat, Nat.mod_eq_of_lt (by omega)]
  generalize hx : (0x43000000 + a.toNat * 0x100 : Nat) = x
  obtain ⟨ho, e_a, h0, h16⟩ := Sys2Proof.Laws.fields_8at8 0x43 a 0 0 (by decide) (by decide) (x := x) (by omega)
  simp only [decodeFields, ho, decodeFloat, e_a, h0, h16, Nat.reduceMod, Nat.reduceLeDiff, Nat.reduceEqDiff, and_self, and_true, and_false, true_and, false_and, ↓reduceIte]

theorem Sys2Proof.Laws.RoundTrip.vcbx (w : BitVec 1) (d : BitVec 7) (a : BitVec 8) (b : BitVec 8) :
    Sys2Proof.Laws.RoundTrip.Statement (.vcbx w d a b) := by
  intro word hw
  obtain rfl : BitVec.ofNat 32 (0x44000000 + w.toNat * 0x800000 + d.toNat * 0x10000 + a.toNat * 0x100 + b.toNat) = word := Option.some.inj hw
  have := w.isLt
  have := d.isLt
  have := a.isLt
  have := b.isLt
  rw [BitVec.toNat_ofNat, Nat.mod_eq_of_lt (by omega)]
  generalize hx : (0x44000000 + w.toNat * 0x800000 + d.toNat * 0x10000 + a.toNat * 0x100 + b.toNat : Nat) = x
  obtain ⟨ho, e_b, e_a, e_d, e_w⟩ := Sys2Proof.Laws.fields_8at0_8at8_7at16_1at23 0x44 b a d w   (x := x) (by omega)
  simp only [decodeFields, ho, decodeFloat, e_b, e_a, e_d, e_w, Nat.reduceMod, Nat.reduceLeDiff, Nat.reduceEqDiff, ↓reduceIte]

theorem Sys2Proof.Laws.RoundTrip.vcbq (w : BitVec 1) (d : BitVec 7) (a : BitVec 8) (b : BitVec 8) :
    Sys2Proof.Laws.RoundTrip.Statement (.vcbq w d a b) := by
  intro word hw
  obtain rfl : BitVec.ofNat 32 (0x45000000 + w.toNat * 0x800000 + d.toNat * 0x10000 + a.toNat * 0x100 + b.toNat) = word := Option.some.inj hw
  have := w.isLt
  have := d.isLt
  have := a.isLt
  have := b.isLt
  rw [BitVec.toNat_ofNat, Nat.mod_eq_of_lt (by omega)]
  generalize hx : (0x45000000 + w.toNat * 0x800000 + d.toNat * 0x10000 + a.toNat * 0x100 + b.toNat : Nat) = x
  obtain ⟨ho, e_b, e_a, e_d, e_w⟩ := Sys2Proof.Laws.fields_8at0_8at8_7at16_1at23 0x45 b a d w   (x := x) (by omega)
  simp only [decodeFields, ho, decodeFloat, e_b, e_a, e_d, e_w, Nat.reduceMod, Nat.reduceLeDiff, Nat.reduceEqDiff, ↓reduceIte]

theorem Sys2Proof.Laws.RoundTrip.vshflIdx (w : BitVec 1) (d : BitVec 7) (a : BitVec 8) (b : BitVec 8) :
    Sys2Proof.Laws.RoundTrip.Statement (.vshflIdx w d a b) := by
  intro word hw
  obtain rfl : BitVec.ofNat 32 (0x50000000 + w.toNat * 0x800000 + d.toNat * 0x10000 + a.toNat * 0x100 + b.toNat) = word := Option.some.inj hw
  have := w.isLt
  have := d.isLt
  have := a.isLt
  have := b.isLt
  rw [BitVec.toNat_ofNat, Nat.mod_eq_of_lt (by omega)]
  generalize hx : (0x50000000 + w.toNat * 0x800000 + d.toNat * 0x10000 + a.toNat * 0x100 + b.toNat : Nat) = x
  obtain ⟨ho, e_b, e_a, e_d, e_w⟩ := Sys2Proof.Laws.fields_8at0_8at8_7at16_1at23 0x50 b a d w   (x := x) (by omega)
  simp only [decodeFields, ho, decodeLane, e_b, e_a, e_d, e_w, Nat.reduceMod, Nat.reduceLeDiff, Nat.reduceEqDiff, ↓reduceIte]

theorem Sys2Proof.Laws.RoundTrip.vshflUp (w : BitVec 1) (d : BitVec 7) (a : BitVec 8) (b : BitVec 8) :
    Sys2Proof.Laws.RoundTrip.Statement (.vshflUp w d a b) := by
  intro word hw
  obtain rfl : BitVec.ofNat 32 (0x51000000 + w.toNat * 0x800000 + d.toNat * 0x10000 + a.toNat * 0x100 + b.toNat) = word := Option.some.inj hw
  have := w.isLt
  have := d.isLt
  have := a.isLt
  have := b.isLt
  rw [BitVec.toNat_ofNat, Nat.mod_eq_of_lt (by omega)]
  generalize hx : (0x51000000 + w.toNat * 0x800000 + d.toNat * 0x10000 + a.toNat * 0x100 + b.toNat : Nat) = x
  obtain ⟨ho, e_b, e_a, e_d, e_w⟩ := Sys2Proof.Laws.fields_8at0_8at8_7at16_1at23 0x51 b a d w   (x := x) (by omega)
  simp only [decodeFields, ho, decodeLane, e_b, e_a, e_d, e_w, Nat.reduceMod, Nat.reduceLeDiff, Nat.reduceEqDiff, ↓reduceIte]

theorem Sys2Proof.Laws.RoundTrip.vshflDown (w : BitVec 1) (d : BitVec 7) (a : BitVec 8) (b : BitVec 8) :
    Sys2Proof.Laws.RoundTrip.Statement (.vshflDown w d a b) := by
  intro word hw
  obtain rfl : BitVec.ofNat 32 (0x52000000 + w.toNat * 0x800000 + d.toNat * 0x10000 + a.toNat * 0x100 + b.toNat) = word := Option.some.inj hw
  have := w.isLt
  have := d.isLt
  have := a.isLt
  have := b.isLt
  rw [BitVec.toNat_ofNat, Nat.mod_eq_of_lt (by omega)]
  generalize hx : (0x52000000 + w.toNat * 0x800000 + d.toNat * 0x10000 + a.toNat * 0x100 + b.toNat : Nat) = x
  obtain ⟨ho, e_b, e_a, e_d, e_w⟩ := Sys2Proof.Laws.fields_8at0_8at8_7at16_1at23 0x52 b a d w   (x := x) (by omega)
  simp only [decodeFields, ho, decodeLane, e_b, e_a, e_d, e_w, Nat.reduceMod, Nat.reduceLeDiff, Nat.reduceEqDiff, ↓reduceIte]

theorem Sys2Proof.Laws.RoundTrip.vshflXor (w : BitVec 1) (d : BitVec 7) (a : BitVec 8) (b : BitVec 8) :
    Sys2Proof.Laws.RoundTrip.Statement (.vshflXor w d a b) := by
  intro word hw
  obtain rfl : BitVec.ofNat 32 (0x53000000 + w.toNat * 0x800000 + d.toNat * 0x10000 + a.toNat * 0x100 + b.toNat) = word := Option.some.inj hw
  have := w.isLt
  have := d.isLt
  have := a.isLt
  have := b.isLt
  rw [BitVec.toNat_ofNat, Nat.mod_eq_of_lt (by omega)]
  generalize hx : (0x53000000 + w.toNat * 0x800000 + d.toNat * 0x10000 + a.toNat * 0x100 + b.toNat : Nat) = x
  obtain ⟨ho, e_b, e_a, e_d, e_w⟩ := Sys2Proof.Laws.fields_8at0_8at8_7at16_1at23 0x53 b a d w   (x := x) (by omega)
  simp only [decodeFields, ho, decodeLane, e_b, e_a, e_d, e_w, Nat.reduceMod, Nat.reduceLeDiff, Nat.reduceEqDiff, ↓reduceIte]

theorem Sys2Proof.Laws.RoundTrip.vvoteAny (w : BitVec 1) (d : BitVec 7) (n : BitVec 3) :
    Sys2Proof.Laws.RoundTrip.Statement (.vvoteAny w d n) := by
  intro word hw
  obtain rfl : BitVec.ofNat 32 (0x54000000 + w.toNat * 0x800000 + d.toNat * 0x10000 + n.toNat * 0x100) = word := Option.some.inj hw
  have := w.isLt
  have := d.isLt
  have := n.isLt
  rw [BitVec.toNat_ofNat, Nat.mod_eq_of_lt (by omega)]
  generalize hx : (0x54000000 + w.toNat * 0x800000 + d.toNat * 0x10000 + n.toNat * 0x100 : Nat) = x
  obtain ⟨ho, e_n, e_d, e_w, h0, h11⟩ := Sys2Proof.Laws.fields_3at8_7at16_1at23 0x54 n d w 0 0 (by decide) (by decide) (x := x) (by omega)
  simp only [decodeFields, ho, decodeLane, e_n, e_d, e_w, h0, h11, Nat.reduceMod, Nat.reduceLeDiff, Nat.reduceEqDiff, and_self, and_true, and_false, true_and, false_and, ↓reduceIte]

theorem Sys2Proof.Laws.RoundTrip.vvoteAll (w : BitVec 1) (d : BitVec 7) (n : BitVec 3) :
    Sys2Proof.Laws.RoundTrip.Statement (.vvoteAll w d n) := by
  intro word hw
  obtain rfl : BitVec.ofNat 32 (0x54000001 + w.toNat * 0x800000 + d.toNat * 0x10000 + n.toNat * 0x100) = word := Option.some.inj hw
  have := w.isLt
  have := d.isLt
  have := n.isLt
  rw [BitVec.toNat_ofNat, Nat.mod_eq_of_lt (by omega)]
  generalize hx : (0x54000001 + w.toNat * 0x800000 + d.toNat * 0x10000 + n.toNat * 0x100 : Nat) = x
  obtain ⟨ho, e_n, e_d, e_w, h0, h11⟩ := Sys2Proof.Laws.fields_3at8_7at16_1at23 0x54 n d w 1 0 (by decide) (by decide) (x := x) (by omega)
  simp only [decodeFields, ho, decodeLane, e_n, e_d, e_w, h0, h11, Nat.reduceMod, Nat.reduceLeDiff, Nat.reduceEqDiff, and_self, and_true, and_false, true_and, false_and, ↓reduceIte]

theorem Sys2Proof.Laws.RoundTrip.vvoteBallot (w : BitVec 1) (d : BitVec 7) (n : BitVec 3) :
    Sys2Proof.Laws.RoundTrip.Statement (.vvoteBallot w d n) := by
  intro word hw
  obtain rfl : BitVec.ofNat 32 (0x54000002 + w.toNat * 0x800000 + d.toNat * 0x10000 + n.toNat * 0x100) = word := Option.some.inj hw
  have := w.isLt
  have := d.isLt
  have := n.isLt
  rw [BitVec.toNat_ofNat, Nat.mod_eq_of_lt (by omega)]
  generalize hx : (0x54000002 + w.toNat * 0x800000 + d.toNat * 0x10000 + n.toNat * 0x100 : Nat) = x
  obtain ⟨ho, e_n, e_d, e_w, h0, h11⟩ := Sys2Proof.Laws.fields_3at8_7at16_1at23 0x54 n d w 2 0 (by decide) (by decide) (x := x) (by omega)
  simp only [decodeFields, ho, decodeLane, e_n, e_d, e_w, h0, h11, Nat.reduceMod, Nat.reduceLeDiff, Nat.reduceEqDiff, and_self, and_true, and_false, true_and, false_and, ↓reduceIte]

theorem Sys2Proof.Laws.RoundTrip.vred (w : BitVec 1) (d : BitVec 7) (a : BitVec 8) (op : BitVec 4) :
    Sys2Proof.Laws.RoundTrip.Statement (.vred w d a op) := by
  intro word hw
  obtain rfl : BitVec.ofNat 32 (0x55000000 + w.toNat * 0x800000 + d.toNat * 0x10000 + a.toNat * 0x100 + op.toNat) = word := Option.some.inj hw
  have := w.isLt
  have := d.isLt
  have := a.isLt
  have := op.isLt
  rw [BitVec.toNat_ofNat, Nat.mod_eq_of_lt (by omega)]
  generalize hx : (0x55000000 + w.toNat * 0x800000 + d.toNat * 0x10000 + a.toNat * 0x100 + op.toNat : Nat) = x
  obtain ⟨ho, e_op, e_a, e_d, e_w, h4⟩ := Sys2Proof.Laws.fields_4at0_8at8_7at16_1at23 0x55 op a d w 0 (by decide) (x := x) (by omega)
  simp only [decodeFields, ho, decodeLane, e_op, e_a, e_d, e_w, h4, Nat.reduceMod, Nat.reduceLeDiff, Nat.reduceEqDiff, ↓reduceIte]

theorem Sys2Proof.Laws.RoundTrip.vscan (w : BitVec 1) (d : BitVec 7) (a : BitVec 8) (op : BitVec 4) :
    Sys2Proof.Laws.RoundTrip.Statement (.vscan w d a op) := by
  intro word hw
  obtain rfl : BitVec.ofNat 32 (0x55000010 + w.toNat * 0x800000 + d.toNat * 0x10000 + a.toNat * 0x100 + op.toNat) = word := Option.some.inj hw
  have := w.isLt
  have := d.isLt
  have := a.isLt
  have := op.isLt
  rw [BitVec.toNat_ofNat, Nat.mod_eq_of_lt (by omega)]
  generalize hx : (0x55000010 + w.toNat * 0x800000 + d.toNat * 0x10000 + a.toNat * 0x100 + op.toNat : Nat) = x
  obtain ⟨ho, e_op, e_a, e_d, e_w, h4⟩ := Sys2Proof.Laws.fields_4at0_8at8_7at16_1at23 0x55 op a d w 1 (by decide) (x := x) (by omega)
  simp only [decodeFields, ho, decodeLane, e_op, e_a, e_d, e_w, h4, Nat.reduceMod, Nat.reduceLeDiff, Nat.reduceEqDiff, ↓reduceIte]

theorem Sys2Proof.Laws.RoundTrip.vbcast (w : BitVec 1) (d : BitVec 7) (a : BitVec 8) (b : BitVec 8) :
    Sys2Proof.Laws.RoundTrip.Statement (.vbcast w d a b) := by
  intro word hw
  obtain rfl : BitVec.ofNat 32 (0x56000000 + w.toNat * 0x800000 + d.toNat * 0x10000 + a.toNat * 0x100 + b.toNat) = word := Option.some.inj hw
  have := w.isLt
  have := d.isLt
  have := a.isLt
  have := b.isLt
  rw [BitVec.toNat_ofNat, Nat.mod_eq_of_lt (by omega)]
  generalize hx : (0x56000000 + w.toNat * 0x800000 + d.toNat * 0x10000 + a.toNat * 0x100 + b.toNat : Nat) = x
  obtain ⟨ho, e_b, e_a, e_d, e_w⟩ := Sys2Proof.Laws.fields_8at0_8at8_7at16_1at23 0x56 b a d w   (x := x) (by omega)
  simp only [decodeFields, ho, decodeLane, e_b, e_a, e_d, e_w, Nat.reduceMod, Nat.reduceLeDiff, Nat.reduceEqDiff, ↓reduceIte]

theorem Sys2Proof.Laws.RoundTrip.vmatch (w : BitVec 1) (d : BitVec 7) (a : BitVec 8) :
    Sys2Proof.Laws.RoundTrip.Statement (.vmatch w d a) := by
  intro word hw
  obtain rfl : BitVec.ofNat 32 (0x57000000 + w.toNat * 0x800000 + d.toNat * 0x10000 + a.toNat * 0x100) = word := Option.some.inj hw
  have := w.isLt
  have := d.isLt
  have := a.isLt
  rw [BitVec.toNat_ofNat, Nat.mod_eq_of_lt (by omega)]
  generalize hx : (0x57000000 + w.toNat * 0x800000 + d.toNat * 0x10000 + a.toNat * 0x100 : Nat) = x
  obtain ⟨ho, e_a, e_d, e_w, h0⟩ := Sys2Proof.Laws.fields_8at8_7at16_1at23 0x57 a d w 0 (by decide) (x := x) (by omega)
  simp only [decodeFields, ho, decodeLane, e_a, e_d, e_w, h0, Nat.reduceMod, Nat.reduceLeDiff, Nat.reduceEqDiff, ↓reduceIte]

theorem Sys2Proof.Laws.RoundTrip.vld (sem : BitVec 1) (data : BitVec 7) (off : BitVec 8) (view : BitVec 5) (size : BitVec 3) :
    Sys2Proof.Laws.RoundTrip.Statement (.vld sem data off view size) := by
  intro word hw
  obtain rfl : BitVec.ofNat 32 (0x58000000 + sem.toNat * 0x800000 + data.toNat * 0x10000 + off.toNat * 0x100 + view.toNat * 0x8 + size.toNat) = word := Option.some.inj hw
  have := sem.isLt
  have := data.isLt
  have := off.isLt
  have := view.isLt
  have := size.isLt
  rw [BitVec.toNat_ofNat, Nat.mod_eq_of_lt (by omega)]
  generalize hx : (0x58000000 + sem.toNat * 0x800000 + data.toNat * 0x10000 + off.toNat * 0x100 + view.toNat * 0x8 + size.toNat : Nat) = x
  obtain ⟨ho, e_size, e_view, e_off, e_data, e_sem⟩ := Sys2Proof.Laws.fields_3at0_5at3_8at8_7at16_1at23 0x58 size view off data sem   (x := x) (by omega)
  simp only [decodeFields, ho, decodeLane, e_size, e_view, e_off, e_data, e_sem, Nat.reduceMod, Nat.reduceLeDiff, Nat.reduceEqDiff, ↓reduceIte]

theorem Sys2Proof.Laws.RoundTrip.vst (sem : BitVec 1) (data : BitVec 7) (off : BitVec 8) (view : BitVec 5) (size : BitVec 3) :
    Sys2Proof.Laws.RoundTrip.Statement (.vst sem data off view size) := by
  intro word hw
  obtain rfl : BitVec.ofNat 32 (0x59000000 + sem.toNat * 0x800000 + data.toNat * 0x10000 + off.toNat * 0x100 + view.toNat * 0x8 + size.toNat) = word := Option.some.inj hw
  have := sem.isLt
  have := data.isLt
  have := off.isLt
  have := view.isLt
  have := size.isLt
  rw [BitVec.toNat_ofNat, Nat.mod_eq_of_lt (by omega)]
  generalize hx : (0x59000000 + sem.toNat * 0x800000 + data.toNat * 0x10000 + off.toNat * 0x100 + view.toNat * 0x8 + size.toNat : Nat) = x
  obtain ⟨ho, e_size, e_view, e_off, e_data, e_sem⟩ := Sys2Proof.Laws.fields_3at0_5at3_8at8_7at16_1at23 0x59 size view off data sem   (x := x) (by omega)
  simp only [decodeFields, ho, decodeLane, e_size, e_view, e_off, e_data, e_sem, Nat.reduceMod, Nat.reduceLeDiff, Nat.reduceEqDiff, ↓reduceIte]

theorem Sys2Proof.Laws.RoundTrip.vstm (sem : BitVec 1) (data : BitVec 7) (off : BitVec 8) (view : BitVec 5) (size : BitVec 3) :
    Sys2Proof.Laws.RoundTrip.Statement (.vstm sem data off view size) := by
  intro word hw
  obtain rfl : BitVec.ofNat 32 (0x5A000000 + sem.toNat * 0x800000 + data.toNat * 0x10000 + off.toNat * 0x100 + view.toNat * 0x8 + size.toNat) = word := Option.some.inj hw
  have := sem.isLt
  have := data.isLt
  have := off.isLt
  have := view.isLt
  have := size.isLt
  rw [BitVec.toNat_ofNat, Nat.mod_eq_of_lt (by omega)]
  generalize hx : (0x5A000000 + sem.toNat * 0x800000 + data.toNat * 0x10000 + off.toNat * 0x100 + view.toNat * 0x8 + size.toNat : Nat) = x
  obtain ⟨ho, e_size, e_view, e_off, e_data, e_sem⟩ := Sys2Proof.Laws.fields_3at0_5at3_8at8_7at16_1at23 0x5a size view off data sem   (x := x) (by omega)
  simp only [decodeFields, ho, decodeLane, e_size, e_view, e_off, e_data, e_sem, Nat.reduceMod, Nat.reduceLeDiff, Nat.reduceEqDiff, ↓reduceIte]

theorem Sys2Proof.Laws.RoundTrip.vatom (sem : BitVec 1) (data : BitVec 7) (off : BitVec 8) (view : BitVec 5) (op : BitVec 3) :
    Sys2Proof.Laws.RoundTrip.Statement (.vatom sem data off view op) := by
  intro word hw
  obtain rfl : BitVec.ofNat 32 (0x5B000000 + sem.toNat * 0x800000 + data.toNat * 0x10000 + off.toNat * 0x100 + view.toNat * 0x8 + op.toNat) = word := Option.some.inj hw
  have := sem.isLt
  have := data.isLt
  have := off.isLt
  have := view.isLt
  have := op.isLt
  rw [BitVec.toNat_ofNat, Nat.mod_eq_of_lt (by omega)]
  generalize hx : (0x5B000000 + sem.toNat * 0x800000 + data.toNat * 0x10000 + off.toNat * 0x100 + view.toNat * 0x8 + op.toNat : Nat) = x
  obtain ⟨ho, e_op, e_view, e_off, e_data, e_sem⟩ := Sys2Proof.Laws.fields_3at0_5at3_8at8_7at16_1at23 0x5b op view off data sem   (x := x) (by omega)
  simp only [decodeFields, ho, decodeLane, e_op, e_view, e_off, e_data, e_sem, Nat.reduceMod, Nat.reduceLeDiff, Nat.reduceEqDiff, ↓reduceIte]

theorem Sys2Proof.Laws.RoundTrip.vcas (sem : BitVec 1) (data : BitVec 7) (off : BitVec 8) (view : BitVec 5) (wide : BitVec 1) :
    Sys2Proof.Laws.RoundTrip.Statement (.vcas sem data off view wide) := by
  intro word hw
  obtain rfl : BitVec.ofNat 32 (0x5C000002 + sem.toNat * 0x800000 + data.toNat * 0x10000 + off.toNat * 0x100 + view.toNat * 0x8 + wide.toNat) = word := Option.some.inj hw
  have := sem.isLt
  have := data.isLt
  have := off.isLt
  have := view.isLt
  have := wide.isLt
  rw [BitVec.toNat_ofNat, Nat.mod_eq_of_lt (by omega)]
  generalize hx : (0x5C000002 + sem.toNat * 0x800000 + data.toNat * 0x10000 + off.toNat * 0x100 + view.toNat * 0x8 + wide.toNat : Nat) = x
  obtain ⟨ho, e_wide, e_view, e_off, e_data, e_sem, h1⟩ := Sys2Proof.Laws.fields_1at0_5at3_8at8_7at16_1at23 0x5c wide view off data sem 1 (by decide) (x := x) (by omega)
  simp only [decodeFields, ho, decodeLane, e_wide, e_view, e_off, e_data, e_sem, h1, Nat.reduceMod, Nat.reduceLeDiff, Nat.reduceEqDiff, ↓reduceIte]

theorem Sys2Proof.Laws.RoundTrip.sld (sem : BitVec 1) (data : BitVec 7) (off : BitVec 8) (view : BitVec 5) (size : BitVec 3) :
    Sys2Proof.Laws.RoundTrip.Statement (.sld sem data off view size) := by
  intro word hw
  obtain rfl : BitVec.ofNat 32 (0x5D000000 + sem.toNat * 0x800000 + data.toNat * 0x10000 + off.toNat * 0x100 + view.toNat * 0x8 + size.toNat) = word := Option.some.inj hw
  have := sem.isLt
  have := data.isLt
  have := off.isLt
  have := view.isLt
  have := size.isLt
  rw [BitVec.toNat_ofNat, Nat.mod_eq_of_lt (by omega)]
  generalize hx : (0x5D000000 + sem.toNat * 0x800000 + data.toNat * 0x10000 + off.toNat * 0x100 + view.toNat * 0x8 + size.toNat : Nat) = x
  obtain ⟨ho, e_size, e_view, e_off, e_data, e_sem⟩ := Sys2Proof.Laws.fields_3at0_5at3_8at8_7at16_1at23 0x5d size view off data sem   (x := x) (by omega)
  simp only [decodeFields, ho, decodeLane, e_size, e_view, e_off, e_data, e_sem, Nat.reduceMod, Nat.reduceLeDiff, Nat.reduceEqDiff, ↓reduceIte]

theorem Sys2Proof.Laws.RoundTrip.sst (sem : BitVec 1) (data : BitVec 7) (off : BitVec 8) (view : BitVec 5) (size : BitVec 3) :
    Sys2Proof.Laws.RoundTrip.Statement (.sst sem data off view size) := by
  intro word hw
  obtain rfl : BitVec.ofNat 32 (0x5E000000 + sem.toNat * 0x800000 + data.toNat * 0x10000 + off.toNat * 0x100 + view.toNat * 0x8 + size.toNat) = word := Option.some.inj hw
  have := sem.isLt
  have := data.isLt
  have := off.isLt
  have := view.isLt
  have := size.isLt
  rw [BitVec.toNat_ofNat, Nat.mod_eq_of_lt (by omega)]
  generalize hx : (0x5E000000 + sem.toNat * 0x800000 + data.toNat * 0x10000 + off.toNat * 0x100 + view.toNat * 0x8 + size.toNat : Nat) = x
  obtain ⟨ho, e_size, e_view, e_off, e_data, e_sem⟩ := Sys2Proof.Laws.fields_3at0_5at3_8at8_7at16_1at23 0x5e size view off data sem   (x := x) (by omega)
  simp only [decodeFields, ho, decodeLane, e_size, e_view, e_off, e_data, e_sem, Nat.reduceMod, Nat.reduceLeDiff, Nat.reduceEqDiff, ↓reduceIte]

theorem Sys2Proof.Laws.RoundTrip.satom (sem : BitVec 1) (data : BitVec 7) (off : BitVec 8) (view : BitVec 5) (op : BitVec 3) :
    Sys2Proof.Laws.RoundTrip.Statement (.satom sem data off view op) := by
  intro word hw
  obtain rfl : BitVec.ofNat 32 (0x5F000000 + sem.toNat * 0x800000 + data.toNat * 0x10000 + off.toNat * 0x100 + view.toNat * 0x8 + op.toNat) = word := Option.some.inj hw
  have := sem.isLt
  have := data.isLt
  have := off.isLt
  have := view.isLt
  have := op.isLt
  rw [BitVec.toNat_ofNat, Nat.mod_eq_of_lt (by omega)]
  generalize hx : (0x5F000000 + sem.toNat * 0x800000 + data.toNat * 0x10000 + off.toNat * 0x100 + view.toNat * 0x8 + op.toNat : Nat) = x
  obtain ⟨ho, e_op, e_view, e_off, e_data, e_sem⟩ := Sys2Proof.Laws.fields_3at0_5at3_8at8_7at16_1at23 0x5f op view off data sem   (x := x) (by omega)
  simp only [decodeFields, ho, decodeLane, e_op, e_view, e_off, e_data, e_sem, Nat.reduceMod, Nat.reduceLeDiff, Nat.reduceEqDiff, ↓reduceIte]

theorem Sys2Proof.Laws.RoundTrip.trd (data : BitVec 7) (off : BitVec 8) (t : BitVec 3) (size : BitVec 3) :
    Sys2Proof.Laws.RoundTrip.Statement (.trd data off t size) := by
  intro word hw
  obtain rfl : BitVec.ofNat 32 (0x60000000 + data.toNat * 0x10000 + off.toNat * 0x100 + t.toNat * 0x8 + size.toNat) = word := Option.some.inj hw
  have := data.isLt
  have := off.isLt
  have := t.isLt
  have := size.isLt
  rw [BitVec.toNat_ofNat, Nat.mod_eq_of_lt (by omega)]
  generalize hx : (0x60000000 + data.toNat * 0x10000 + off.toNat * 0x100 + t.toNat * 0x8 + size.toNat : Nat) = x
  obtain ⟨ho, e_size, e_t, e_off, e_data, h6, h23⟩ := Sys2Proof.Laws.fields_3at0_3at3_8at8_7at16 0x60 size t off data 0 0 (by decide) (by decide) (x := x) (by omega)
  simp only [decodeFields, ho, decodeLane, e_size, e_t, e_off, e_data, h6, h23, Nat.reduceMod, Nat.reduceLeDiff, Nat.reduceEqDiff, and_self, and_true, and_false, true_and, false_and, ↓reduceIte]

theorem Sys2Proof.Laws.RoundTrip.twr (data : BitVec 7) (off : BitVec 8) (t : BitVec 3) (size : BitVec 3) :
    Sys2Proof.Laws.RoundTrip.Statement (.twr data off t size) := by
  intro word hw
  obtain rfl : BitVec.ofNat 32 (0x61000000 + data.toNat * 0x10000 + off.toNat * 0x100 + t.toNat * 0x8 + size.toNat) = word := Option.some.inj hw
  have := data.isLt
  have := off.isLt
  have := t.isLt
  have := size.isLt
  rw [BitVec.toNat_ofNat, Nat.mod_eq_of_lt (by omega)]
  generalize hx : (0x61000000 + data.toNat * 0x10000 + off.toNat * 0x100 + t.toNat * 0x8 + size.toNat : Nat) = x
  obtain ⟨ho, e_size, e_t, e_off, e_data, h6, h23⟩ := Sys2Proof.Laws.fields_3at0_3at3_8at8_7at16 0x61 size t off data 0 0 (by decide) (by decide) (x := x) (by omega)
  simp only [decodeFields, ho, decodeLane, e_size, e_t, e_off, e_data, h6, h23, Nat.reduceMod, Nat.reduceLeDiff, Nat.reduceEqDiff, and_self, and_true, and_false, true_and, false_and, ↓reduceIte]

theorem Sys2Proof.Laws.RoundTrip.vprf (off : BitVec 8) (view : BitVec 5) (lvl : BitVec 3) :
    Sys2Proof.Laws.RoundTrip.Statement (.vprf off view lvl) := by
  intro word hw
  obtain rfl : BitVec.ofNat 32 (0x62000000 + off.toNat * 0x100 + view.toNat * 0x8 + lvl.toNat) = word := Option.some.inj hw
  have := off.isLt
  have := view.isLt
  have := lvl.isLt
  rw [BitVec.toNat_ofNat, Nat.mod_eq_of_lt (by omega)]
  generalize hx : (0x62000000 + off.toNat * 0x100 + view.toNat * 0x8 + lvl.toNat : Nat) = x
  obtain ⟨ho, e_lvl, e_view, e_off, h16⟩ := Sys2Proof.Laws.fields_3at0_5at3_8at8 0x62 lvl view off 0 (by decide) (x := x) (by omega)
  simp only [decodeFields, ho, decodeLane, e_lvl, e_view, e_off, h16, Nat.reduceMod, Nat.reduceLeDiff, Nat.reduceEqDiff, ↓reduceIte]

theorem Sys2Proof.Laws.RoundTrip.fence (kind : BitVec 3) (scope : BitVec 3) :
    Sys2Proof.Laws.RoundTrip.Statement (.fence kind scope) := by
  intro word hw
  obtain rfl : BitVec.ofNat 32 (0x64000000 + kind.toNat * 0x8 + scope.toNat) = word := Option.some.inj hw
  have := kind.isLt
  have := scope.isLt
  rw [BitVec.toNat_ofNat, Nat.mod_eq_of_lt (by omega)]
  generalize hx : (0x64000000 + kind.toNat * 0x8 + scope.toNat : Nat) = x
  obtain ⟨ho, e_scope, e_kind, h6⟩ := Sys2Proof.Laws.fields_3at0_3at3 0x64 scope kind 0 (by decide) (x := x) (by omega)
  simp only [decodeFields, ho, decodeSync, e_scope, e_kind, h6, Nat.reduceMod, Nat.reduceLeDiff, Nat.reduceEqDiff, ↓reduceIte]

theorem Sys2Proof.Laws.RoundTrip.bari (ka : BitVec 6) (bar : BitVec 6) :
    Sys2Proof.Laws.RoundTrip.Statement (.bari ka bar) := by
  intro word hw
  obtain rfl : BitVec.ofNat 32 (0x65000000 + ka.toNat * 0x40000 + bar.toNat * 0x40) = word := Option.some.inj hw
  have := ka.isLt
  have := bar.isLt
  rw [BitVec.toNat_ofNat, Nat.mod_eq_of_lt (by omega)]
  generalize hx : (0x65000000 + ka.toNat * 0x40000 + bar.toNat * 0x40 : Nat) = x
  obtain ⟨ho, e_bar, e_ka, h0, h12⟩ := Sys2Proof.Laws.fields_6at6_6at18 0x65 bar ka 0 0 (by decide) (by decide) (x := x) (by omega)
  simp only [decodeFields, ho, decodeSync, e_bar, e_ka, h0, h12, Nat.reduceMod, Nat.reduceLeDiff, Nat.reduceEqDiff, and_self, and_true, and_false, true_and, false_and, ↓reduceIte]

theorem Sys2Proof.Laws.RoundTrip.barv (ka : BitVec 6) (bar : BitVec 6) :
    Sys2Proof.Laws.RoundTrip.Statement (.barv ka bar) := by
  intro word hw
  obtain rfl : BitVec.ofNat 32 (0x65000001 + ka.toNat * 0x40000 + bar.toNat * 0x40) = word := Option.some.inj hw
  have := ka.isLt
  have := bar.isLt
  rw [BitVec.toNat_ofNat, Nat.mod_eq_of_lt (by omega)]
  generalize hx : (0x65000001 + ka.toNat * 0x40000 + bar.toNat * 0x40 : Nat) = x
  obtain ⟨ho, e_bar, e_ka, h0, h12⟩ := Sys2Proof.Laws.fields_6at6_6at18 0x65 bar ka 1 0 (by decide) (by decide) (x := x) (by omega)
  simp only [decodeFields, ho, decodeSync, e_bar, e_ka, h0, h12, Nat.reduceMod, Nat.reduceLeDiff, Nat.reduceEqDiff, and_self, and_true, and_false, true_and, false_and, ↓reduceIte]

theorem Sys2Proof.Laws.RoundTrip.bard (bar : BitVec 6) :
    Sys2Proof.Laws.RoundTrip.Statement (.bard bar) := by
  intro word hw
  obtain rfl : BitVec.ofNat 32 (0x65000002 + bar.toNat * 0x40) = word := Option.some.inj hw
  have := bar.isLt
  rw [BitVec.toNat_ofNat, Nat.mod_eq_of_lt (by omega)]
  generalize hx : (0x65000002 + bar.toNat * 0x40 : Nat) = x
  obtain ⟨ho, e_bar, h0, h12⟩ := Sys2Proof.Laws.fields_6at6 0x65 bar 2 0 (by decide) (by decide) (x := x) (by omega)
  have j0 : x / 2 ^ 12 % 2 ^ 6 = 0 := by omega
  simp only [decodeFields, ho, decodeSync, e_bar, h0, h12, j0, Nat.reduceMod, Nat.reduceLeDiff, Nat.reduceEqDiff, and_self, and_true, and_false, true_and, false_and, ↓reduceIte]

theorem Sys2Proof.Laws.RoundTrip.barw (ka : BitVec 6) (bar : BitVec 6) :
    Sys2Proof.Laws.RoundTrip.Statement (.barw ka bar) := by
  intro word hw
  obtain rfl : BitVec.ofNat 32 (0x65000003 + ka.toNat * 0x40000 + bar.toNat * 0x40) = word := Option.some.inj hw
  have := ka.isLt
  have := bar.isLt
  rw [BitVec.toNat_ofNat, Nat.mod_eq_of_lt (by omega)]
  generalize hx : (0x65000003 + ka.toNat * 0x40000 + bar.toNat * 0x40 : Nat) = x
  obtain ⟨ho, e_bar, e_ka, h0, h12⟩ := Sys2Proof.Laws.fields_6at6_6at18 0x65 bar ka 3 0 (by decide) (by decide) (x := x) (by omega)
  simp only [decodeFields, ho, decodeSync, e_bar, e_ka, h0, h12, Nat.reduceMod, Nat.reduceLeDiff, Nat.reduceEqDiff, and_self, and_true, and_false, true_and, false_and, ↓reduceIte]

theorem Sys2Proof.Laws.RoundTrip.bart (ka : BitVec 6) (bar : BitVec 6) :
    Sys2Proof.Laws.RoundTrip.Statement (.bart ka bar) := by
  intro word hw
  obtain rfl : BitVec.ofNat 32 (0x65000004 + ka.toNat * 0x40000 + bar.toNat * 0x40) = word := Option.some.inj hw
  have := ka.isLt
  have := bar.isLt
  rw [BitVec.toNat_ofNat, Nat.mod_eq_of_lt (by omega)]
  generalize hx : (0x65000004 + ka.toNat * 0x40000 + bar.toNat * 0x40 : Nat) = x
  obtain ⟨ho, e_bar, e_ka, h0, h12⟩ := Sys2Proof.Laws.fields_6at6_6at18 0x65 bar ka 4 0 (by decide) (by decide) (x := x) (by omega)
  simp only [decodeFields, ho, decodeSync, e_bar, e_ka, h0, h12, Nat.reduceMod, Nat.reduceLeDiff, Nat.reduceEqDiff, and_self, and_true, and_false, true_and, false_and, ↓reduceIte]

theorem Sys2Proof.Laws.RoundTrip.qpush (ka : BitVec 6) (q : BitVec 4) :
    Sys2Proof.Laws.RoundTrip.Statement (.qpush ka q) := by
  intro word hw
  obtain rfl : BitVec.ofNat 32 (0x66000000 + ka.toNat * 0x40000 + q.toNat * 0x40) = word := Option.some.inj hw
  have := ka.isLt
  have := q.isLt
  rw [BitVec.toNat_ofNat, Nat.mod_eq_of_lt (by omega)]
  generalize hx : (0x66000000 + ka.toNat * 0x40000 + q.toNat * 0x40 : Nat) = x
  obtain ⟨ho, e_q, e_ka, h0, h10⟩ := Sys2Proof.Laws.fields_4at6_6at18 0x66 q ka 0 0 (by decide) (by decide) (x := x) (by omega)
  simp only [decodeFields, ho, decodeSync, e_q, e_ka, h0, h10, Nat.reduceMod, Nat.reduceLeDiff, Nat.reduceEqDiff, and_self, and_true, and_false, true_and, false_and, ↓reduceIte]

theorem Sys2Proof.Laws.RoundTrip.qpop (ka : BitVec 6) (q : BitVec 4) :
    Sys2Proof.Laws.RoundTrip.Statement (.qpop ka q) := by
  intro word hw
  obtain rfl : BitVec.ofNat 32 (0x66000001 + ka.toNat * 0x40000 + q.toNat * 0x40) = word := Option.some.inj hw
  have := ka.isLt
  have := q.isLt
  rw [BitVec.toNat_ofNat, Nat.mod_eq_of_lt (by omega)]
  generalize hx : (0x66000001 + ka.toNat * 0x40000 + q.toNat * 0x40 : Nat) = x
  obtain ⟨ho, e_q, e_ka, h0, h10⟩ := Sys2Proof.Laws.fields_4at6_6at18 0x66 q ka 1 0 (by decide) (by decide) (x := x) (by omega)
  simp only [decodeFields, ho, decodeSync, e_q, e_ka, h0, h10, Nat.reduceMod, Nat.reduceLeDiff, Nat.reduceEqDiff, and_self, and_true, and_false, true_and, false_and, ↓reduceIte]

theorem Sys2Proof.Laws.RoundTrip.qpeek (ka : BitVec 6) (m : BitVec 3) (q : BitVec 4) :
    Sys2Proof.Laws.RoundTrip.Statement (.qpeek ka m q) := by
  intro word hw
  obtain rfl : BitVec.ofNat 32 (0x66000002 + ka.toNat * 0x40000 + m.toNat * 0x1000 + q.toNat * 0x40) = word := Option.some.inj hw
  have := ka.isLt
  have := m.isLt
  have := q.isLt
  rw [BitVec.toNat_ofNat, Nat.mod_eq_of_lt (by omega)]
  generalize hx : (0x66000002 + ka.toNat * 0x40000 + m.toNat * 0x1000 + q.toNat * 0x40 : Nat) = x
  obtain ⟨ho, e_q, e_m, e_ka, h0, h10, h15⟩ := Sys2Proof.Laws.fields_4at6_3at12_6at18 0x66 q m ka 2 0 0 (by decide) (by decide) (by decide) (x := x) (by omega)
  simp only [decodeFields, ho, decodeSync, e_q, e_m, e_ka, h0, h10, h15, Nat.reduceMod, Nat.reduceLeDiff, Nat.reduceEqDiff, and_self, and_true, and_false, true_and, false_and, ↓reduceIte]

theorem Sys2Proof.Laws.RoundTrip.qrel (q : BitVec 4) :
    Sys2Proof.Laws.RoundTrip.Statement (.qrel q) := by
  intro word hw
  obtain rfl : BitVec.ofNat 32 (0x66000003 + q.toNat * 0x40) = word := Option.some.inj hw
  have := q.isLt
  rw [BitVec.toNat_ofNat, Nat.mod_eq_of_lt (by omega)]
  generalize hx : (0x66000003 + q.toNat * 0x40 : Nat) = x
  obtain ⟨ho, e_q, h0, h10⟩ := Sys2Proof.Laws.fields_4at6 0x66 q 3 0 (by decide) (by decide) (x := x) (by omega)
  have j0 : x / 2 ^ 10 % 2 ^ 8 = 0 := by omega
  have j1 : x / 2 ^ 10 % 2 ^ 2 = 0 := by omega
  have j2 : x / 2 ^ 15 % 2 ^ 3 = 0 := by omega
  simp only [decodeFields, ho, decodeSync, e_q, h0, h10, j0, j1, j2, Nat.reduceMod, Nat.reduceLeDiff, Nat.reduceEqDiff, and_self, and_true, and_false, true_and, false_and, ↓reduceIte]

theorem Sys2Proof.Laws.RoundTrip.spawn (ka : BitVec 6) (m : BitVec 3) :
    Sys2Proof.Laws.RoundTrip.Statement (.spawn ka m) := by
  intro word hw
  obtain rfl : BitVec.ofNat 32 (0x67000000 + ka.toNat * 0x40000 + m.toNat * 0x1000) = word := Option.some.inj hw
  have := ka.isLt
  have := m.isLt
  rw [BitVec.toNat_ofNat, Nat.mod_eq_of_lt (by omega)]
  generalize hx : (0x67000000 + ka.toNat * 0x40000 + m.toNat * 0x1000 : Nat) = x
  obtain ⟨ho, e_m, e_ka, h0, h15⟩ := Sys2Proof.Laws.fields_3at12_6at18 0x67 m ka 0 0 (by decide) (by decide) (x := x) (by omega)
  simp only [decodeFields, ho, decodeSync, e_m, e_ka, h0, h15, Nat.reduceMod, Nat.reduceLeDiff, Nat.reduceEqDiff, and_self, and_true, and_false, true_and, false_and, ↓reduceIte]

theorem Sys2Proof.Laws.RoundTrip.spawnDc (ka : BitVec 6) (m : BitVec 3) (kc : BitVec 6) :
    Sys2Proof.Laws.RoundTrip.Statement (.spawnDc ka m kc) := by
  intro word hw
  obtain rfl : BitVec.ofNat 32 (0x67000001 + ka.toNat * 0x40000 + m.toNat * 0x1000 + kc.toNat * 0x40) = word := Option.some.inj hw
  have := ka.isLt
  have := m.isLt
  have := kc.isLt
  rw [BitVec.toNat_ofNat, Nat.mod_eq_of_lt (by omega)]
  generalize hx : (0x67000001 + ka.toNat * 0x40000 + m.toNat * 0x1000 + kc.toNat * 0x40 : Nat) = x
  obtain ⟨ho, e_kc, e_m, e_ka, h0, h15⟩ := Sys2Proof.Laws.fields_6at6_3at12_6at18 0x67 kc m ka 1 0 (by decide) (by decide) (x := x) (by omega)
  have j0 : (x / 2 ^ 0 % 2 ^ 12 = 0) = False := by apply eq_false; omega
  simp only [decodeFields, ho, decodeSync, e_kc, e_m, e_ka, h0, h15, j0, Nat.reduceMod, Nat.reduceLeDiff, Nat.reduceEqDiff, and_self, and_true, and_false, true_and, false_and, ↓reduceIte]

theorem Sys2Proof.Laws.RoundTrip.fget (data : BitVec 7) (off : BitVec 8) (view : BitVec 5) :
    Sys2Proof.Laws.RoundTrip.Statement (.fget data off view) := by
  intro word hw
  obtain rfl : BitVec.ofNat 32 (0x68000000 + data.toNat * 0x10000 + off.toNat * 0x100 + view.toNat * 0x8) = word := Option.some.inj hw
  have := data.isLt
  have := off.isLt
  have := view.isLt
  rw [BitVec.toNat_ofNat, Nat.mod_eq_of_lt (by omega)]
  generalize hx : (0x68000000 + data.toNat * 0x10000 + off.toNat * 0x100 + view.toNat * 0x8 : Nat) = x
  obtain ⟨ho, e_view, e_off, e_data, h0, h23⟩ := Sys2Proof.Laws.fields_5at3_8at8_7at16 0x68 view off data 0 0 (by decide) (by decide) (x := x) (by omega)
  simp only [decodeFields, ho, decodeSync, e_view, e_off, e_data, h0, h23, Nat.reduceMod, Nat.reduceLeDiff, Nat.reduceEqDiff, and_self, and_true, and_false, true_and, false_and, ↓reduceIte]

theorem Sys2Proof.Laws.RoundTrip.fput (data : BitVec 7) (off : BitVec 8) (view : BitVec 5) :
    Sys2Proof.Laws.RoundTrip.Statement (.fput data off view) := by
  intro word hw
  obtain rfl : BitVec.ofNat 32 (0x68000001 + data.toNat * 0x10000 + off.toNat * 0x100 + view.toNat * 0x8) = word := Option.some.inj hw
  have := data.isLt
  have := off.isLt
  have := view.isLt
  rw [BitVec.toNat_ofNat, Nat.mod_eq_of_lt (by omega)]
  generalize hx : (0x68000001 + data.toNat * 0x10000 + off.toNat * 0x100 + view.toNat * 0x8 : Nat) = x
  obtain ⟨ho, e_view, e_off, e_data, h0, h23⟩ := Sys2Proof.Laws.fields_5at3_8at8_7at16 0x68 view off data 1 0 (by decide) (by decide) (x := x) (by omega)
  simp only [decodeFields, ho, decodeSync, e_view, e_off, e_data, h0, h23, Nat.reduceMod, Nat.reduceLeDiff, Nat.reduceEqDiff, and_self, and_true, and_false, true_and, false_and, ↓reduceIte]

theorem Sys2Proof.Laws.RoundTrip.dcnew (ka : BitVec 6) (kb : BitVec 6) :
    Sys2Proof.Laws.RoundTrip.Statement (.dcnew ka kb) := by
  intro word hw
  obtain rfl : BitVec.ofNat 32 (0x69000000 + ka.toNat * 0x40000 + kb.toNat * 0x1000) = word := Option.some.inj hw
  have := ka.isLt
  have := kb.isLt
  rw [BitVec.toNat_ofNat, Nat.mod_eq_of_lt (by omega)]
  generalize hx : (0x69000000 + ka.toNat * 0x40000 + kb.toNat * 0x1000 : Nat) = x
  obtain ⟨ho, e_kb, e_ka, h0⟩ := Sys2Proof.Laws.fields_6at12_6at18 0x69 kb ka 0 (by decide) (x := x) (by omega)
  simp only [decodeFields, ho, decodeSync, e_kb, e_ka, h0, Nat.reduceMod, Nat.reduceLeDiff, Nat.reduceEqDiff, ↓reduceIte]

theorem Sys2Proof.Laws.RoundTrip.dcdec (ka : BitVec 6) :
    Sys2Proof.Laws.RoundTrip.Statement (.dcdec ka) := by
  intro word hw
  obtain rfl : BitVec.ofNat 32 (0x69000001 + ka.toNat * 0x40000) = word := Option.some.inj hw
  have := ka.isLt
  rw [BitVec.toNat_ofNat, Nat.mod_eq_of_lt (by omega)]
  generalize hx : (0x69000001 + ka.toNat * 0x40000 : Nat) = x
  obtain ⟨ho, e_ka, h0⟩ := Sys2Proof.Laws.fields_6at18 0x69 ka 1 (by decide) (x := x) (by omega)
  have j0 : x / 2 ^ 0 % 2 ^ 12 = 1 := by omega
  simp only [decodeFields, ho, decodeSync, e_ka, h0, j0, Nat.reduceMod, Nat.reduceLeDiff, Nat.reduceEqDiff, ↓reduceIte]

theorem Sys2Proof.Laws.RoundTrip.launch (ka : BitVec 6) :
    Sys2Proof.Laws.RoundTrip.Statement (.launch ka) := by
  intro word hw
  obtain rfl : BitVec.ofNat 32 (0x6A000000 + ka.toNat * 0x40000) = word := Option.some.inj hw
  have := ka.isLt
  rw [BitVec.toNat_ofNat, Nat.mod_eq_of_lt (by omega)]
  generalize hx : (0x6A000000 + ka.toNat * 0x40000 : Nat) = x
  obtain ⟨ho, e_ka, h0⟩ := Sys2Proof.Laws.fields_6at18 0x6a ka 0 (by decide) (x := x) (by omega)
  simp only [decodeFields, ho, decodeSync, e_ka, h0, Nat.reduceMod, Nat.reduceLeDiff, Nat.reduceEqDiff, ↓reduceIte]

theorem Sys2Proof.Laws.RoundTrip.evset (ka : BitVec 6) (g : BitVec 2) :
    Sys2Proof.Laws.RoundTrip.Statement (.evset ka g) := by
  intro word hw
  obtain rfl : BitVec.ofNat 32 (0x6A000001 + ka.toNat * 0x40000 + g.toNat * 0x1000) = word := Option.some.inj hw
  have := ka.isLt
  have := g.isLt
  rw [BitVec.toNat_ofNat, Nat.mod_eq_of_lt (by omega)]
  generalize hx : (0x6A000001 + ka.toNat * 0x40000 + g.toNat * 0x1000 : Nat) = x
  obtain ⟨ho, e_g, e_ka, h0, h14⟩ := Sys2Proof.Laws.fields_2at12_6at18 0x6a g ka 1 0 (by decide) (by decide) (x := x) (by omega)
  have j0 : (x / 2 ^ 0 % 2 ^ 18 = 0) = False := by apply eq_false; omega
  simp only [decodeFields, ho, decodeSync, e_g, e_ka, h0, h14, j0, Nat.reduceMod, Nat.reduceLeDiff, Nat.reduceEqDiff, and_self, and_true, and_false, true_and, false_and, ↓reduceIte]

theorem Sys2Proof.Laws.RoundTrip.evclr (ka : BitVec 6) (g : BitVec 2) :
    Sys2Proof.Laws.RoundTrip.Statement (.evclr ka g) := by
  intro word hw
  obtain rfl : BitVec.ofNat 32 (0x6A000002 + ka.toNat * 0x40000 + g.toNat * 0x1000) = word := Option.some.inj hw
  have := ka.isLt
  have := g.isLt
  rw [BitVec.toNat_ofNat, Nat.mod_eq_of_lt (by omega)]
  generalize hx : (0x6A000002 + ka.toNat * 0x40000 + g.toNat * 0x1000 : Nat) = x
  obtain ⟨ho, e_g, e_ka, h0, h14⟩ := Sys2Proof.Laws.fields_2at12_6at18 0x6a g ka 2 0 (by decide) (by decide) (x := x) (by omega)
  have j0 : (x / 2 ^ 0 % 2 ^ 18 = 0) = False := by apply eq_false; omega
  simp only [decodeFields, ho, decodeSync, e_g, e_ka, h0, h14, j0, Nat.reduceMod, Nat.reduceLeDiff, Nat.reduceEqDiff, and_self, and_true, and_false, true_and, false_and, ↓reduceIte]

theorem Sys2Proof.Laws.RoundTrip.evwait (ka : BitVec 6) (g : BitVec 2) :
    Sys2Proof.Laws.RoundTrip.Statement (.evwait ka g) := by
  intro word hw
  obtain rfl : BitVec.ofNat 32 (0x6A000003 + ka.toNat * 0x40000 + g.toNat * 0x1000) = word := Option.some.inj hw
  have := ka.isLt
  have := g.isLt
  rw [BitVec.toNat_ofNat, Nat.mod_eq_of_lt (by omega)]
  generalize hx : (0x6A000003 + ka.toNat * 0x40000 + g.toNat * 0x1000 : Nat) = x
  obtain ⟨ho, e_g, e_ka, h0, h14⟩ := Sys2Proof.Laws.fields_2at12_6at18 0x6a g ka 3 0 (by decide) (by decide) (x := x) (by omega)
  have j0 : (x / 2 ^ 0 % 2 ^ 18 = 0) = False := by apply eq_false; omega
  simp only [decodeFields, ho, decodeSync, e_g, e_ka, h0, h14, j0, Nat.reduceMod, Nat.reduceLeDiff, Nat.reduceEqDiff, and_self, and_true, and_false, true_and, false_and, ↓reduceIte]

theorem Sys2Proof.Laws.RoundTrip.seqadd (ka : BitVec 6) (kb : BitVec 6) :
    Sys2Proof.Laws.RoundTrip.Statement (.seqadd ka kb) := by
  intro word hw
  obtain rfl : BitVec.ofNat 32 (0x6B000000 + ka.toNat * 0x40000 + kb.toNat * 0x1000) = word := Option.some.inj hw
  have := ka.isLt
  have := kb.isLt
  rw [BitVec.toNat_ofNat, Nat.mod_eq_of_lt (by omega)]
  generalize hx : (0x6B000000 + ka.toNat * 0x40000 + kb.toNat * 0x1000 : Nat) = x
  obtain ⟨ho, e_kb, e_ka, h0⟩ := Sys2Proof.Laws.fields_6at12_6at18 0x6b kb ka 0 (by decide) (x := x) (by omega)
  simp only [decodeFields, ho, decodeSync, e_kb, e_ka, h0, Nat.reduceMod, Nat.reduceLeDiff, Nat.reduceEqDiff, ↓reduceIte]

theorem Sys2Proof.Laws.RoundTrip.seqwait (ka : BitVec 6) (kb : BitVec 6) :
    Sys2Proof.Laws.RoundTrip.Statement (.seqwait ka kb) := by
  intro word hw
  obtain rfl : BitVec.ofNat 32 (0x6B000001 + ka.toNat * 0x40000 + kb.toNat * 0x1000) = word := Option.some.inj hw
  have := ka.isLt
  have := kb.isLt
  rw [BitVec.toNat_ofNat, Nat.mod_eq_of_lt (by omega)]
  generalize hx : (0x6B000001 + ka.toNat * 0x40000 + kb.toNat * 0x1000 : Nat) = x
  obtain ⟨ho, e_kb, e_ka, h0⟩ := Sys2Proof.Laws.fields_6at12_6at18 0x6b kb ka 1 (by decide) (x := x) (by omega)
  simp only [decodeFields, ho, decodeSync, e_kb, e_ka, h0, Nat.reduceMod, Nat.reduceLeDiff, Nat.reduceEqDiff, ↓reduceIte]

theorem Sys2Proof.Laws.RoundTrip.tcopy (ka : BitVec 6) (kb : BitVec 6) (kc : BitVec 6) :
    Sys2Proof.Laws.RoundTrip.Statement (.tcopy ka kb kc) := by
  intro word hw
  obtain rfl : BitVec.ofNat 32 (0x6C000000 + ka.toNat * 0x40000 + kb.toNat * 0x1000 + kc.toNat * 0x40) = word := Option.some.inj hw
  have := ka.isLt
  have := kb.isLt
  have := kc.isLt
  rw [BitVec.toNat_ofNat, Nat.mod_eq_of_lt (by omega)]
  generalize hx : (0x6C000000 + ka.toNat * 0x40000 + kb.toNat * 0x1000 + kc.toNat * 0x40 : Nat) = x
  obtain ⟨ho, e_kc, e_kb, e_ka, h0⟩ := Sys2Proof.Laws.fields_6at6_6at12_6at18 0x6c kc kb ka 0 (by decide) (x := x) (by omega)
  simp only [decodeFields, ho, decodeCopy, e_kc, e_kb, e_ka, h0, Nat.reduceMod, Nat.reduceLeDiff, Nat.reduceEqDiff, ↓reduceIte]

theorem Sys2Proof.Laws.RoundTrip.tgath (ka : BitVec 6) (kb : BitVec 6) (kc : BitVec 6) :
    Sys2Proof.Laws.RoundTrip.Statement (.tgath ka kb kc) := by
  intro word hw
  obtain rfl : BitVec.ofNat 32 (0x6C000001 + ka.toNat * 0x40000 + kb.toNat * 0x1000 + kc.toNat * 0x40) = word := Option.some.inj hw
  have := ka.isLt
  have := kb.isLt
  have := kc.isLt
  rw [BitVec.toNat_ofNat, Nat.mod_eq_of_lt (by omega)]
  generalize hx : (0x6C000001 + ka.toNat * 0x40000 + kb.toNat * 0x1000 + kc.toNat * 0x40 : Nat) = x
  obtain ⟨ho, e_kc, e_kb, e_ka, h0⟩ := Sys2Proof.Laws.fields_6at6_6at12_6at18 0x6c kc kb ka 1 (by decide) (x := x) (by omega)
  simp only [decodeFields, ho, decodeCopy, e_kc, e_kb, e_ka, h0, Nat.reduceMod, Nat.reduceLeDiff, Nat.reduceEqDiff, ↓reduceIte]

theorem Sys2Proof.Laws.RoundTrip.tscat (ka : BitVec 6) (kb : BitVec 6) (kc : BitVec 6) :
    Sys2Proof.Laws.RoundTrip.Statement (.tscat ka kb kc) := by
  intro word hw
  obtain rfl : BitVec.ofNat 32 (0x6C000002 + ka.toNat * 0x40000 + kb.toNat * 0x1000 + kc.toNat * 0x40) = word := Option.some.inj hw
  have := ka.isLt
  have := kb.isLt
  have := kc.isLt
  rw [BitVec.toNat_ofNat, Nat.mod_eq_of_lt (by omega)]
  generalize hx : (0x6C000002 + ka.toNat * 0x40000 + kb.toNat * 0x1000 + kc.toNat * 0x40 : Nat) = x
  obtain ⟨ho, e_kc, e_kb, e_ka, h0⟩ := Sys2Proof.Laws.fields_6at6_6at12_6at18 0x6c kc kb ka 2 (by decide) (x := x) (by omega)
  simp only [decodeFields, ho, decodeCopy, e_kc, e_kb, e_ka, h0, Nat.reduceMod, Nat.reduceLeDiff, Nat.reduceEqDiff, ↓reduceIte]

theorem Sys2Proof.Laws.RoundTrip.tred (ka : BitVec 6) (kb : BitVec 6) (kc : BitVec 6) :
    Sys2Proof.Laws.RoundTrip.Statement (.tred ka kb kc) := by
  intro word hw
  obtain rfl : BitVec.ofNat 32 (0x6C000003 + ka.toNat * 0x40000 + kb.toNat * 0x1000 + kc.toNat * 0x40) = word := Option.some.inj hw
  have := ka.isLt
  have := kb.isLt
  have := kc.isLt
  rw [BitVec.toNat_ofNat, Nat.mod_eq_of_lt (by omega)]
  generalize hx : (0x6C000003 + ka.toNat * 0x40000 + kb.toNat * 0x1000 + kc.toNat * 0x40 : Nat) = x
  obtain ⟨ho, e_kc, e_kb, e_ka, h0⟩ := Sys2Proof.Laws.fields_6at6_6at12_6at18 0x6c kc kb ka 3 (by decide) (x := x) (by omega)
  simp only [decodeFields, ho, decodeCopy, e_kc, e_kb, e_ka, h0, Nat.reduceMod, Nat.reduceLeDiff, Nat.reduceEqDiff, ↓reduceIte]

theorem Sys2Proof.Laws.RoundTrip.tfill (ka : BitVec 6) (kb : BitVec 6) (kc : BitVec 6) :
    Sys2Proof.Laws.RoundTrip.Statement (.tfill ka kb kc) := by
  intro word hw
  obtain rfl : BitVec.ofNat 32 (0x6C000004 + ka.toNat * 0x40000 + kb.toNat * 0x1000 + kc.toNat * 0x40) = word := Option.some.inj hw
  have := ka.isLt
  have := kb.isLt
  have := kc.isLt
  rw [BitVec.toNat_ofNat, Nat.mod_eq_of_lt (by omega)]
  generalize hx : (0x6C000004 + ka.toNat * 0x40000 + kb.toNat * 0x1000 + kc.toNat * 0x40 : Nat) = x
  obtain ⟨ho, e_kc, e_kb, e_ka, h0⟩ := Sys2Proof.Laws.fields_6at6_6at12_6at18 0x6c kc kb ka 4 (by decide) (x := x) (by omega)
  simp only [decodeFields, ho, decodeCopy, e_kc, e_kb, e_ka, h0, Nat.reduceMod, Nat.reduceLeDiff, Nat.reduceEqDiff, ↓reduceIte]

theorem Sys2Proof.Laws.RoundTrip.nmc (ka : BitVec 6) (kb : BitVec 6) (kc : BitVec 6) :
    Sys2Proof.Laws.RoundTrip.Statement (.nmc ka kb kc) := by
  intro word hw
  obtain rfl : BitVec.ofNat 32 (0x6D000000 + ka.toNat * 0x40000 + kb.toNat * 0x1000 + kc.toNat * 0x40) = word := Option.some.inj hw
  have := ka.isLt
  have := kb.isLt
  have := kc.isLt
  rw [BitVec.toNat_ofNat, Nat.mod_eq_of_lt (by omega)]
  generalize hx : (0x6D000000 + ka.toNat * 0x40000 + kb.toNat * 0x1000 + kc.toNat * 0x40 : Nat) = x
  obtain ⟨ho, e_kc, e_kb, e_ka, h0⟩ := Sys2Proof.Laws.fields_6at6_6at12_6at18 0x6d kc kb ka 0 (by decide) (x := x) (by omega)
  simp only [decodeFields, ho, decodeCopy, e_kc, e_kb, e_ka, h0, Nat.reduceMod, Nat.reduceLeDiff, Nat.reduceEqDiff, ↓reduceIte]

theorem Sys2Proof.Laws.RoundTrip.rld (ka : BitVec 6) (kb : BitVec 6) (ord : BitVec 1) :
    Sys2Proof.Laws.RoundTrip.Statement (.rld ka kb ord) := by
  intro word hw
  obtain rfl : BitVec.ofNat 32 (0x6E000000 + ka.toNat * 0x40000 + kb.toNat * 0x1000 + ord.toNat * 0x4) = word := Option.some.inj hw
  have := ka.isLt
  have := kb.isLt
  have := ord.isLt
  rw [BitVec.toNat_ofNat, Nat.mod_eq_of_lt (by omega)]
  generalize hx : (0x6E000000 + ka.toNat * 0x40000 + kb.toNat * 0x1000 + ord.toNat * 0x4 : Nat) = x
  obtain ⟨ho, e_ord, e_kb, e_ka, h0, h3⟩ := Sys2Proof.Laws.fields_1at2_6at12_6at18 0x6e ord kb ka 0 0 (by decide) (by decide) (x := x) (by omega)
  simp only [decodeFields, ho, decodeCopy, e_ord, e_kb, e_ka, h0, h3, Nat.reduceMod, Nat.reduceLeDiff, Nat.reduceEqDiff, and_self, and_true, and_false, true_and, false_and, ↓reduceIte]

theorem Sys2Proof.Laws.RoundTrip.rst (ka : BitVec 6) (kb : BitVec 6) (rel : BitVec 1) :
    Sys2Proof.Laws.RoundTrip.Statement (.rst ka kb rel) := by
  intro word hw
  obtain rfl : BitVec.ofNat 32 (0x6E000001 + ka.toNat * 0x40000 + kb.toNat * 0x1000 + rel.toNat * 0x4) = word := Option.some.inj hw
  have := ka.isLt
  have := kb.isLt
  have := rel.isLt
  rw [BitVec.toNat_ofNat, Nat.mod_eq_of_lt (by omega)]
  generalize hx : (0x6E000001 + ka.toNat * 0x40000 + kb.toNat * 0x1000 + rel.toNat * 0x4 : Nat) = x
  obtain ⟨ho, e_rel, e_kb, e_ka, h0, h3⟩ := Sys2Proof.Laws.fields_1at2_6at12_6at18 0x6e rel kb ka 1 0 (by decide) (by decide) (x := x) (by omega)
  simp only [decodeFields, ho, decodeCopy, e_rel, e_kb, e_ka, h0, h3, Nat.reduceMod, Nat.reduceLeDiff, Nat.reduceEqDiff, and_self, and_true, and_false, true_and, false_and, ↓reduceIte]

theorem Sys2Proof.Laws.RoundTrip.ratom (ka : BitVec 6) (kb : BitVec 6) (kc : BitVec 6) (op : BitVec 4) :
    Sys2Proof.Laws.RoundTrip.Statement (.ratom ka kb kc op) := by
  intro word hw
  obtain rfl : BitVec.ofNat 32 (0x6E000002 + ka.toNat * 0x40000 + kb.toNat * 0x1000 + kc.toNat * 0x40 + op.toNat * 0x4) = word := Option.some.inj hw
  have := ka.isLt
  have := kb.isLt
  have := kc.isLt
  have := op.isLt
  rw [BitVec.toNat_ofNat, Nat.mod_eq_of_lt (by omega)]
  generalize hx : (0x6E000002 + ka.toNat * 0x40000 + kb.toNat * 0x1000 + kc.toNat * 0x40 + op.toNat * 0x4 : Nat) = x
  obtain ⟨ho, e_op, e_kc, e_kb, e_ka, h0⟩ := Sys2Proof.Laws.fields_4at2_6at6_6at12_6at18 0x6e op kc kb ka 2 (by decide) (x := x) (by omega)
  simp only [decodeFields, ho, decodeCopy, e_op, e_kc, e_kb, e_ka, h0, Nat.reduceMod, Nat.reduceLeDiff, Nat.reduceEqDiff, and_self, and_true, and_false, true_and, false_and, ↓reduceIte]

theorem Sys2Proof.Laws.RoundTrip.cstep (ka : BitVec 6) (kb : BitVec 6) (kc : BitVec 6) :
    Sys2Proof.Laws.RoundTrip.Statement (.cstep ka kb kc) := by
  intro word hw
  obtain rfl : BitVec.ofNat 32 (0x6F000000 + ka.toNat * 0x40000 + kb.toNat * 0x1000 + kc.toNat * 0x40) = word := Option.some.inj hw
  have := ka.isLt
  have := kb.isLt
  have := kc.isLt
  rw [BitVec.toNat_ofNat, Nat.mod_eq_of_lt (by omega)]
  generalize hx : (0x6F000000 + ka.toNat * 0x40000 + kb.toNat * 0x1000 + kc.toNat * 0x40 : Nat) = x
  obtain ⟨ho, e_kc, e_kb, e_ka, h0⟩ := Sys2Proof.Laws.fields_6at6_6at12_6at18 0x6f kc kb ka 0 (by decide) (x := x) (by omega)
  simp only [decodeFields, ho, decodeCopy, e_kc, e_kb, e_ka, h0, Nat.reduceMod, Nat.reduceLeDiff, Nat.reduceEqDiff, ↓reduceIte]

theorem Sys2Proof.Laws.RoundTrip.cfence (mask : BitVec 4) :
    Sys2Proof.Laws.RoundTrip.Statement (.cfence mask) := by
  intro word hw
  obtain rfl : BitVec.ofNat 32 (0x70000000 + mask.toNat) = word := Option.some.inj hw
  have := mask.isLt
  rw [BitVec.toNat_ofNat, Nat.mod_eq_of_lt (by omega)]
  generalize hx : (0x70000000 + mask.toNat : Nat) = x
  obtain ⟨ho, e_mask, h4⟩ := Sys2Proof.Laws.fields_4at0 0x70 mask 0 (by decide) (x := x) (by omega)
  simp only [decodeFields, ho, decodeCopy, e_mask, h4, Nat.reduceMod, Nat.reduceLeDiff, Nat.reduceEqDiff, ↓reduceIte]

theorem Sys2Proof.Laws.RoundTrip.alw (ka : BitVec 6) (kb : BitVec 6) :
    Sys2Proof.Laws.RoundTrip.Statement (.alw ka kb) := by
  intro word hw
  obtain rfl : BitVec.ofNat 32 (0x71000000 + ka.toNat * 0x40000 + kb.toNat * 0x1000) = word := Option.some.inj hw
  have := ka.isLt
  have := kb.isLt
  rw [BitVec.toNat_ofNat, Nat.mod_eq_of_lt (by omega)]
  generalize hx : (0x71000000 + ka.toNat * 0x40000 + kb.toNat * 0x1000 : Nat) = x
  obtain ⟨ho, e_kb, e_ka, h0⟩ := Sys2Proof.Laws.fields_6at12_6at18 0x71 kb ka 0 (by decide) (x := x) (by omega)
  simp only [decodeFields, ho, decodeCopy, e_kb, e_ka, h0, Nat.reduceMod, Nat.reduceLeDiff, Nat.reduceEqDiff, ↓reduceIte]

theorem Sys2Proof.Laws.RoundTrip.bralw (ka : BitVec 6) (n : BitVec 10) :
    Sys2Proof.Laws.RoundTrip.Statement (.bralw ka n) := by
  intro word hw
  obtain rfl : BitVec.ofNat 32 (0x72000000 + ka.toNat * 0x40000 + n.toNat * 0x100) = word := Option.some.inj hw
  have := ka.isLt
  have := n.isLt
  rw [BitVec.toNat_ofNat, Nat.mod_eq_of_lt (by omega)]
  generalize hx : (0x72000000 + ka.toNat * 0x40000 + n.toNat * 0x100 : Nat) = x
  obtain ⟨ho, e_n, e_ka, h0⟩ := Sys2Proof.Laws.fields_10at8_6at18 0x72 n ka 0 (by decide) (x := x) (by omega)
  simp only [decodeFields, ho, decodeCopy, e_n, e_ka, h0, Nat.reduceMod, Nat.reduceLeDiff, Nat.reduceEqDiff, ↓reduceIte]

theorem Sys2Proof.Laws.RoundTrip.cwait (ka : BitVec 6) (kb : BitVec 6) :
    Sys2Proof.Laws.RoundTrip.Statement (.cwait ka kb) := by
  intro word hw
  obtain rfl : BitVec.ofNat 32 (0x73000000 + ka.toNat * 0x40000 + kb.toNat * 0x1000) = word := Option.some.inj hw
  have := ka.isLt
  have := kb.isLt
  rw [BitVec.toNat_ofNat, Nat.mod_eq_of_lt (by omega)]
  generalize hx : (0x73000000 + ka.toNat * 0x40000 + kb.toNat * 0x1000 : Nat) = x
  obtain ⟨ho, e_kb, e_ka, h0⟩ := Sys2Proof.Laws.fields_6at12_6at18 0x73 kb ka 0 (by decide) (x := x) (by omega)
  simp only [decodeFields, ho, decodeCopy, e_kb, e_ka, h0, Nat.reduceMod, Nat.reduceLeDiff, Nat.reduceEqDiff, ↓reduceIte]

theorem Sys2Proof.Laws.RoundTrip.mloop (ka : BitVec 6) (kb : BitVec 6) (kc : BitVec 6) (t : BitVec 3) :
    Sys2Proof.Laws.RoundTrip.Statement (.mloop ka kb kc t) := by
  intro word hw
  obtain rfl : BitVec.ofNat 32 (0x74000000 + ka.toNat * 0x40000 + kb.toNat * 0x1000 + kc.toNat * 0x40 + t.toNat) = word := Option.some.inj hw
  have := ka.isLt
  have := kb.isLt
  have := kc.isLt
  have := t.isLt
  rw [BitVec.toNat_ofNat, Nat.mod_eq_of_lt (by omega)]
  generalize hx : (0x74000000 + ka.toNat * 0x40000 + kb.toNat * 0x1000 + kc.toNat * 0x40 + t.toNat : Nat) = x
  obtain ⟨ho, e_t, e_kc, e_kb, e_ka, h3⟩ := Sys2Proof.Laws.fields_3at0_6at6_6at12_6at18 0x74 t kc kb ka 0 (by decide) (x := x) (by omega)
  simp only [decodeFields, ho, decodeMatrix, e_t, e_kc, e_kb, e_ka, h3, Nat.reduceMod, Nat.reduceLeDiff, Nat.reduceEqDiff, ↓reduceIte]

theorem Sys2Proof.Laws.RoundTrip.mstep (ka : BitVec 6) (kb : BitVec 6) (kc : BitVec 6) (t : BitVec 3) :
    Sys2Proof.Laws.RoundTrip.Statement (.mstep ka kb kc t) := by
  intro word hw
  obtain rfl : BitVec.ofNat 32 (0x75000000 + ka.toNat * 0x40000 + kb.toNat * 0x1000 + kc.toNat * 0x40 + t.toNat) = word := Option.some.inj hw
  have := ka.isLt
  have := kb.isLt
  have := kc.isLt
  have := t.isLt
  rw [BitVec.toNat_ofNat, Nat.mod_eq_of_lt (by omega)]
  generalize hx : (0x75000000 + ka.toNat * 0x40000 + kb.toNat * 0x1000 + kc.toNat * 0x40 + t.toNat : Nat) = x
  obtain ⟨ho, e_t, e_kc, e_kb, e_ka, h3⟩ := Sys2Proof.Laws.fields_3at0_6at6_6at12_6at18 0x75 t kc kb ka 0 (by decide) (x := x) (by omega)
  simp only [decodeFields, ho, decodeMatrix, e_t, e_kc, e_kb, e_ka, h3, Nat.reduceMod, Nat.reduceLeDiff, Nat.reduceEqDiff, ↓reduceIte]

theorem Sys2Proof.Laws.RoundTrip.mfmt (ka : BitVec 6) (kb : BitVec 6) :
    Sys2Proof.Laws.RoundTrip.Statement (.mfmt ka kb) := by
  intro word hw
  obtain rfl : BitVec.ofNat 32 (0x76000000 + ka.toNat * 0x40000 + kb.toNat * 0x1000) = word := Option.some.inj hw
  have := ka.isLt
  have := kb.isLt
  rw [BitVec.toNat_ofNat, Nat.mod_eq_of_lt (by omega)]
  generalize hx : (0x76000000 + ka.toNat * 0x40000 + kb.toNat * 0x1000 : Nat) = x
  obtain ⟨ho, e_kb, e_ka, h0⟩ := Sys2Proof.Laws.fields_6at12_6at18 0x76 kb ka 0 (by decide) (x := x) (by omega)
  simp only [decodeFields, ho, decodeMatrix, e_kb, e_ka, h0, Nat.reduceMod, Nat.reduceLeDiff, Nat.reduceEqDiff, ↓reduceIte]

theorem Sys2Proof.Laws.RoundTrip.madr (ka : BitVec 6) :
    Sys2Proof.Laws.RoundTrip.Statement (.madr ka) := by
  intro word hw
  obtain rfl : BitVec.ofNat 32 (0x76000001 + ka.toNat * 0x40000) = word := Option.some.inj hw
  have := ka.isLt
  rw [BitVec.toNat_ofNat, Nat.mod_eq_of_lt (by omega)]
  generalize hx : (0x76000001 + ka.toNat * 0x40000 : Nat) = x
  obtain ⟨ho, e_ka, h0⟩ := Sys2Proof.Laws.fields_6at18 0x76 ka 1 (by decide) (x := x) (by omega)
  have j0 : x / 2 ^ 0 % 2 ^ 12 = 1 := by omega
  simp only [decodeFields, ho, decodeMatrix, e_ka, h0, j0, Nat.reduceMod, Nat.reduceLeDiff, Nat.reduceEqDiff, ↓reduceIte]

theorem Sys2Proof.Laws.RoundTrip.mcfg (ka : BitVec 6) (kb : BitVec 6) :
    Sys2Proof.Laws.RoundTrip.Statement (.mcfg ka kb) := by
  intro word hw
  obtain rfl : BitVec.ofNat 32 (0x76000002 + ka.toNat * 0x40000 + kb.toNat * 0x1000) = word := Option.some.inj hw
  have := ka.isLt
  have := kb.isLt
  rw [BitVec.toNat_ofNat, Nat.mod_eq_of_lt (by omega)]
  generalize hx : (0x76000002 + ka.toNat * 0x40000 + kb.toNat * 0x1000 : Nat) = x
  obtain ⟨ho, e_kb, e_ka, h0⟩ := Sys2Proof.Laws.fields_6at12_6at18 0x76 kb ka 2 (by decide) (x := x) (by omega)
  have j0 : (x / 2 ^ 0 % 2 ^ 18 = 1) = False := by apply eq_false; omega
  simp only [decodeFields, ho, decodeMatrix, e_kb, e_ka, h0, j0, Nat.reduceMod, Nat.reduceLeDiff, Nat.reduceEqDiff, ↓reduceIte]

theorem Sys2Proof.Laws.RoundTrip.mbatch (ka : BitVec 6) :
    Sys2Proof.Laws.RoundTrip.Statement (.mbatch ka) := by
  intro word hw
  obtain rfl : BitVec.ofNat 32 (0x77000000 + ka.toNat * 0x40000) = word := Option.some.inj hw
  have := ka.isLt
  rw [BitVec.toNat_ofNat, Nat.mod_eq_of_lt (by omega)]
  generalize hx : (0x77000000 + ka.toNat * 0x40000 : Nat) = x
  obtain ⟨ho, e_ka, h0⟩ := Sys2Proof.Laws.fields_6at18 0x77 ka 0 (by decide) (x := x) (by omega)
  simp only [decodeFields, ho, decodeMatrix, e_ka, h0, Nat.reduceMod, Nat.reduceLeDiff, Nat.reduceEqDiff, ↓reduceIte]

theorem Sys2Proof.Laws.RoundTrip.mwait (ka : BitVec 6) :
    Sys2Proof.Laws.RoundTrip.Statement (.mwait ka) := by
  intro word hw
  obtain rfl : BitVec.ofNat 32 (0x77000001 + ka.toNat * 0x40000) = word := Option.some.inj hw
  have := ka.isLt
  rw [BitVec.toNat_ofNat, Nat.mod_eq_of_lt (by omega)]
  generalize hx : (0x77000001 + ka.toNat * 0x40000 : Nat) = x
  obtain ⟨ho, e_ka, h0⟩ := Sys2Proof.Laws.fields_6at18 0x77 ka 1 (by decide) (x := x) (by omega)
  simp only [decodeFields, ho, decodeMatrix, e_ka, h0, Nat.reduceMod, Nat.reduceLeDiff, Nat.reduceEqDiff, ↓reduceIte]

theorem Sys2Proof.Laws.RoundTrip.mest (ka : BitVec 6) :
    Sys2Proof.Laws.RoundTrip.Statement (.mest ka) := by
  intro word hw
  obtain rfl : BitVec.ofNat 32 (0x77000002 + ka.toNat * 0x40000) = word := Option.some.inj hw
  have := ka.isLt
  rw [BitVec.toNat_ofNat, Nat.mod_eq_of_lt (by omega)]
  generalize hx : (0x77000002 + ka.toNat * 0x40000 : Nat) = x
  obtain ⟨ho, e_ka, h0⟩ := Sys2Proof.Laws.fields_6at18 0x77 ka 2 (by decide) (x := x) (by omega)
  simp only [decodeFields, ho, decodeMatrix, e_ka, h0, Nat.reduceMod, Nat.reduceLeDiff, Nat.reduceEqDiff, ↓reduceIte]

theorem Sys2Proof.Laws.RoundTrip.mzero (t : BitVec 3) :
    Sys2Proof.Laws.RoundTrip.Statement (.mzero t) := by
  intro word hw
  obtain rfl : BitVec.ofNat 32 (0x78000000 + t.toNat) = word := Option.some.inj hw
  have := t.isLt
  rw [BitVec.toNat_ofNat, Nat.mod_eq_of_lt (by omega)]
  generalize hx : (0x78000000 + t.toNat : Nat) = x
  obtain ⟨ho, e_t, h3⟩ := Sys2Proof.Laws.fields_3at0 0x78 t 0 (by decide) (x := x) (by omega)
  simp only [decodeFields, ho, decodeMatrix, e_t, h3, Nat.reduceMod, Nat.reduceLeDiff, Nat.reduceEqDiff, ↓reduceIte]

theorem Sys2Proof.Laws.RoundTrip.mtld (ka : BitVec 6) (kb : BitVec 6) (t : BitVec 3) :
    Sys2Proof.Laws.RoundTrip.Statement (.mtld ka kb t) := by
  intro word hw
  obtain rfl : BitVec.ofNat 32 (0x79000000 + ka.toNat * 0x40000 + kb.toNat * 0x1000 + t.toNat) = word := Option.some.inj hw
  have := ka.isLt
  have := kb.isLt
  have := t.isLt
  rw [BitVec.toNat_ofNat, Nat.mod_eq_of_lt (by omega)]
  generalize hx : (0x79000000 + ka.toNat * 0x40000 + kb.toNat * 0x1000 + t.toNat : Nat) = x
  obtain ⟨ho, e_t, e_kb, e_ka, h3⟩ := Sys2Proof.Laws.fields_3at0_6at12_6at18 0x79 t kb ka 0 (by decide) (x := x) (by omega)
  simp only [decodeFields, ho, decodeMatrix, e_t, e_kb, e_ka, h3, Nat.reduceMod, Nat.reduceLeDiff, Nat.reduceEqDiff, ↓reduceIte]

theorem Sys2Proof.Laws.RoundTrip.mtst (ka : BitVec 6) (kb : BitVec 6) (t : BitVec 3) :
    Sys2Proof.Laws.RoundTrip.Statement (.mtst ka kb t) := by
  intro word hw
  obtain rfl : BitVec.ofNat 32 (0x79000020 + ka.toNat * 0x40000 + kb.toNat * 0x1000 + t.toNat) = word := Option.some.inj hw
  have := ka.isLt
  have := kb.isLt
  have := t.isLt
  rw [BitVec.toNat_ofNat, Nat.mod_eq_of_lt (by omega)]
  generalize hx : (0x79000020 + ka.toNat * 0x40000 + kb.toNat * 0x1000 + t.toNat : Nat) = x
  obtain ⟨ho, e_t, e_kb, e_ka, h3⟩ := Sys2Proof.Laws.fields_3at0_6at12_6at18 0x79 t kb ka 4 (by decide) (x := x) (by omega)
  simp only [decodeFields, ho, decodeMatrix, e_t, e_kb, e_ka, h3, Nat.reduceMod, Nat.reduceLeDiff, Nat.reduceEqDiff, ↓reduceIte]

theorem Sys2Proof.Laws.RoundTrip.mfft (ka : BitVec 6) (t : BitVec 3) :
    Sys2Proof.Laws.RoundTrip.Statement (.mfft ka t) := by
  intro word hw
  obtain rfl : BitVec.ofNat 32 (0x7A000000 + ka.toNat * 0x40000 + t.toNat) = word := Option.some.inj hw
  have := ka.isLt
  have := t.isLt
  rw [BitVec.toNat_ofNat, Nat.mod_eq_of_lt (by omega)]
  generalize hx : (0x7A000000 + ka.toNat * 0x40000 + t.toNat : Nat) = x
  obtain ⟨ho, e_t, e_ka, h3⟩ := Sys2Proof.Laws.fields_3at0_6at18 0x7a t ka 0 (by decide) (x := x) (by omega)
  simp only [decodeFields, ho, decodeMatrix, e_t, e_ka, h3, Nat.reduceMod, Nat.reduceLeDiff, Nat.reduceEqDiff, ↓reduceIte]

theorem Sys2Proof.Laws.RoundTrip.mtwid (ka : BitVec 6) (t : BitVec 3) :
    Sys2Proof.Laws.RoundTrip.Statement (.mtwid ka t) := by
  intro word hw
  obtain rfl : BitVec.ofNat 32 (0x7B000000 + ka.toNat * 0x40000 + t.toNat) = word := Option.some.inj hw
  have := ka.isLt
  have := t.isLt
  rw [BitVec.toNat_ofNat, Nat.mod_eq_of_lt (by omega)]
  generalize hx : (0x7B000000 + ka.toNat * 0x40000 + t.toNat : Nat) = x
  obtain ⟨ho, e_t, e_ka, h3⟩ := Sys2Proof.Laws.fields_3at0_6at18 0x7b t ka 0 (by decide) (x := x) (by omega)
  simp only [decodeFields, ho, decodeMatrix, e_t, e_ka, h3, Nat.reduceMod, Nat.reduceLeDiff, Nat.reduceEqDiff, ↓reduceIte]

theorem Sys2Proof.Laws.RoundTrip.retx :
    Sys2Proof.Laws.RoundTrip.Statement (.retx) := by
  intro word hw; cases hw; rfl

theorem Sys2Proof.Laws.RoundTrip.park :
    Sys2Proof.Laws.RoundTrip.Statement (.park) := by
  intro word hw; cases hw; rfl

theorem Sys2Proof.Laws.RoundTrip.idle :
    Sys2Proof.Laws.RoundTrip.Statement (.idle) := by
  intro word hw; cases hw; rfl

theorem Sys2Proof.Laws.RoundTrip.sev :
    Sys2Proof.Laws.RoundTrip.Statement (.sev) := by
  intro word hw; cases hw; rfl

theorem Sys2Proof.Laws.RoundTrip.chalt :
    Sys2Proof.Laws.RoundTrip.Statement (.chalt) := by
  intro word hw; cases hw; rfl

theorem Sys2Proof.Laws.RoundTrip.sysr (ka : BitVec 6) (idx : BitVec 12) :
    Sys2Proof.Laws.RoundTrip.Statement (.sysr ka idx) := by
  intro word hw
  obtain rfl : BitVec.ofNat 32 (0x7D000000 + ka.toNat * 0x40000 + idx.toNat * 0x40) = word := Option.some.inj hw
  have := ka.isLt
  have := idx.isLt
  rw [BitVec.toNat_ofNat, Nat.mod_eq_of_lt (by omega)]
  generalize hx : (0x7D000000 + ka.toNat * 0x40000 + idx.toNat * 0x40 : Nat) = x
  obtain ⟨ho, e_idx, e_ka, h0⟩ := Sys2Proof.Laws.fields_12at6_6at18 0x7d idx ka 0 (by decide) (x := x) (by omega)
  simp only [decodeFields, ho, decodeSystem, e_idx, e_ka, h0, Nat.reduceMod, Nat.reduceLeDiff, Nat.reduceEqDiff, ↓reduceIte]

theorem Sys2Proof.Laws.RoundTrip.sysw (ka : BitVec 6) (idx : BitVec 12) :
    Sys2Proof.Laws.RoundTrip.Statement (.sysw ka idx) := by
  intro word hw
  obtain rfl : BitVec.ofNat 32 (0x7D000001 + ka.toNat * 0x40000 + idx.toNat * 0x40) = word := Option.some.inj hw
  have := ka.isLt
  have := idx.isLt
  rw [BitVec.toNat_ofNat, Nat.mod_eq_of_lt (by omega)]
  generalize hx : (0x7D000001 + ka.toNat * 0x40000 + idx.toNat * 0x40 : Nat) = x
  obtain ⟨ho, e_idx, e_ka, h0⟩ := Sys2Proof.Laws.fields_12at6_6at18 0x7d idx ka 1 (by decide) (x := x) (by omega)
  simp only [decodeFields, ho, decodeSystem, e_idx, e_ka, h0, Nat.reduceMod, Nat.reduceLeDiff, Nat.reduceEqDiff, ↓reduceIte]

theorem Sys2Proof.Laws.RoundTrip.tlbinv (ka : BitVec 6) (kb : BitVec 6) :
    Sys2Proof.Laws.RoundTrip.Statement (.tlbinv ka kb) := by
  intro word hw
  obtain rfl : BitVec.ofNat 32 (0x7D000002 + ka.toNat * 0x40000 + kb.toNat * 0x1000) = word := Option.some.inj hw
  have := ka.isLt
  have := kb.isLt
  rw [BitVec.toNat_ofNat, Nat.mod_eq_of_lt (by omega)]
  generalize hx : (0x7D000002 + ka.toNat * 0x40000 + kb.toNat * 0x1000 : Nat) = x
  obtain ⟨ho, e_kb, e_ka, h0⟩ := Sys2Proof.Laws.fields_6at12_6at18 0x7d kb ka 2 (by decide) (x := x) (by omega)
  have j0 : x / 2 ^ 0 % 2 ^ 6 = 2 := by omega
  simp only [decodeFields, ho, decodeSystem, e_kb, e_ka, h0, j0, Nat.reduceMod, Nat.reduceLeDiff, Nat.reduceEqDiff, ↓reduceIte]

theorem Sys2Proof.Laws.RoundTrip.wpset (ka : BitVec 6) (kb : BitVec 6) :
    Sys2Proof.Laws.RoundTrip.Statement (.wpset ka kb) := by
  intro word hw
  obtain rfl : BitVec.ofNat 32 (0x7D000003 + ka.toNat * 0x40000 + kb.toNat * 0x1000) = word := Option.some.inj hw
  have := ka.isLt
  have := kb.isLt
  rw [BitVec.toNat_ofNat, Nat.mod_eq_of_lt (by omega)]
  generalize hx : (0x7D000003 + ka.toNat * 0x40000 + kb.toNat * 0x1000 : Nat) = x
  obtain ⟨ho, e_kb, e_ka, h0⟩ := Sys2Proof.Laws.fields_6at12_6at18 0x7d kb ka 3 (by decide) (x := x) (by omega)
  have j0 : x / 2 ^ 0 % 2 ^ 6 = 3 := by omega
  simp only [decodeFields, ho, decodeSystem, e_kb, e_ka, h0, j0, Nat.reduceMod, Nat.reduceLeDiff, Nat.reduceEqDiff, ↓reduceIte]

theorem Sys2Proof.Laws.RoundTrip.tsave (ka : BitVec 6) :
    Sys2Proof.Laws.RoundTrip.Statement (.tsave ka) := by
  intro word hw
  obtain rfl : BitVec.ofNat 32 (0x7E000000 + ka.toNat * 0x40000) = word := Option.some.inj hw
  have := ka.isLt
  rw [BitVec.toNat_ofNat, Nat.mod_eq_of_lt (by omega)]
  generalize hx : (0x7E000000 + ka.toNat * 0x40000 : Nat) = x
  obtain ⟨ho, e_ka, h0⟩ := Sys2Proof.Laws.fields_6at18 0x7e ka 0 (by decide) (x := x) (by omega)
  simp only [decodeFields, ho, decodeSystem, e_ka, h0, Nat.reduceMod, Nat.reduceLeDiff, Nat.reduceEqDiff, ↓reduceIte]

theorem Sys2Proof.Laws.RoundTrip.trest (ka : BitVec 6) :
    Sys2Proof.Laws.RoundTrip.Statement (.trest ka) := by
  intro word hw
  obtain rfl : BitVec.ofNat 32 (0x7E000001 + ka.toNat * 0x40000) = word := Option.some.inj hw
  have := ka.isLt
  rw [BitVec.toNat_ofNat, Nat.mod_eq_of_lt (by omega)]
  generalize hx : (0x7E000001 + ka.toNat * 0x40000 : Nat) = x
  obtain ⟨ho, e_ka, h0⟩ := Sys2Proof.Laws.fields_6at18 0x7e ka 1 (by decide) (x := x) (by omega)
  simp only [decodeFields, ho, decodeSystem, e_ka, h0, Nat.reduceMod, Nat.reduceLeDiff, Nat.reduceEqDiff, ↓reduceIte]

theorem Sys2Proof.Laws.RoundTrip.channelSlotRead (c : BitVec 6) :
    Sys2Proof.Laws.RoundTrip.Statement (.channelSlotRead c) := by
  intro word hw; cases hw

theorem Sys2Proof.Laws.RoundTrip.packDispatch (ctx : Nat) (lseq : BitVec 64) (places : List (Nat × Nat)) :
    Sys2Proof.Laws.RoundTrip.Statement (.packDispatch ctx lseq places) := by
  intro word hw; cases hw

theorem Sys2Proof.Laws.RoundTrip.priorityAging :
    Sys2Proof.Laws.RoundTrip.Statement (.priorityAging) := by
  intro word hw; cases hw

theorem Sys2Proof.Laws.RoundTrip.kennelTimerExpiry (ctx : Nat) (kennel : Nat) :
    Sys2Proof.Laws.RoundTrip.Statement (.kennelTimerExpiry ctx kennel) := by
  intro word hw; cases hw

theorem Sys2Proof.Laws.RoundTrip.packRetire (pack : Nat) :
    Sys2Proof.Laws.RoundTrip.Statement (.packRetire pack) := by
  intro word hw; cases hw

theorem Sys2Proof.Laws.RoundTrip.packPark (pack : Nat) :
    Sys2Proof.Laws.RoundTrip.Statement (.packPark pack) := by
  intro word hw; cases hw

theorem Sys2Proof.Laws.RoundTrip.packResume (pack : Nat) (core : Nat) (quad : Nat) :
    Sys2Proof.Laws.RoundTrip.Statement (.packResume pack core quad) := by
  intro word hw; cases hw

theorem Sys2Proof.Laws.RoundTrip.allowanceReturn (peer : BitVec 10) (units : Nat) :
    Sys2Proof.Laws.RoundTrip.Statement (.allowanceReturn peer units) := by
  intro word hw; cases hw

theorem Sys2Proof.Laws.RoundTrip.sliceEnd (ctx : Nat) :
    Sys2Proof.Laws.RoundTrip.Statement (.sliceEnd ctx) := by
  intro word hw; cases hw

theorem Sys2Proof.Laws.RoundTrip.timeout (pack : Nat) :
    Sys2Proof.Laws.RoundTrip.Statement (.timeout pack) := by
  intro word hw; cases hw

theorem Sys2Proof.Laws.RoundTrip.laneLoadReply (pack : Nat) (warp : Nat) (flight : Nat) (reply : RemoteReply) :
    Sys2Proof.Laws.RoundTrip.Statement (.laneLoadReply pack warp flight reply) := by
  intro word hw; cases hw

theorem Sys2Proof.Laws.RoundTrip.laneStorePerformed (pack : Nat) (warp : Nat) (flight : Nat) (reply : RemoteReply) :
    Sys2Proof.Laws.RoundTrip.Statement (.laneStorePerformed pack warp flight reply) := by
  intro word hw; cases hw

theorem Sys2Proof.Laws.RoundTrip.wcbDrain (pack : Nat) (warp : Nat) (flight : Nat) :
    Sys2Proof.Laws.RoundTrip.Statement (.wcbDrain pack warp flight) := by
  intro word hw; cases hw

theorem Sys2Proof.Laws.RoundTrip.remoteReply (pack : Nat) (warp : Nat) (flight : Nat) (reply : RemoteReply) :
    Sys2Proof.Laws.RoundTrip.Statement (.remoteReply pack warp flight reply) := by
  intro word hw; cases hw

theorem Sys2Proof.Laws.RoundTrip.copySegment (core : Nat) (tag : Nat) (reply : RemoteReply) :
    Sys2Proof.Laws.RoundTrip.Statement (.copySegment core tag reply) := by
  intro word hw; cases hw

theorem Sys2Proof.Laws.RoundTrip.engineFaultRetry (ctx : Nat) (fseq : Nat) :
    Sys2Proof.Laws.RoundTrip.Statement (.engineFaultRetry ctx fseq) := by
  intro word hw; cases hw

theorem Sys2Proof.Laws.RoundTrip.engineFaultAbort (ctx : Nat) (fseq : Nat) :
    Sys2Proof.Laws.RoundTrip.Statement (.engineFaultAbort ctx fseq) := by
  intro word hw; cases hw

theorem Sys2Proof.Laws.RoundTrip.engineLeashPush (core : Nat) (tag : Nat) :
    Sys2Proof.Laws.RoundTrip.Statement (.engineLeashPush core tag) := by
  intro word hw; cases hw

theorem Sys2Proof.Laws.RoundTrip.engineBarrierDelivery (core : Nat) (tag : Nat) :
    Sys2Proof.Laws.RoundTrip.Statement (.engineBarrierDelivery core tag) := by
  intro word hw; cases hw

theorem Sys2Proof.Laws.RoundTrip.matrixStep (core : Nat) :
    Sys2Proof.Laws.RoundTrip.Statement (.matrixStep core) := by
  intro word hw; cases hw

theorem Sys2Proof.Laws.RoundTrip.adapterFillArrival (core : Nat) (tag : Nat) (row : Nat) (reply : RemoteReply) :
    Sys2Proof.Laws.RoundTrip.Statement (.adapterFillArrival core tag row reply) := by
  intro word hw; cases hw

theorem Sys2Proof.Laws.RoundTrip.creditRefill :
    Sys2Proof.Laws.RoundTrip.Statement (.creditRefill) := by
  intro word hw; cases hw

theorem Sys2Proof.Laws.RoundTrip.nmx (core : Nat) (tag : Nat) (block : Nat) (reply : RemoteReply) :
    Sys2Proof.Laws.RoundTrip.Statement (.nmx core tag block reply) := by
  intro word hw; cases hw

theorem Sys2Proof.Laws.RoundTrip.ncas (core : Nat) (tag : Nat) (reply : RemoteReply) :
    Sys2Proof.Laws.RoundTrip.Statement (.ncas core tag reply) := by
  intro word hw; cases hw

theorem Sys2Proof.Laws.RoundTrip.nenq (core : Nat) (tag : Nat) (reply : RemoteReply) :
    Sys2Proof.Laws.RoundTrip.Statement (.nenq core tag reply) := by
  intro word hw; cases hw

theorem Sys2Proof.Laws.RoundTrip.nchase (core : Nat) (tag : Nat) (reply : RemoteReply) :
    Sys2Proof.Laws.RoundTrip.Statement (.nchase core tag reply) := by
  intro word hw; cases hw

theorem Sys2Proof.Laws.RoundTrip.nfill (core : Nat) (tag : Nat) (block : Nat) (reply : RemoteReply) :
    Sys2Proof.Laws.RoundTrip.Statement (.nfill core tag block reply) := by
  intro word hw; cases hw

theorem Sys2Proof.Laws.RoundTrip.cstepPeerOffer (peer : BitVec 10) (ctx : Nat) (step : BitVec 16) (count : Nat) (red : BitVec 4) (senc : BitVec 4) (lower : Bool) :
    Sys2Proof.Laws.RoundTrip.Statement (.cstepPeerOffer peer ctx step count red senc lower) := by
  intro word hw; cases hw

theorem Sys2Proof.Laws.RoundTrip.cstepDataArrival (tag : Nat) (data : Delivery) (poisoned : Bool) (last : Bool) :
    Sys2Proof.Laws.RoundTrip.Statement (.cstepDataArrival tag data poisoned last) := by
  intro word hw; cases hw

theorem Sys2Proof.Laws.RoundTrip.cstepAbandonNotice (peer : BitVec 10) (ctx : Nat) (step : BitVec 16) :
    Sys2Proof.Laws.RoundTrip.Statement (.cstepAbandonNotice peer ctx step) := by
  intro word hw; cases hw

theorem Sys2Proof.Laws.RoundTrip.peerRequest (src : BitVec 10) (fctx : BitVec 12) (tag : BitVec 16) (cls : BitVec 2) (va : BitVec 64) (req : PeerReq) (retired : List (BitVec 16)) :
    Sys2Proof.Laws.RoundTrip.Statement (.peerRequest src fctx tag cls va req retired) := by
  intro word hw; cases hw

theorem Sys2Proof.Laws.RoundTrip.retryReissue (req : Nat) :
    Sys2Proof.Laws.RoundTrip.Statement (.retryReissue req) := by
  intro word hw; cases hw

theorem Sys2Proof.Laws.RoundTrip.requestReissue (req : Nat) (port : Nat) :
    Sys2Proof.Laws.RoundTrip.Statement (.requestReissue req port) := by
  intro word hw; cases hw

theorem Sys2Proof.Laws.RoundTrip.portUp (port : PortLink) :
    Sys2Proof.Laws.RoundTrip.Statement (.portUp port) := by
  intro word hw; cases hw

theorem Sys2Proof.Laws.RoundTrip.portDown (port : BitVec 4) (lost : List (BitVec 10)) :
    Sys2Proof.Laws.RoundTrip.Statement (.portDown port lost) := by
  intro word hw; cases hw

theorem Sys2Proof.Laws.RoundTrip.peerCapabilities (peer : BitVec 10) (proto : BitVec 8) (decode : BitVec 4) (nmcv : BitVec 4) (recv : BitVec 8) (coll : Bool) :
    Sys2Proof.Laws.RoundTrip.Statement (.peerCapabilities peer proto decode nmcv recv coll) := by
  intro word hw; cases hw

theorem Sys2Proof.Laws.RoundTrip.dieLinkLost :
    Sys2Proof.Laws.RoundTrip.Statement (.dieLinkLost) := by
  intro word hw; cases hw

theorem Sys2Proof.Laws.RoundTrip.registerUe (pack : Nat) (warp : Nat) :
    Sys2Proof.Laws.RoundTrip.Statement (.registerUe pack warp) := by
  intro word hw; cases hw

theorem Sys2Proof.Laws.RoundTrip.tlbinvAck (ctx : Nat) :
    Sys2Proof.Laws.RoundTrip.Statement (.tlbinvAck ctx) := by
  intro word hw; cases hw

theorem Sys2Proof.Laws.RoundTrip.haltMessageArrival (ctx : Nat) (unit : Nat) :
    Sys2Proof.Laws.RoundTrip.Statement (.haltMessageArrival ctx unit) := by
  intro word hw; cases hw

theorem Sys2Proof.Laws.RoundTrip.unitStop (ctx : Nat) (unit : Nat) :
    Sys2Proof.Laws.RoundTrip.Statement (.unitStop ctx unit) := by
  intro word hw; cases hw

theorem Sys2Proof.Laws.RoundTrip.haltSettle (ctx : Nat) :
    Sys2Proof.Laws.RoundTrip.Statement (.haltSettle ctx) := by
  intro word hw; cases hw

theorem Sys2Proof.Laws.RoundTrip.ctxcreate (desc : BitVec 64) (ctx : BitVec 4) :
    Sys2Proof.Laws.RoundTrip.Statement (.ctxcreate desc ctx) := by
  intro word hw; cases hw

theorem Sys2Proof.Laws.RoundTrip.ctxdestroy (ctx : BitVec 4) :
    Sys2Proof.Laws.RoundTrip.Statement (.ctxdestroy ctx) := by
  intro word hw; cases hw

theorem Sys2Proof.Laws.RoundTrip.ctxclear (ctx : BitVec 4) :
    Sys2Proof.Laws.RoundTrip.Statement (.ctxclear ctx) := by
  intro word hw; cases hw

theorem Sys2Proof.Laws.RoundTrip.hostevSet (ctx : BitVec 4) (g : BitVec 2) (mask : BitVec 64) :
    Sys2Proof.Laws.RoundTrip.Statement (.hostevSet ctx g mask) := by
  intro word hw; cases hw

theorem Sys2Proof.Laws.RoundTrip.hostevClear (ctx : BitVec 4) (g : BitVec 2) (mask : BitVec 64) :
    Sys2Proof.Laws.RoundTrip.Statement (.hostevClear ctx g mask) := by
  intro word hw; cases hw

theorem Sys2Proof.Laws.RoundTrip.dma (desc : BitVec 64) :
    Sys2Proof.Laws.RoundTrip.Statement (.dma desc) := by
  intro word hw; cases hw

theorem Sys2Proof.Laws.RoundTrip.dmaComplete (dma : Nat) :
    Sys2Proof.Laws.RoundTrip.Statement (.dmaComplete dma) := by
  intro word hw; cases hw

theorem Sys2Proof.Laws.RoundTrip.freeze :
    Sys2Proof.Laws.RoundTrip.Statement (.freeze) := by
  intro word hw; cases hw

theorem Sys2Proof.Laws.RoundTrip.attest (nonce : BitVec 64) (report : BitVec 64) :
    Sys2Proof.Laws.RoundTrip.Statement (.attest nonce report) := by
  intro word hw; cases hw

theorem Sys2Proof.Laws.RoundTrip.chwrWrite (c : BitVec 6) (val : BitVec 64) :
    Sys2Proof.Laws.RoundTrip.Statement (.chwrWrite c val) := by
  intro word hw; cases hw

theorem Sys2Proof.Laws.RoundTrip.chstatWrite (c : BitVec 6) (val : BitVec 64) :
    Sys2Proof.Laws.RoundTrip.Statement (.chstatWrite c val) := by
  intro word hw; cases hw

theorem Sys2Proof.Laws.RoundTrip.chctlWrite (c : BitVec 6) (val : BitVec 64) :
    Sys2Proof.Laws.RoundTrip.Statement (.chctlWrite c val) := by
  intro word hw; cases hw

theorem Sys2Proof.Laws.RoundTrip.chbaseWrite (c : BitVec 6) (val : BitVec 64) :
    Sys2Proof.Laws.RoundTrip.Statement (.chbaseWrite c val) := by
  intro word hw; cases hw

theorem Sys2Proof.Laws.RoundTrip.evrrdWrite (val : BitVec 64) :
    Sys2Proof.Laws.RoundTrip.Statement (.evrrdWrite val) := by
  intro word hw; cases hw

theorem Sys2Proof.Laws.RoundTrip.certdataRead :
    Sys2Proof.Laws.RoundTrip.Statement (.certdataRead) := by
  intro word hw; cases hw

theorem Sys2Proof.Laws.RoundTrip.scandataRead :
    Sys2Proof.Laws.RoundTrip.Statement (.scandataRead) := by
  intro word hw; cases hw

theorem Sys2Proof.Laws.RoundTrip.rasCounterWrite (off : BitVec 16) (val : BitVec 64) :
    Sys2Proof.Laws.RoundTrip.Statement (.rasCounterWrite off val) := by
  intro word hw; cases hw

theorem Sys2Proof.Laws.RoundTrip.peerEntryWrite (peer : BitVec 10) (val : BitVec 64) :
    Sys2Proof.Laws.RoundTrip.Statement (.peerEntryWrite peer val) := by
  intro word hw; cases hw

theorem Sys2Proof.Laws.RoundTrip.mgmtRegisterWrite (off : BitVec 16) (val : BitVec 64) :
    Sys2Proof.Laws.RoundTrip.Statement (.mgmtRegisterWrite off val) := by
  intro word hw; cases hw

theorem Sys2Proof.Laws.RoundTrip.powerLoop (pkgpw : BitVec 32) (diepw0 : BitVec 32) (diepw1 : BitVec 32) (hbmpw : BitVec 32) (temp : BitVec 16) (ebudget : BitVec 32) :
    Sys2Proof.Laws.RoundTrip.Statement (.powerLoop pkgpw diepw0 diepw1 hbmpw temp ebudget) := by
  intro word hw; cases hw

theorem Sys2Proof.Laws.RoundTrip.powerOverdraw :
    Sys2Proof.Laws.RoundTrip.Statement (.powerOverdraw) := by
  intro word hw; cases hw

theorem Sys2Proof.Laws.RoundTrip.reset (fail : BitVec 3) :
    Sys2Proof.Laws.RoundTrip.Statement (.reset fail) := by
  intro word hw; cases hw

theorem Sys2Proof.Laws.RoundTrip.unassignedEncoding (word : BitVec 32) :
    Sys2Proof.Laws.RoundTrip.Statement (.unassignedEncoding word) := by
  intro word hw; cases hw

theorem Sys2Proof.Laws.RoundTrip.dlReplay (port : BitVec 4) :
    Sys2Proof.Laws.RoundTrip.Statement (.dlReplay port) := by
  intro word hw; cases hw
end

