-- ==== Sys2Proof/Tests/Slice0.lean ====
section
/-! SUPPORT. Checks of the model on small states, and for each statement with hypotheses a state that meets them. Expected values
are worked out by hand from the rules named beside them. -/

namespace Sys2Proof.Tests

open Sys2Proof Sys2Proof.Machine

set_option Elab.async false

/-! ## Small states -/

/-- The outcome is a next state with property `p`. -/
def gives (o : Host.Outcome State Fault Refusal) (p : State → Bool) : Bool :=
  match o with
  | .next t => p t
  | _ => false

/-- The result is `x`. -/
def okIs {ε α : Type} [DecidableEq α] (r : Except ε α) (x : α) : Bool :=
  match r with
  | .ok y => decide (y = x)
  | .error _ => false

theorem okIs_eq {ε α : Type} [DecidableEq α] {r : Except ε α} {x : α} : okIs r x = true ↔ r = .ok x := by
  cases r <;> simp [okIs]

/-- There is a result, and it has property `p`. -/
def okHas {ε α : Type} (r : Except ε α) (p : α → Bool) : Bool :=
  match r with
  | .ok y => p y
  | .error _ => false

theorem okHas_iff {ε α : Type} {r : Except ε α} {p : α → Bool} : okHas r p = true ↔ ∃ x, r = .ok x ∧ p x = true := by
  cases r <;> simp [okHas]

/-- Word `i` takes effect in `s` and leaves `t`. -/
def took (i : Instr) (s t : State) : Bool := gives (exec i s) (fun u => decide (u = t.setResult .done))

/-- An epilogue warp with lanes 0 and 1 active, whole register budgets, and some register contents. -/
def epi : Warp :=
  { kbud := 3, vbud := 2, pc := 64, exec := 3, live := 3
    k := [(1, 5), (2, 7), (3, 8), (4, 128)], v := [(32, 3), (33, 9), (64, 4), (65, 2)], p := [(1, 1)] }

def mat : Warp := { role := .maths, kbud := 3, pc := 64, exec := 1, live := 1, k := [(1, 5), (2, 7), (3, 8), (4, 128)] }
def cpy : Warp := { mat with role := .copy }
def sup (w : Warp) : Warp := { w with level := .supervisor }

/-- The page at 0 of 64 KiB, local, writable and executable. -/
def page0 : TlbEntry := { base := 0, size := 65536, leaf := fetchLeaf }

/-- A context with one page and cluster 0 in its partition. -/
def ctx0 : Context := { desc := BitVec.ofNat 2048 (2 ^ (8 * 0x48)), tlb := [page0] }

/-- A state whose pack 1 on core 0 holds the one warp `w`, which is about to run the only word of a packet at its pc. -/
def st (w : Warp) (p : Pack := {}) (x : Context := ctx0) (s : State := State.reset) : State :=
  { s with
    cur := (1, 0), packSeq := 2, contexts := s.contexts.set 0 (some x)
    packs := { p with id := 1, warps := w :: p.warps } :: s.packs
    iss := { base := w.pc, pre := w, restart := w.pc, latch := [none, none, none] } }

/-- What a word of that packet acts for. -/
def hr (w : Warp) (p : Pack := {}) (x : Context := ctx0) : Here :=
  { pack := { p with id := 1, warps := w :: p.warps }, warp := w, ctx := x, pid := 1, wi := 0, lit := none }

/-- The word of the packet may run. -/
def may (i : Instr) (s : State) (h : Here) : Bool := decide (Issues i s h)

/-- The current warp after a word that took effect. -/
def warpOf (s : State) : Warp := s.curWarp.getD {}

/-! ## Page tables that can be walked -/

theorem get_blank (m : Memory) (a : Nat) (h : m.all (fun c => c.1 % 8 != 7) = true) (ha : a % 8 = 7) : m.read a = 0 := by
  induction m with
  | nil => rfl
  | cons c m ih =>
    simp only [List.all_cons, Bool.and_eq_true, bne_iff_ne] at h
    have hne : a ≠ c.1 := fun e => h.1 (e ▸ ha)
    show (if a = c.1 then c.2 else Map.get Memory.blank m a) = 0
    rw [if_neg hne]
    exact ih h.2

theorem dram64_small (s : State) (pa : Nat) (h : s.dram.all (fun c => c.1 % 8 != 7) = true) (ha : pa % 8 = 0) :
    s.dram64 pa < 2 ^ 56 := by
  have h7 : s.dram.read (pa + 7) = 0 := get_blank _ _ h (by omega)
  have hb (n : Nat) : ∀ a, leNat (bytesAt s.dram.read a n) < 256 ^ n := by
    induction n with
    | zero => intro a; exact Nat.one_pos
    | succ n ih =>
      intro a
      have := ih (a + 1)
      have := (s.dram.read a).isLt
      simp only [bytesAt, leNat, Nat.pow_succ]
      omega
  have hz (n : Nat) : ∀ a, s.dram.read (a + n) = 0 → leNat (bytesAt s.dram.read a (n + 1)) = leNat (bytesAt s.dram.read a n) := by
    induction n with
    | zero => intro a hr; simp only [bytesAt, leNat]; rw [show s.dram.read a = 0 from hr]; rfl
    | succ n ih =>
      intro a hr
      have := ih (a + 1) (by rw [show a + 1 + n = a + (n + 1) by omega]; exact hr)
      rw [bytesAt, leNat, this, bytesAt, leNat]
  show leNat (bytesAt s.dram.read pa (7 + 1)) < 2 ^ 56
  rw [hz 7 pa h7]
  exact hb 7 pa

/-- Where every page table's root is at 0, and no 8 bytes of local memory have their greatest byte set, a walk ends at its first entry. -/
theorem flat_walkable (s : State) (hc : s.contexts.all (fun o => o.all (fun x => descPtroot x.desc == 0)) = true)
    (hd : s.dram.all (fun c => c.1 % 8 != 7) = true) : Claims.walkable s := by
  intro c x va pa hx hp
  have hr : descPtroot x.desc = 0 := by
    have hm : s.contexts.getD c none = some x := hx
    rw [List.getD_eq_getElem?_getD] at hm
    cases h : s.contexts[c]? with
    | none => rw [h] at hm; cases hm
    | some o =>
      rw [h] at hm
      have := List.all_eq_true.mp hc o (List.mem_of_getElem? h)
      have ho : o = some x := hm
      subst ho
      simpa using this
  unfold State.page at hp
  split at hp
  · split at hp
    · cases hp
    · rename_i _ _ _
      have hlt : va % 2 ^ 57 / 2 ^ 39 % 2 ^ 18 < 2 ^ 18 := Nat.mod_lt _ (by decide)
      have h56 := dram64_small s (8 * (va % 2 ^ 57 / 2 ^ 39 % 2 ^ 18)) hd (by omega)
      have hb (i : Nat) (hi : 56 ≤ i) : (BitVec.ofNat 64 (s.dram64 (8 * (va % 2 ^ 57 / 2 ^ 39 % 2 ^ 18)))).getLsbD i = false := by
        rw [BitVec.getLsbD_ofNat, Nat.testBit_lt_two_pow (Nat.lt_of_lt_of_le h56 (Nat.pow_le_pow_right (by decide) hi))]
        simp
      have hw : s.walk (va % 2 ^ 57) walkLevels 0 = raiseAt .xlate (va % 2 ^ 57) := by
        have hn (z : Nat) : nextOk (BitVec.ofNat 64 (s.dram64 (8 * (va % 2 ^ 57 / 2 ^ 39 % 2 ^ 18)))) z = false := by
          unfold nextOk
          rw [hb 63 (by decide)]
          rfl
        simp only [walkLevels, State.walk, Nat.zero_add]
        rw [if_neg (by simp only [Config.dramEnd]; omega), hb 56 (by decide)]
        simp only [hn, Bool.false_eq_true, if_false]
      rw [hr, hw] at hp
      simp [raiseAt, Except.map, Except.mapError] at hp
  · simp [raiseAt] at hp

theorem test_walk : Claims.walkable (st epi) := flat_walkable _ (by decide +kernel) (by decide +kernel)

/-- The operation raises `c` with `a` in XADDR. -/
def raisesAt {α : Type} (r : Res α) (c : Cause) (a : Nat) : Bool :=
  match r with
  | .error (.raise d x i p) => decide (d = c ∧ x = BitVec.ofNat 64 a ∧ i = 0 ∧ p = false)
  | _ => false
/-! ## Decoding: words put together bit by bit from the encodings of R77 to R82 -/

theorem test_decode_control :
    decode 0b00000001000000010010001101000101#32 = some (.bra 74565) ∧
    decode 0b00000001111011111111111111111111#32 = some (.brp 5 524287) ∧
    decode 0b00001011100101101010000000000000#32 = some (.rep 37 1 0 1 0 2) ∧
    decode 0b00001100000000000000000000101001#32 = some (.trap 41) := by decide

theorem test_decode_uniform :
    decode 0b00010000001011010110100001001101#32 = some (.ubfe 11 22 33) ∧
    decode 0b00010001000110000011101000001001#32 = some (.ucmp 6 3 40 9) ∧
    decode 0b00010010000001000010000011000100#32 = some (.usel 1 2 3 4) ∧
    decode 0b00010100000111001000111111111100#32 = some (.uld 7 8 4092) ∧
    decode 0b00010111000000001001000000100111#32 = some (.uws 9 39) := by decide

theorem test_decode_integer :
    decode 0b00110010110001010010000011000111#32 = some (.vbfe 1 69 32 199) ∧
    decode 0b00110100110011111000001100010001#32 = some (.vcmp 9 7 131 17) := by decide

theorem test_decode_float :
    decode 0b00111000101000010010001000100011#32 = some (.vfadd 1 33 34 35) ∧
    decode 0b01000001101100010011001001100111#32 = some (.vfcvt 1 49 50 3 7) ∧
    decode 0b01000000101010100100000101000010#32 = some (.vfcmp 5 2 65 66) := by decide

theorem test_decode_lane :
    decode 0b01010101110100010101001000000110#32 = some (.vred 1 81 82 6) ∧
    decode 0b01011000110001000010001111011010#32 = some (.vld 1 68 35 27 2) ∧
    decode 0b01011100010001000011000000101011#32 = some (.vcas 0 68 48 5 1) ∧
    decode 0b01100000010001000010010100110010#32 = some (.trd 68 37 6 2) := by decide

theorem test_decode_sync :
    decode 0b01100100000000000000000000010011#32 = some (.fence 2 3) ∧
    decode 0b01100101001100000000100001000001#32 = some (.barv 12 33) ∧
    decode 0b01100110001101000100001111000010#32 = some (.qpeek 13 4 15) ∧
    decode 0b01100111001110000101001111000001#32 = some (.spawnDc 14 5 15) ∧
    decode 0b01101010010000000011000000000001#32 = some (.evset 16 3) ∧
    decode 0b01101011010001010010000000000000#32 = some (.seqadd 17 18) := by decide

theorem test_decode_engine :
    decode 0b01101100000001000010000011000000#32 = some (.tcopy 1 2 3) ∧
    decode 0b01101101000100000101000110000000#32 = some (.nmc 4 5 6) ∧
    decode 0b01101111000111001000001001000000#32 = some (.cstep 7 8 9) ∧
    decode 0b01110000000000000000000000001011#32 = some (.cfence 11) ∧
    decode 0b01101110000001000010000011011010#32 = some (.ratom 1 2 3 6) ∧
    decode 0b01101110000100000101000000000100#32 = some (.rld 4 5 1) := by decide

theorem test_decode_matrix :
    decode 0b01110100000010000100000011000101#32 = some (.mloop 2 4 3 5) ∧
    decode 0b01110101000100000101000110000111#32 = some (.mstep 4 5 6 7) ∧
    decode 0b01111001001000001001000000000101#32 = some (.mtld 8 9 5) ∧
    decode 0b01110111001010000000000000000000#32 = some (.mbatch 10) := by decide

theorem test_decode_system :
    decode 0b01111101010011001000000100000000#32 = some (.sysr 19 516) ∧
    decode 0b01111101010100010101000000000011#32 = some (.wpset 20 21) ∧
    decode 0b01111110010110000000000000000000#32 = some (.tsave 22) ∧
    decode 0b01111100000000000000000000000001#32 = some (.park) := by decide

/-- A word of an opcode that R81 assigns to nothing, one with a reserved sub-function, and one with a reserved operand (R9, R83). -/
theorem test_decode_refused : decode 0x0D000000#32 = none ∧ decode 0x10000011#32 = none ∧ decode 0x65000005#32 = none := by decide

/-! ## Ill-formed words, one for each check -/

theorem test_wf_sources : wf (.vadd 1 4 0x73 0) = false ∧ wf (.vadd 1 4 0x7C 0) = false ∧ wf (.vadd 1 4 0 0x7F) = false ∧
    wf (.vfma2 1 4 0x21 0x22) = false ∧ wf (.vfma2 1 4 0x22 0x70) = false ∧ wf (.vadd 1 4 0x72 0x78) = true := by decide

theorem test_wf_destinations : wf (.vadd 1 0x70 0 0) = false ∧ wf (.vadd 0 4 0 0) = false ∧ wf (.vmad 0 0x70 0 0) = false ∧
    wf (.vfma2 1 5 0x20 0x22) = false ∧ wf (.vadd 0 0 0 0) = true := by decide

theorem test_wf_lane_memory : wf (.vld 0 0x44 0 0 5) = false ∧ wf (.vld 0 0x41 0 0 3) = false ∧ wf (.vld 0 0x42 0 0 4) = false ∧
    wf (.vstm 0 0x5F 0 0 2) = false ∧ wf (.vcas 0 0x42 0 0 1) = false ∧ wf (.vcas 0 0x41 0 0 0) = false ∧
    wf (.vatom 0 0x70 0 0 0) = false ∧ wf (.vprf 0 0 3) = false ∧ wf (.trd 0x44 0 0 7) = false := by decide

theorem test_wf_codes : wf (.waitc 1 5) = false ∧ wf (.ucmp 0 1 2 10) = false ∧ wf (.vcmp 10 0 0 0) = false ∧
    wf (.vfcmp 8 0 0 0) = false ∧ wf (.vfcvt 1 4 0 5 0) = false ∧ wf (.vfcvt 1 4 0 0 0x17) = false ∧ wf (.vred 1 4 0 11) = false ∧
    wf (.vscan 1 4 0 11) = false ∧ wf (.fence 4 0) = false ∧ wf (.fence 0 5) = false ∧ wf (.spawn 1 6) = false ∧
    wf (.spawnDc 1 7 2) = false ∧ wf (.barv 1 0x30) = false ∧ wf (.barv 1 0x2F) = true := by decide

theorem test_wf_registers : wf (.fget 0x41 0 0) = false ∧ wf (.fput 0x71 0 0) = false ∧ wf (.ratom 1 2 3 8) = false ∧
    wf (.ratom 1 2 3 7) = false ∧ wf (.cfence 0) = false ∧ wf (.mloop 1 2 3 0) = false ∧ wf (.mloop 2 3 3 0) = false ∧
    wf (.mfft 1 0) = false ∧ wf (.usr 1 0x009) = false ∧ wf (.uws 1 0x014) = false ∧ wf (.uws 1 0x000) = false ∧
    wf (.sysr 1 0x0C0) = false ∧ wf (.sysr 1 0x207) = false ∧ wf (.sysw 1 0x204) = false := by decide

/-! ## Reset, the step -/

/-- DecodeEncode and EncodeDecode: `uadd k1, k2, k3` and its word. -/
theorem test_DecodeEncode : wf (.uadd 1 2 3) = true ∧ encode (.uadd 1 2 3) = some 0x100420C0#32 ∧
    decode 0x100420C0#32 = some (.uadd 1 2 3) := by decide

/-- A state about to issue `uadd k1, k2, k3`, as `withFetchWord` places it (StepRunsWord). -/
def fetched : State := State.reset.withFetchWord 32 0x100420C0

theorem test_StepRunsWord : fetched.agenda = [] ∧ fetched.mgmt.frozen = false ∧
    (match fetched.issuer with
     | some (h, w) => decide (w.midPair = none) && okIs ((fetched.begin w).fetchChain h.ctx w.pc.toNat 3) [0x100420C0#32] &&
         decide (packetCheck w w.pc.toNat none [⟨0x100420C0#32, some (.uadd 1 2 3), none⟩] = none)
     | none => false) = true ∧
    gives (step fetched) (fun t => decide ((warpOf t).pc = 4 ∧ t.iss.result = .done ∧ t.cycle = 1)) = true := by decide +kernel

/-- StepTakesEvent and FrozenInvariant: an event on the agenda; a frozen part with none, with a served one, and with one that is not. -/
def frozenWith (a : List Instr) : State := { State.reset with agenda := a, mgmt := { State.reset.mgmt with frozen := true } }

theorem test_StepTakesEvent : State.reset.mgmt.frozen = false ∧ isWord .priorityAging = false ∧ isWord (.reset 0) = false ∧
    isWord .scandataRead = false ∧ runsFrozen .scandataRead = true ∧ runsFrozen .priorityAging = false ∧
    (frozenWith [.scandataRead]).mgmt.frozen = true := by decide +kernel

theorem test_FrozenInvariant : (frozenWith [.scandataRead]).mgmt.frozen = true ∧
    (∀ e ∈ (frozenWith [.scandataRead]).agenda, ∀ f, e ≠ .reset f) ∧
    gives (step (frozenWith [.scandataRead])) (fun t => t.mgmt.frozen && t.agenda.isEmpty) = true := by
  refine ⟨by decide +kernel, ?_, by decide +kernel⟩
  intro e he f h
  simp [frozenWith] at he
  rw [he] at h
  cases h

/-- EveryStepAnswers: reset memory is canonical and no walk leaves local memory; with a root beyond it a `uld` stops at the walk's first
entry (R126, R132). -/
def rootless : State := st epi {} { ctx0 with tlb := [], desc := BitVec.ofNat 2048 (2 ^ 45) }

theorem test_EveryStepAnswers :
    (st epi).canonical = true ∧ Claims.keepsMemory (.uld 9 4 0) = true ∧
    gives (exec (.uld 9 4 0) (st epi)) (fun t => t.canonical) = true ∧ gives (step fetched) (fun t => t.canonical) = true ∧
    (match exec (.uld 9 4 0) rootless with | .fault (.absentAddress a) => decide (Config.dramEnd < a + 8) | _ => false) = true := by decide +kernel

/-! ## Memory -/

theorem test_MemoryReadWrite : (Place.dram 70).peer? = none ∧ (Place.peer 3 64).peer?.isSome = true ∧
    (State.reset.writePlace (.dram 70) 9).readPlace (.dram 70) = 9 ∧
    (State.reset.writePlace (.scratch 5 1) 9).readPlace (.scratch 5 1) = 9 ∧
    (State.reset.writePlace (.scratch 5 1) 9).readPlace (.scratch 6 1) = 0 := by decide +kernel

theorem test_MemoryCanonical : State.reset.canonical = true ∧ Memory.wf [(3, 1), (7, 2)] = true ∧ Memory.wf [(7, 2), (3, 1)] = false ∧
    Memory.wf [(3, 0)] = false ∧ (State.reset.writePlace (.dram 70) 9).dram = [(70, 9)] ∧
    ((State.reset.writePlace (.dram 70) 9).writePlace (.dram 70) 0).dram = [] := by decide +kernel

/-- StoreWritesItsBytes: a byte under the mask 0x0F, an untouched neighbour; 0x1234 in two bytes. -/
theorem test_StoreWritesItsBytes :
    let b : StoreByte := { va := 8, via := 0, place := .dram 8, mask := 0x0F, val := 0xAB }
    (∀ c ∈ [b], c.place ≠ Place.dram 9) ∧ (∀ c ∈ [b], c.place = b.place → c = b) ∧ b.place.peer? = none ∧
    ((State.reset.writePlace (.dram 8) 0x50).writeAll [b]).readPlace (.dram 8) = 0x5B ∧
    0x1234 < 2 ^ (8 * 2) ∧ 1 < 2 ∧ leBytes 2 0x1234 = [0x34, 0x12] := by decide +kernel

theorem test_WordsKeepMemory : Claims.keepsMemory (.uadd 1 2 3) = true ∧ Claims.mayFind (.uadd 1 2 3) = false ∧ (st epi).strikes = [] ∧
    gives (exec (.uadd 1 2 3) (st epi)) (fun t => decide (t.dram = (st epi).dram)) = true := by decide +kernel

/-! ## Registers -/

theorem test_RegisterFiles : ((epi.setK 9 3).kreg 9, (epi.setK 9 3).kreg 1, (epi.setP 2 3).preg 2, (epi.setC 7 true).c) = (3, 5, 3, 128) ∧
    (7 < 8 ∧ 31 < 32) ∧ (epi.setV 3 31 8).vreg 3 31 = 8 ∧ (epi.setV 3 31 8).vreg 1 0 = 3 := by decide +kernel

theorem test_VectorResult : (st epi).curWarp = some epi ∧ (st epi).iss.ix < (st epi).iss.latch.length ∧
    (warpOf ((st epi).vecResult 1 5 ((lanesOf 3).map (fun l => (l, 8))))).vreg 5 1 = 8 ∧
    (warpOf ((st epi).vecResult 1 5 ((lanesOf 3).map (fun l => (l, 8))))).vreg 5 2 = 0 ∧
    warpOf ((st epi).vecResult 0 0 ((lanesOf 3).map (fun l => (l, 8)))) = epi := by decide +kernel

/-! ## Uniform words -/

/-- A word of each uniform row, on k1 = 5 and k2 = 7 (R211 to R214). -/
theorem test_UniformWords_rows :
    [(Instr.uadd 9 1 2, 12), (.usub 9 1 2, -2), (.umul 9 1 2, 35), (.umulh 9 1 2, 0), (.uand 9 1 2, 5), (.uor 9 1 2, 7), (.uxor 9 1 2, 2),
      (.ushl 9 1 2, 640), (.ushr 9 1 2, 0), (.usar 9 1 2, 0), (.umin 9 1 2, 5), (.umax 9 1 2, 7), (.umov 9 1, 5), (.umad 2 1 3, 47),
      (.usel 9 1 2 0, 7), (.uli 9 0x3FFFF, -1)].all (fun r => may r.1 (st epi) (hr epi) &&
        (match Claims.uniformRow (hr epi) r.1 with
         | some (kd, x) => decide (x = r.2) && took r.1 (st epi) ((st epi).setCur (fun w => w.setK kd.toNat r.2))
         | none => false)) = true := by decide +kernel

/-- `uclz`, `ucnt` of 5; `ubfe` of 7 by 5 (position 5, length 0) and of 5 by 0x0200; `ucmp` 5 < 7. -/
theorem test_UniformWords_bits :
    (may (.uclz 9 1) (st epi) (hr epi) && may (.ucnt 9 1) (st epi) (hr epi) && may (.ubfe 9 2 1) (st epi) (hr epi) &&
      may (.ucmp 1 1 2 2) (st epi) (hr epi) && took (.uclz 9 1) (st epi) ((st epi).setCur (fun w => w.setK 9 61)) &&
      took (.ucnt 9 1) (st epi) ((st epi).setCur (fun w => w.setK 9 2)) &&
      took (.ubfe 9 2 1) (st epi) ((st epi).setCur (fun w => w.setK 9 0)) &&
      took (.ucmp 1 1 2 2) (st epi) ((st epi).setCur (fun w => w.setC 1 true))) = true ∧
    took (.ubfe 9 2 8) (st { epi with k := [(2, 0xF6), (8, 0x10304)] })
      ((st { epi with k := [(2, 0xF6), (8, 0x10304)] }).setCur (fun w => w.setK 9 (-1))) = true := by decide +kernel

/-- `uld k9, [k4]` and `ust k1, [k4]` at 128 of page 0, and at the misaligned 5 (R215, R216). -/
theorem test_UniformMemory :
    (okHas ((st epi).uniformAccess (hr epi) .load (uniformEa (hr epi) 4 0)) (fun r => decide (r.1.place = .dram 128)) &&
      okHas ((st epi).uniformAccess (hr epi) .store (uniformEa (hr epi) 4 0)) (fun r => decide (r.1.place.peer? = none)) &&
      okIs ((st epi).charge []) (st epi) && may (.uld 9 4 0) (st epi) (hr epi) && may (.ust 1 4 0) (st epi) (hr epi) &&
      okHas ((st epi).uniformAccess (hr epi) .load (uniformEa (hr epi) 4 0)) (fun _ => decide (CanFly (st epi) (hr epi) .laneLd)) &&
      may (.uld 9 1 0) (st epi) (hr epi) && may (.ust 9 1 0) (st epi) (hr epi)) = true ∧
    epi.counter .laneLd < 255 ∧ epi.counter .laneSt < 255 ∧
    (uniformSpace (uniformEa (hr epi) 1 0)).1 = 0 ∧ (uniformEa (hr epi) 1 0).toNat % 8 ≠ 0 ∧
    gives (exec (.uld 9 4 0) (st epi)) (fun t => (warpOf t).flight.map (fun f => f.kind) =
      [.uload 9 { lane := 0, va := 128, place := .dram 128, len := 8, pos := 0, scales := [], zeros := [] }]) = true ∧
    gives (exec (.ust 1 4 0) (st epi)) (fun t => (warpOf t).sideEff = 3) = true := by decide +kernel

/-- The registers that `usr` reads and `uws` writes at each level (R218, R362). -/
theorem test_SpecialRegisters :
    ([0x006, 0x008, 0x010, 0x011, 0x012, 0x013, 0x015].all (fun i => may (.usr 9 i) (st epi) (hr epi)) &&
     [0x020, 0x021, 0x022, 0x023, 0x024, 0x027, 0x028].all (fun i => may (.usr 9 i) (st (sup epi)) (hr (sup epi))) &&
     [0x010, 0x011].all (fun i => may (.uws 1 i) (st epi) (hr epi)) &&
     [0x008, 0x020, 0x021, 0x022, 0x027, 0x028].all (fun i => may (.uws 1 i) (st (sup epi)) (hr (sup epi))) &&
     took (.usr 9 0x008) (st epi) ((st epi).setCur (fun w => w.setK 9 3)) &&
     took (.uws 1 0x010) (st epi) ((st epi).setCur (fun w => { w with fpmode := 1 })) &&
     took (.uws 4 0x008) (st (sup epi)) ((st (sup epi)).setCur id) &&
     took (.uws 1 0x027) (st (sup epi)) ((st (sup epi)).setCur (fun w => { w with xscr0 := 5 }))) = true := by decide +kernel

/-! ## Control -/

/-- A taken and an untaken branch and call, and jumps to 128 and to the misaligned 5 (R201 to R203). -/
theorem test_Branches :
    ([(Instr.bra 3, 76), (.bra 0x7FFFF, 60), (.brc 0 3, 68), (.brcF 0 3, 76)].all (fun r => may r.1 (st epi) (hr epi) &&
      (Claims.branchRow (hr epi) r.1).isSome && took r.1 (st epi) ((st epi).setCur (fun w => { w with pc := r.2 }))) &&
     [Instr.call 3, .callC 0 3, .callF 0 3].all (fun i => may i (st epi) (hr epi) && (Claims.callRow (hr epi) i).isSome) &&
     took (.call 3) (st epi) ((st epi).setCur (fun w => { w.setK 15 68 with pc := 76 })) &&
     took (.callC 0 3) (st epi) ((st epi).setCur (fun w => { w with pc := 68 })) &&
     [Instr.brx 4, .ret 4, .brx 1, .ret 1].all (fun i => may i (st epi) (hr epi) && (Claims.jumpRow i).isSome) &&
     took (.brx 4) (st epi) ((st epi).setCur (fun w => { w with pc := 128 })) &&
     gives (exec (.ret 1) (st epi)) (fun t => t.iss.result = .raised && (warpOf t).xaddr = 5 && (warpOf t).xcause = 9)) = true := by
  decide +kernel

/-- A warp with `n` entries on its stack, each naming lanes 0 and 1 at address 256. -/
def deep (n : Nat) : Warp :=
  { epi with live := 7, stack := (List.range n).map (fun i => (i, { kind := .rejoin, addr := 256, mask := 3 })), depth := BitVec.ofNat 6 n }

/-- `brp` where no lane, every lane and one lane falls through, and on a full stack; `mark` with room and without; `join` at an
empty stack and at entry 1; `exit` of every live lane, of some, and with a fault held pending (R79, R80, R204, R205, R416). -/
theorem test_Divergence :
    ([epi, { epi with p := [(0, 3)] }, { epi with p := [(0, 1)] }, { deep 32 with p := [(0, 1)] }].all (fun w =>
        may (.brp 0 3) (st w) (hr w)) && [epi, deep 32].all (fun w => may (.mark 3) (st w) (hr w)) &&
     [epi, deep 2].all (fun w => may .join (st w) (hr w)) && [epi, deep 2].all (fun w => may .exit (st w) (hr w)) &&
     took (.brp 0 3) (st { epi with p := [(0, 1)] }) ((st { epi with p := [(0, 1)] }).setCur (fun w => { w with
       stack := [(0, { kind := .pending, addr := 68, mask := 2 })], depth := 1, exec := 1, pc := 76 })) &&
     took (.mark 3) (st epi) ((st epi).setCur (fun w => { w with stack := [(0, { kind := .rejoin, addr := 76, mask := 3 })], depth := 1 })) &&
     took .join (st (deep 2)) ((st (deep 2)).setCur (fun w => { w with exec := 3, depth := 1, pc := 256 })) &&
     gives (exec (.mark 3) (st (deep 32))) (fun t => (warpOf t).xcause = 7) &&
     gives (exec .exit (st (deep 2))) (fun t => (warpOf t).live = 4 || (warpOf t).live = 0) &&
     gives (exec .exit (st epi)) (fun t => (warpOf t).live = 0)) = true ∧
    (deep 32).depth.toNat = 32 ∧ epi.live &&& ~~~epi.exec = 0 ∧ (hr epi).staleStore = false ∧ epi.pending = [] := by decide +kernel

/-- A fault held pending. -/
def pend : PendFault :=
  { seq := 0, cause := .fabric, addr := 640, pc := 32, regs := [], kreg := none, waitPath := none, onRelease := true, batchCmd := none, onAny := false }

theorem test_Divergence_pending :
    (may .exit (st { epi with pending := [pend] }) (hr { epi with pending := [pend] }) &&
     gives (exec .exit (st { epi with pending := [pend] })) (fun t => (warpOf t).xcause = 65557 && (warpOf t).xaddr = 640 &&
       (warpOf t).live = 3 && decide ((warpOf t).pending = []))) = true := by decide +kernel

/-- `nop`, `yield`, `lit`, and `waitc st, k1` with no store and with six in flight (R72, R206, R207, R209). -/
def flying (id : Nat) (path : Path) (kind : FlightKind) : Flight :=
  { id := id, path := path, kind := kind, pc := 32, epoch := 0, acquire := none, release := none, inWcb := false, done := false }

/-- `exit` with a store that must be translated again (R192, R416). -/
def stale : Warp := { epi with flight := [{ flying 0 .laneSt (.store [] 0 4 []) with inWcb := true, epoch := 9 }] }

theorem test_Divergence_stale :
    (may .exit (st stale) (hr stale) && (hr stale).staleStore && decide (stale.live &&& ~~~stale.exec = 0) &&
     gives (exec .exit (st stale)) (fun t => decide (t.iss.result = .held ∧ (warpOf t).live = 3))) = true := by decide +kernel

def storing (n : Nat) : Warp := { epi with flight := List.replicate n { flying 0 .laneSt (.store [] 0 4 []) with done := true } }

theorem test_ControlWords :
    ([Instr.nop, .yield, .lit 9].all (fun i => may i (st epi) (hr epi)) && took .nop (st epi) (st epi) &&
     [storing 0, storing 6].all (fun w => may (.waitc 1 1) (st w) (hr w)) && took (.waitc 1 1) (st (storing 5)) (st (storing 5)) &&
     gives (exec (.waitc 1 1) (st (storing 6))) (fun t => decide ((warpOf t).block = some { why := .waitc .laneSt 5, since := 0, sat := false } ∧
       t.iss.result = .blocked)) &&
     gives (exec (.lit 9) (st epi)) (fun t => decide (t.iss.lit = some 9))) = true := by decide +kernel

/-- A packet whose second word is `w`. -/
def before (w : BitVec 32) : State :=
  let s := st epi
  { s with iss := { s.iss with next := w, words := 2 } }

/-- `rep` of `vadd v4, v36, 7` with one and with four iterations, of `nop`, and with no selected field (R74 to R76). -/
theorem test_Repeat :
    (let v : BitVec 32 := 0x208424C7
     [Instr.rep 0 1 0 0 0 0, .rep 3 1 0 0 0 0, .rep 3 0 0 1 0 0].all (fun i => may i (before v) (hr epi)) &&
     may (.rep 3 1 0 0 0 0) (before 0) (hr epi) &&
     decide (epi.repc.toNat % 128 = 0) &&
     (match decode v with
      | some t => !unrepeatable t && (match stepFields t v.toNat true false false false with
          | some fs => !stepsBad fs 3 1 | none => false) && (stepFields t v.toNat false false true false).isNone
      | none => false) &&
     (match decode 0 with | some t => unrepeatable t | none => false) &&
     gives (exec (.rep 3 1 0 0 0 0) (before v)) (fun t => decide (t.iss.repJ = some (0, 1) ∧ (warpOf t).repc = 0x10003 ∧ (warpOf t).pc = 64)) &&
     gives (exec (.rep 0 1 0 0 0 0) (before v)) (fun t => decide (t.iss.repJ = some (0, 1) ∧ (warpOf t).repc = 0 ∧ (warpOf t).pc = 72)) &&
     gives (exec (.rep 3 1 0 0 0 0) (before 0)) (fun t => (warpOf t).xcause = 8)) = true := by decide +kernel

/-! ## Exceptions -/

/-- A context whose trap table, in page 0 at 4,096, gives MISALIGN (9) the handler 512 and nothing to the other causes. -/
def trapCtx : Context := { ctx0 with desc := BitVec.ofNat 2048 (2 ^ (8 * 0x48) + 4096 * 2 ^ (8 * 0x08)) }
def trapMem : State := { State.reset with dram := Memory.writeBytes [] (4096 + 16 * 9) (leBytes 8 512) }

def trapping : State := st epi {} trapCtx trapMem

theorem test_TrapEntersHandler :
    (trapping.pack? 1).isSome = true ∧ trapping.ctx? 0 = some trapCtx ∧ epi.level = .user ∧
    okIs (trapping.handler trapCtx .misalign) (.at 512) = true ∧
    okHas (trapping.partRead trapCtx (descTraps trapCtx.desc + 16 * causeCode .misalign) 16)
      (fun bs => decide (leNat (bs.take 8) = 512 ∧ leNat (bs.drop 8) = 0)) = true ∧
    okIs (trapping.handler trapCtx .view) .none = true ∧
    okIs ((st epi {} trapCtx { trapMem with dram := Memory.writeBytes [] (4096 + 16 * 9) (leBytes 8 514) }).handler trapCtx .misalign) .bad = true ∧
    okHas (trapping.takeTrap 1 0 epi .misalign 64 5 0 false) (fun t => decide ((warpOf t).pc = 512 ∧
      (warpOf t).level = .supervisor ∧ (warpOf t).xpc = 64 ∧ (warpOf t).xcause = 9 ∧ (warpOf t).xaddr = 5)) = true := by decide +kernel

theorem test_TrapHalts :
    okIs (trapping.handler trapCtx .slice) .none = true ∧ (sup epi).level = .supervisor ∧
    okHas (trapping.takeTrap 1 0 epi .view 64 5 0 false) (fun t => (warpOf t).preHeld && (warpOf t).xcause = 10) = true ∧
    okHas ((st (sup epi) {} trapCtx trapMem).takeTrap 1 0 (sup epi) .misalign 64 5 0 false) (fun t => (warpOf t).preHeld && (warpOf t).xcause = 0) = true ∧
    okIs (trapping.takeTrap 1 0 epi .slice 64 5 0 false) trapping = true ∧
    0 < (st epi).contexts.length ∧ ctx0.halt = .clear ∧
    (let r := raiseRec {} epi .chalt 0 0
     let s1 := (st epi).raiseHalt 0 r
     ((s1.ctx? 0).any (fun x => match x.halt with | .raised _ rs => decide (rs = [r]) | _ => false) &&
      ((s1.raiseHalt 0 r).ctx? 0).any (fun x => match x.halt with | .raised _ rs => decide (rs = [r, r]) | _ => false) &&
      decide (((st epi {} { ctx0 with halt := .halted }).raiseHalt 0 r).ctx? 0 = some { ctx0 with halt := .halted }))) = true := by
  decide +kernel

/-- `trap 41`, a word that is no instruction, and `retx` to 128 and to the misaligned 130 (R83, R208, R364). -/
theorem test_TrapWords :
    decode 0x0D000000 = none ∧ packetCheck epi 64 none (formWords none [0x0D000000]) = some (.illegal, 0) ∧
    (may (.trap 41) (st epi) (hr epi) && decide ((st epi).here = some (hr epi)) &&
     gives (exec (.trap 41) (st epi)) (fun t => (warpOf t).xcause = 24 && (warpOf t).xinfo = 41 * 256 + 4) &&
     gives (exec (.unassignedEncoding 0x0D000000) (st epi)) (fun t => (warpOf t).xcause = 1) &&
     [128, 130].all (fun a => may .retx (st { sup epi with xpc := a }) (hr { sup epi with xpc := a })) && canonical 128 &&
     took .retx (st { sup epi with xpc := 128, xcause := 0x20009 })
       ((st { sup epi with xpc := 128, xcause := 0x20009 }).setCur (fun w => { w with level := .user, pc := 128, skipWatch := true, xcause := 9 })) &&
     gives (exec .retx (st { sup epi with xpc := 130 })) (fun t => (warpOf t).preHeld) &&
     may .retx (st { sup epi with xpc := 2 ^ 60 }) (hr { sup epi with xpc := 2 ^ 60 }) && !canonical (2 ^ 60) &&
     gives (exec .retx (st { sup epi with xpc := 2 ^ 60 })) (fun t => (t.ctx? 0).any (fun x => match x.halt with
       | .raised _ rs => rs.all (fun r => r.cause = 11) | _ => false))) = true := by decide +kernel

/-- R83: a copy warp's `vadd`, `retx` at user level, k60 under a budget of 16 registers, and a word with none of these. -/
theorem test_RightsChecked :
    wf (.vadd 1 4 4 4) = true ∧ mayUse cpy.role (group (.vadd 1 4 4 4)) = false ∧ decodeCheck (.vadd 1 4 4 4) none cpy = some (2, .role) ∧
    mayUse epi.role (group .retx) = true ∧ privileged .retx = true ∧ decodeCheck .retx none epi = some (3, .priv) ∧
    (reads none (.uadd 60 1 2) ++ writes (.uadd 60 1 2)).any ({ epi with kbud := 0 } : Warp).lacks = true ∧
    decodeCheck (.uadd 60 1 2) none { epi with kbud := 0 } = some (6, .regrange) ∧ decodeCheck (.uadd 60 1 2) none epi = none ∧
    mayUse epi.role (group (.uadd 60 1 2)) = true ∧ privileged (.uadd 60 1 2) = false ∧
    encode (.vadd 1 4 4 4) ≠ none ∧ Claims.rights .copy 0x20 (.vadd 1 4 4 4) = false ∧ Claims.system 0x7C .retx = true ∧
    Claims.placed (.bralw 1 2) none = false ∧ decodeCheck (.bralw 1 2) none cpy = some (1, .illegal) ∧
    Claims.placed (.evset 0 63) (some 300) = false ∧ Claims.placed (.uadd 1 2 0) (some 300) = true ∧
    (Claims.special (.usr 1 0x010)).any (fun x => x.1 == 0x010) = true ∧ decodeCheck (.usr 1 0x010) none mat = some (1, .illegal) ∧
    Claims.supervisor (.usr 1 0x020) = true ∧ decodeCheck (.usr 1 0x020) none (sup epi) = none ∧
    decodeCheck (.usr 1 0x020) none epi = some (3, .priv) ∧ decodeCheck (.uws 1 0x028) none epi = some (3, .priv) := by decide +kernel

/-! ## Vector words: v1 is 3 and 9, v2 is 4 and 2 in lanes 0 and 1 -/

/-- A vector word may run, and gives lanes 0 and 1 of v5 these values, leaving lane 2 and v1 alone. -/
def vec (w : Warp) (i : Instr) (x y : BitVec 32) : Bool :=
  may i (st w) (hr w) && gives (exec i (st w)) (fun t => decide (t.iss.result = .done) &&
    decide ((warpOf t).vreg 5 0 = x ∧ (warpOf t).vreg 5 1 = y ∧ (warpOf t).vreg 5 2 = 0 ∧ (warpOf t).vreg 1 0 = 3))

/-- A word of each integer row (R231 to R233); the immediates are -1 (0xFF) and 1 (0xC1). -/
theorem test_VectorInteger_rows :
    ([(Instr.vadd 1 5 1 2, 7, 11), (.vsub 1 5 1 2, -1, 7), (.vmul 1 5 1 2, 12, 18), (.vmulh 1 5 1 0xFF, 2, 8), (.vmad 1 5 1 2, 12, 18),
      (.vadds 1 5 1 2, 7, 11), (.vsubs 1 5 1 2, -1, 7), (.vand 1 5 1 2, 0, 0), (.vor 1 5 1 2, 7, 11), (.vxor 1 5 1 2, 7, 11),
      (.vshl 1 5 1 2, 48, 36), (.vshr 1 5 1 2, 0, 2), (.vsar 1 5 0xFF 2, -1, -1), (.vfsh 1 5 1 2, 4, 2), (.vmin 1 5 1 2, 3, 2),
      (.vmax 1 5 1 2, 4, 9), (.vminu 1 5 1 2, 3, 2), (.vmaxu 1 5 1 2, 4, 9), (.vsel 1 5 1 2, 4, 2), (.vabs 1 5 0xFF, 1, 1),
      (.vmov 1 5 1, 3, 9), (.vpm 1 5 1, -1, 0), (.vcbx 1 5 1 0xC0, 0, 0)].all (fun (r : Instr × BitVec 32 × BitVec 32) =>
        vec epi r.1 r.2.1 r.2.2 && (Claims.intRow (hr epi) r.1).isSome)) = true := by decide +kernel

/-- `vbfe` of bits 1 and 0 of v1 (a field of 2 bits at 0 by k5 = 0x200), `vbfi`, `vbrev`, `vclz`, `vcnt` (R232, R233). -/
theorem test_VectorInteger_bits :
    (let w : Warp := { epi with k := [(5, 0x200)] }
     vec w (.vbfe 1 5 1 0x85) 3 1 && vec w (.vbfi 1 5 1 0x85) 3 1 && vec w (.vbrev 1 5 1) 0xC0000000 0x90000000 &&
     vec w (.vclz 1 5 1) 30 28 && vec w (.vcnt 1 5 1) 2 2) = true := by decide +kernel

/-- `vcmp lt p2, v1, v2`, `vmp p2, v1`, `vfcmp`; lane 0 is 3 < 4, lane 1 is 9 > 2 (R234, R237). -/
theorem test_Predicates :
    (may (.vcmp 2 2 1 2) (st epi) (hr epi) && may (.vmp 2 1) (st epi) (hr epi) && may (.vfcmp 2 2 1 2) (st epi) (hr epi) &&
     took (.vcmp 2 2 1 2) (st epi) ((st epi).setCur (fun w => w.setP 2 1)) &&
     took (.vmp 2 1) (st epi) ((st epi).setCur (fun w => w.setP 2 3))) = true := by decide +kernel

/-- What a comparison finds: 1.0 is not below -2.0, the zeros are equal, and a NaN is unordered, with NV for LT (R100). -/
theorem test_Predicates_compare :
    Claims.notNumber fp32 0x3F800000 = false ∧ Claims.notNumber fp32 0x7FA00000 = true ∧ Claims.signals fp32 0x7FA00000 = true ∧
    fp32.compare 2 0x3F800000 0xC0000000 = (false, 0) ∧ fp32.compare 0 0x80000000 0 = (true, 0) ∧
    fp32.compare 2 0x7FC00000 0 = (false, 16) ∧ fp32.compare 6 0x7FC00000 0 = (true, 0) := by decide +kernel

/-- Numbers (R98 to R100, R104): finite ones of either sign, an infinity, a NaN; 1.0 + 2^-24 rounds to even, with NX; 65,536 overflows
FP16, and 448.0 is the greatest E4M3. -/
theorem test_VectorFloat_numbers :
    Claims.finite fp32 0xC0000000 = true ∧ Claims.negative fp32 0xC0000000 = true ∧ Claims.infinite fp32 0x7F800000 = true ∧
    Claims.notNumber fp32 0x7FC00000 = true ∧ Claims.units fp32 0x80000000 = 0 ∧ Claims.units fp32 1 = 1 ∧
    fp32.add .rne 0x3F800000 0x33800000 = (0x3F800000, 1) ∧ fp32.add .rup 0x3F800000 0x33800000 = (0x3F800001, 1) ∧
    fp32.fma .rne 0x3F800000 0x3F800000 0xBF800000 = (0, 0) ∧ fp32.mul .rne 0x7F800000 0 = (0x7FC00000, 16) ∧
    convert 0x00 .rne 0x47800000 = (0x7C00, 5) ∧ convert 0x04 .rne 0x43E00000 = (0x7E, 0) ∧ convert 0x0A .rne 0x4F000000 = (0x7FFFFFFF, 16) ∧
    (convert 0x0B .rne 3).1 = 0x40400000 ∧ fp32.pick true 0x7FC00000 0x3F800000 = (0x3F800000, 0) := by decide +kernel

/-- A warp with 1.0 and -2.0 in v1, 0.5 and infinity in v2. -/
def fepi : Warp := { epi with v := [(32, 0x3F800000), (33, 0xC0000000), (64, 0x3F000000), (65, 0x7F800000)] }

/-- A word of each floating row may run; the sum and product are those of IEEE 754 (R235). -/
theorem test_VectorFloat_rows :
    ([Instr.vfadd 1 5 1 2, .vfsub 1 5 1 2, .vfmul 1 5 1 2, .vfma 1 5 1 2, .vfmin 1 5 1 2, .vfmax 1 5 1 2, .vfrcp 1 5 1, .vfrsq 1 5 1,
      .vfsqrt 1 5 1, .vfexp2 1 5 1, .vflog2 1 5 1, .vfsin 1 5 1, .vfcos 1 5 1, .vfcvt 1 5 1 4 0, .vhfma2 1 5 1 2].all (fun i =>
        may i (st fepi) (hr fepi) && (Claims.floatRow (hr fepi) i).isSome) && may (.vfma2 1 4 2 0xC1) (st fepi) (hr fepi) &&
     gives (exec (.vfadd 1 5 1 2) (st fepi)) (fun t => decide ((warpOf t).vreg 5 0 = 0x3FC00000 ∧ (warpOf t).vreg 5 1 = 0x7F800000)) &&
     gives (exec (.vfmul 1 5 1 2) (st fepi)) (fun t => decide ((warpOf t).vreg 5 0 = 0x3F000000 ∧ (warpOf t).vreg 5 1 = 0xFF800000)) &&
     gives (exec (.vfma2 1 4 2 0xC1) (st fepi)) (fun t => decide ((warpOf t).vreg 4 0 = 0x3F000000 ∧ (warpOf t).vreg 5 1 = 0))) = true := by
  decide +kernel

/-- `vcbld v1`: entry 0 takes the low half of lane 0, and entry 2 stays; `vcbq` may run (R240, R241). -/
theorem test_Codebook :
    (may (.vcbld 1) (st epi) (hr epi) && may (.vcbq 1 5 1 0xC0) (st epi) (hr epi) &&
     gives (exec (.vcbld 1) (st { epi with codebook := [(2, 7)] })) (fun t => decide ((warpOf t).codebook = [(0, 3), (1, 9), (2, 7)]))) = true := by
  decide +kernel

/-- A word of each cross-lane row: v1 is 3 and 9; p1 names lane 0 (R242 to R245). -/
theorem test_CrossLane :
    ([(Instr.vshflIdx 1 5 1 0xC1, 9, 9), (.vshflUp 1 5 1 0xC1, 3, 3), (.vshflDown 1 5 1 0xC1, 9, 0), (.vshflXor 1 5 1 0xC1, 9, 3),
      (.vvoteAny 1 5 1, 1, 1), (.vvoteAll 1 5 1, 0, 0), (.vvoteBallot 1 5 1, 1, 1), (.vbcast 1 5 1 0xC1, 9, 9), (.vmatch 1 5 1, 1, 2),
      (.vred 1 5 1 0, 12, 12), (.vscan 1 5 1 0, 3, 12), (.vred 1 5 1 9, 11, 11)].all (fun (r : Instr × BitVec 32 × BitVec 32) =>
        vec epi r.1 r.2.1 r.2.2) &&
     (Claims.shuffleRow (.vshflUp 1 5 1 0xC1)).isSome && (Claims.voteRow (.vvoteAll 1 5 1)).isSome) = true ∧
    epi.exec.getLsbD 0 = true ∧ epi.exec ≠ 0 := by decide +kernel

/-! ## Lane memory -/

/-- A valid view of global memory at 0 with 1,000 elements that bypasses the L1, with a given CLAMP; and one of the window. -/
def view0 (clamp : Nat) : BitVec 320 := BitVec.ofNat 320 (2 ^ 319 + 1000 * 2 ^ 192 + 2 * 2 ^ 312 + clamp * 2 ^ 308)
def viewS : BitVec 320 := BitVec.ofNat 320 (2 ^ 319 + 2 ^ 317 + 100 * 2 ^ 192)

/-- A pack with a window of 256 bytes and those views: 0 to 2 by CLAMP, 3 of the window, 4 not valid. -/
def viewPack : Pack :=
  { pkt := BitVec.ofNat 2048 (2 ^ (8 * 0x08 + 17)), views := [view0 0, view0 1, view0 2, viewS, 0] }

/-- A valid leaf of frame 0 with given W, X and KIND. -/
def leafOf (w x kind : Nat) : BitVec 64 := BitVec.ofNat 64 (2 ^ 63 + w * 2 ^ 62 + x * 2 ^ 61 + kind * 2 ^ 59 + 2 ^ 56)

/-- A leaf of a page at peer `p`, and a page of the stripe set of peers 3 and 4; the context's mask at 0 admits peer 3. -/
def leafPeerOf (p : Nat) : BitVec 64 := leafOf 1 0 1 + BitVec.ofNat 64 p
def striped : TlbEntry := { page0 with base := 65536, leaf := leafOf 1 0 2, stripe := [3, 4] }

/-- The page `t`, with its stripe set, is that of `va`, whose translation `p` describes. -/
def through (s : State) (t : TlbEntry) (use : Use) (va : Nat) (p : Res Place → Bool) : Bool :=
  let x : Context := { ctx0 with tlb := [t, page0] }
  okIs (s.page x va) t && okIs (if leafKind t.leaf = 2 then s.stripeSet x t va else .ok []) t.stripe && p ((s.translate x use va).map (fun r => r.2))

theorem test_Translation :
    (let s := { State.reset with dram := [(0, 8)], peers := [(3, { entry := peerEntry true 2 9 2 15 0 1 true, allow := 4 : Peer })] }
     let a := 65664
     let run (e : BitVec 64) (use : Use) := through s { page0 with base := 65536, leaf := e } use a
     run (leafOf 0 1 0) .store (fun r => raisesAt r .prot a) && run (leafOf 1 0 0) .fetch (fun r => raisesAt r .prot a) &&
     run (leafOf 1 1 3) .atomic (fun r => raisesAt r .prot a) && run (leafOf 1 1 0) .store (fun r => okIs r (.dram 128)) &&
     run (leafOf 1 1 3) .load (fun r => okIs r (.host 128)) && run (leafPeerOf 3) .load (fun r => okIs r (.peer 3 a)) &&
     run (leafPeerOf 4) .load (fun r => raisesAt r .fabric a) && through s striped .store a (fun r => okIs r (.peer 3 a)) &&
     through s striped .store (a + 256) (fun r => raisesAt r .fabric (a + 256))) = true := by
  decide +kernel

/-- LaneAddress: an access that a range lock covers; element 32 of 4 bytes of each view, element -1 and element 1,000, and a misaligned base. -/
theorem test_LaneAddress_locked :
    (let l : State := (st epi viewPack).modCore 0 (fun k => { k with
       locks := [(0, some { dest := true, glob := true, ctx := 0, pack := 2, tag := 1, lo := 130, hi := 200 })] })
     decide (l.spaceLock (hr epi viewPack) 0 false 128 4 = some 130) &&
     (match l.laneAccess (hr epi viewPack) (view0 0) 4 .load 1 32 with
      | .error (3, e) => raisesAt (.error e : Res Nat) .lockhit 130
      | _ => false)) = true := by decide +kernel

theorem test_LaneAddress :
    viewSpace (view0 0) = 0 ∧ viewConv (view0 0) = false ∧ viewSfmt (view0 0) = 0 ∧ viewStride (view0 0) = 0 ∧ viewZp (view0 0) = false ∧
    viewExtent (view0 0) = 1000 ∧ [0, 1, 2].map (fun c => viewClamp (view0 c)) = [0, 1, 2] ∧
    (st epi viewPack).spaceLock (hr epi viewPack) 0 false 128 4 = none ∧
    (okHas ((st epi viewPack).laneAccess (hr epi viewPack) (view0 0) 4 .load 1 32) (fun r => r.any (fun a => decide (a.1.va = 128 ∧ a.1.lane = 1))) &&
     okHas ((st epi viewPack).laneAccess (hr epi viewPack) (view0 1) 4 .load 1 (-1)) (fun r => r.any (fun a => decide (a.1.va = 0))) &&
     okHas ((st epi viewPack).laneAccess (hr epi viewPack) (view0 1) 4 .load 1 1000) (fun r => r.any (fun a => decide (a.1.va = 3996))) &&
     okHas ((st epi viewPack).laneAccess (hr epi viewPack) (view0 2) 4 .load 1 1000) (fun r => r.isNone) &&
     !okHas ((st epi viewPack).laneAccess (hr epi viewPack) (view0 0) 4 .load 1 1000) (fun _ => true) &&
     !okHas ((st epi viewPack).laneAccess (hr epi viewPack) (view0 0 + 2) 4 .load 1 0) (fun _ => true)) = true := by decide +kernel

/-- The offsets are the lanes' numbers: code 0x78 (R63). -/
def laneOff : BitVec 8 := 0x78

theorem test_LaneLoads :
    ([Instr.vld 0 4 laneOff 0 2, .vld 1 4 laneOff 0 2, .sld 0 4 laneOff 3 2].all (fun i =>
        may i (st epi viewPack) (hr epi viewPack) && (Claims.loadRow i).isSome &&
        gives (exec i (st epi viewPack)) (fun t => t.iss.result = .done && (warpOf t).flight.length = 1)) &&
     okHas ((hr epi viewPack).view 0 false false 4) (fun v => okHas ((st epi viewPack).gather (hr epi viewPack) v 4 .load laneOff [0, 1])
       (fun r => decide (r.1.map (fun a => a.va) = [0, 4]) && okHas (watchGlobal (hr epi viewPack) v (r.1.flatMap (accTouches v true false))) (fun _ => true) &&
         decide (CanFly (st epi viewPack) (hr epi viewPack) .laneLd))) &&
     okHas ((hr epi viewPack).view 3 true false 4) (fun _ => true) &&
     [Instr.vprf laneOff 0 0, .vprf laneOff 0 1, .vprf laneOff 3 0, .vprf laneOff 4 0].all (fun i => may i (st epi viewPack) (hr epi viewPack)) &&
     viewOk (view0 0) && !viewOk (viewPack.views.getD 4 0)) = true ∧ viewSpace viewS ≠ 0 ∧ epi.counter .laneLd < 255 := by decide +kernel

/-- The conditions of a store and of an atomic, over the two lanes' accesses to page 0. -/
theorem test_LaneStores_conditions :
    (let s := st epi viewPack
     let h := hr epi viewPack
     let v := view0 0
     !s.iss.pre.groupsBusy v [] && !h.staleStore && okIs (s.charge []) s &&
     okHas (s.gather h v 4 .store laneOff [0, 1]) (fun r => decide (r.1.length = 2) && !s.iss.pre.groupsBusy v r.1 &&
       okHas (s.laneBytes h v 4 1 (fun _ => 2 ^ 32 - 1) (viaAt r.2.2) r.1) (fun b => decide (peerUnits (b.1.map (fun c => (c.place, c.va))) = []) &&
         decide (b.2 = []) && decide (CanFly s h .laneSt)) &&
       okHas (watchGlobal h v (r.1.flatMap (accTouches v false true))) (fun _ => true)) &&
     okHas (s.gather h v 4 .atomic laneOff [0, 1]) (fun r => decide (peerUnits (r.1.flatMap (fun a => (upTo a.len).map (fun i =>
       (a.place.plus i, a.va + i)))) = []) && decide (CanFly s h .laneLd)) &&
     [4, 8].all (fun z => okHas (s.gather h v z .atomic laneOff [0, 1]) (fun _ =>
       decide (CanFly s h .laneLd)))) = true := by
  decide +kernel

theorem test_LaneStores :
    ([Instr.vst 0 1 laneOff 0 2, .vst 1 1 laneOff 0 2, .vstm 0 1 laneOff 0 2, .sst 0 1 laneOff 3 2].all (fun i =>
        may i (st epi viewPack) (hr epi viewPack) && (Claims.storeRow i).isSome &&
        gives (exec i (st epi viewPack)) (fun t => t.iss.result = .done && (warpOf t).flight.length = 1)) &&
     gives (exec (.vst 0 1 laneOff 0 2) (st epi viewPack)) (fun t => (warpOf t).sideEff = 3 && (warpOf t).flight.any (fun f =>
       match f.kind with | .store bs _ _ _ => decide (bs.map (fun b => (b.va, b.val)) = [(0, 3), (1, 0), (2, 0), (3, 0), (4, 9), (5, 0), (6, 0), (7, 0)]) | _ => false)) &&
     okHas ((hr epi viewPack).view 0 false true 4) (fun _ => true) &&
     okHas ((st epi viewPack).laneBytes (hr epi viewPack) (view0 0) 4 1 (fun _ => 15) (fun _ => 0)
       [{ lane := 0, va := 8, place := .dram 8, len := 4, pos := 2, scales := [], zeros := [] }]) (fun r => decide (r.1 =
         storeBytes (view0 0) 0 4 15 3 [] [] { lane := 0, va := 8, place := .dram 8, len := 4, pos := 2, scales := [], zeros := [] }))) = true := by
  decide +kernel

theorem test_LaneAtomics :
    ([Instr.vatom 0 1 laneOff 0 0, .vatom 1 1 laneOff 0 6, .satom 0 1 laneOff 3 0, .vcas 0 4 laneOff 0 0, .vcas 1 4 laneOff 0 1].all (fun i =>
        may i (st epi viewPack) (hr epi viewPack) &&
        gives (exec i (st epi viewPack)) (fun t => t.iss.result = .done && (warpOf t).flight.length = 1 && (warpOf t).sideEff = 3)) &&
     (Claims.atomicRow (.satom 0 1 laneOff 3 0)).isSome &&
     okHas ((hr epi viewPack).view 0 false true 8) (fun v => okHas ((st epi viewPack).gather (hr epi viewPack) v 8 .atomic laneOff [0, 1]) (fun r =>
       okHas (watchGlobal (hr epi viewPack) v (r.1.flatMap (accTouches v true true))) (fun _ => true)))) = true ∧
    atomicNew 0 32 0xFFFFFFFF 2 = 1 ∧ atomicNew 1 32 0xFFFFFFFF 2 = 0xFFFFFFFF ∧ atomicNew 2 32 0xFFFFFFFF 2 = 2 := by decide +kernel


/-- `trd` and `twr` of 32-bit words on a tile that holds nothing and that no command names (R254). -/
theorem test_TileWords :
    (let p : Pack := { tiles := [3, 4] }
     okIs ((st epi p).tileOf (hr epi p).pack 1) (4, {}) && decide ((st epi p).tileCmds (hr epi p).pack 1 = []) &&
     okIs (tileLanes (hr epi p) 1 2 laneOff false) [(0, 0), (1, 1)] && may (.trd 4 laneOff 1 2) (st epi p) (hr epi p) &&
     may (.twr 1 laneOff 1 2) (st epi p) (hr epi p) &&
     gives (exec (.trd 4 laneOff 1 2) (st epi p)) (fun t => decide ((warpOf t).flight.map (fun f => f.kind) = [.tileLoad [(128, 0), (129, 0)] []])) &&
     gives (exec (.twr 1 laneOff 1 2) (st epi p)) (fun t => decide (((t.core 0).tiles.getD 4 {}).state =
       { kind := 1, tset := false, t := 0, words := [(0, 3), (1, 9)], poison := [] }))) = true := by decide +kernel

/-- A narrow size is refused on a tile whose KIND is 2, and performed on one of FP32; a KIND 0 tile becomes KIND 1. -/
theorem test_TileWords_refused :
    (let p : Pack := { tiles := [3, 4] }
     let s (k : BitVec 2) : State := (st epi p).setTile 0 4 { owner := some (1, 1), state := { kind := k, words := [(0, 0x3F800000)] } }
     okHas ((s 2).tileOf (hr epi p).pack 1) (fun t => ((s 2).futureTile (hr epi p).pack 1 t.2).kind = 2) &&
     okHas ((s 1).tileOf (hr epi p).pack 1) (fun t => ((s 1).futureTile (hr epi p).pack 1 t.2).kind = 1) &&
     [Instr.trd 4 laneOff 1 1, .twr 1 laneOff 1 1].all (fun i => may i (s 2) (hr epi p) && gives (exec i (s 2)) (fun t => (warpOf t).xcause = 18)) &&
     okIs (tileLanes (hr epi p) 1 1 0xC0 false) [(0, 0), (1, 0)] && may (.trd 4 0xC0 1 1) (s 1) (hr epi p) &&
     gives (exec (.trd 4 0xC0 1 1) (s 1)) (fun t => decide ((warpOf t).flight.map (fun f => f.kind) = [.tileLoad [(128, 0x3F80), (129, 0x3F80)] []]))) = true := by
  decide +kernel

/-! ## Fences, barriers, leashes -/

/-- A warp with a load, and one with a store, that has not been performed. -/
def loading : Warp := { epi with flight := [flying 0 .laneLd (.load 9 4 0 [] [])] }
def stores : Warp := { epi with flight := [flying 0 .laneSt (.store [] 0 4 [])] }

theorem test_Fences :
    ([(1, 3, loading, true), (1, 3, epi, false), (0, 3, stores, true), (0, 3, epi, false), (0, 0, epi, false), (2, 3, epi, false), (3, 3, epi, false)].all
      (fun (r : BitVec 3 × BitVec 3 × Warp × Bool) => may (.fence r.1 r.2.1) (st r.2.2.1) (hr r.2.2.1) &&
        gives (exec (.fence r.1 r.2.1) (st r.2.2.1)) (fun t => decide (t.iss.result = if r.2.2.2 then .held else .done)))) = true := by
  decide +kernel

/-- A barrier of four participants that expects two arrivals, with one made. -/
def bar : Barrier := { parts := 4, expect := 2, arrived := 1, arrmask := 2, phase := 5 }
def barPack (b : Barrier) : Pack := { bars := [b] }

theorem test_Barriers :
    (decide ((st epi (barPack bar)).barrier? (hr epi (barPack bar)).pack 0 = some bar) && decide (participantOf (hr epi (barPack bar)).pack epi 0 = 9) &&
     decide (bar.arrive 1 false = none) && decide ({ bar with closed := true }.arrive 9 false = none) && decide ({ bar with gone := 512 }.arrive 9 false = none) &&
     decide (bar.arrive 9 false = some { bar with phase := 6, arrived := 0, arrmask := 0 }) &&
     decide (bar.arrive 9 true = some { bar with phase := 6, arrived := 0, arrmask := 0, expect := 1, gone := 512 }) &&
     decide ({ bar with expect := 3 }.arrive 9 true = some { bar with expect := 3, arrived := 2, arrmask := 514, gone := 512, nextdrop := 1 }) &&
     [Instr.bari 1 0, .barv 1 0, .bard 0, .barw 1 0, .bart 1 0].all (fun i => may i (st epi (barPack bar)) (hr epi (barPack bar))) &&
     may (.barv 1 0) (st stores (barPack bar)) (hr stores (barPack bar)) && stores.outstanding && !epi.outstanding) = true ∧
    (gives (exec (.bari 1 0) (st epi (barPack bar))) (fun t => (warpOf t).xcause = 15) &&
     gives (exec (.bari 1 0) (st { epi with k := [(1, 3)] } (barPack { bar with arrived := 0 }))) (fun t => t.packs.all (fun p => p.bars.all (fun b => b.expect == 3))) &&
     gives (exec (.barv 1 0) (st epi (barPack bar))) (fun t => (warpOf t).kreg 1 = 5 && t.packs.all (fun p => p.bars.all (fun b => b.phase == 6))) &&
     gives (exec (.barw 1 0) (st epi (barPack { bar with phase := 6 }))) (fun t => t.iss.result = .done) &&
     gives (exec (.barw 1 0) (st epi (barPack bar))) (fun t => decide ((warpOf t).block.map (fun b => b.why) = some (.barw 0 5))) &&
     gives (exec (.bart 1 0) (st epi (barPack bar))) (fun t => t.packs.all (fun p => p.bars.all (fun b => b.txb == 5))) &&
     gives (exec (.bart 1 0) (st epi (barPack { bar with closed := true }))) (fun t => (warpOf t).xcause = 15)) = true := by decide +kernel

/-- A pack with a leash of two slots at the top of its window, with `q` queued and `n` held handles; slot 0 holds 77. -/
def leashPack (q n : Nat) : Pack :=
  { pkt := BitVec.ofNat 2048 (2 ^ (8 * 0x08 + 17)), leashes := [{ base := 240, depth := 2, head := 0, queued := q, held := n }] }
def leashMem : State := { State.reset with cores := [(0, { scratch := [(240, 77)] })] }
def stL (w : Warp) (q n : Nat) : State := st w (leashPack q n) ctx0 leashMem

theorem test_Leashes :
    ([Instr.qpush 1 0, .qpop 9 0, .qpeek 9 1 0, .qrel 0].all (fun i => may i (stL epi 1 0) (hr epi (leashPack 1 0))) &&
     decide (waitersBefore (hr epi (leashPack 1 0)) (.qpush 0) = 0) && decide (waitersBefore (hr epi (leashPack 1 0)) (.qpop 0) = 0)) = true ∧
    (gives (exec (.qpush 1 0) (stL epi 1 0)) (fun t => decide ((t.core 0).scratch = [(240, 77), (248, 5)]) && t.packs.all (fun p => p.leashes.all (fun l => l.queued == 2))) &&
     gives (exec (.qpush 1 0) (stL epi 1 1)) (fun t => decide ((warpOf t).block.map (fun b => b.why) = some (.qpush 0))) &&
     gives (exec (.qpop 9 0) (stL epi 1 0)) (fun t => (warpOf t).kreg 9 = 77 && t.packs.all (fun p => p.leashes.all (fun l => l.queued == 0 && l.held == 1))) &&
     gives (exec (.qpop 9 0) (stL epi 0 1)) (fun t => decide ((warpOf t).block.map (fun b => b.why) = some (.qpop 0))) &&
     gives (exec (.qpeek 9 1 0) (stL epi 1 0)) (fun t => (warpOf t).kreg 9 = 77 && (warpOf t).c = 2) &&
     gives (exec (.qpeek 9 1 0) (stL epi 0 1)) (fun t => (warpOf t).kreg 9 = 0 && (warpOf t).c = 0) &&
     gives (exec (.qrel 0) (stL epi 0 1)) (fun t => t.packs.all (fun p => p.leashes.all (fun l => l.head == 1 && l.held == 0))) &&
     gives (exec (.qrel 0) (stL epi 1 0)) (fun t => (warpOf t).xcause = 16)) = true := by decide +kernel

/-! ## Futures, tasks, launches, events -/

/-- Cells of lanes 0 and 1 at 0 and 16, full with 9 and 8, or empty. -/
def cellMem (full : Bool) : State :=
  { State.reset with dram := if full then [(0, 9), (9, 0x80), (16, 8), (25, 0x80)] else [] }

theorem test_Futures :
    (may (.fget 4 laneOff 0) (st epi viewPack ctx0 (cellMem true)) (hr epi viewPack) && may (.fput 4 laneOff 0) (st epi viewPack) (hr epi viewPack) &&
     okHas ((hr epi viewPack).view 0 false true 16) (fun v =>
       okHas ((st epi viewPack ctx0 (cellMem true)).cells (hr epi viewPack) v .atomic laneOff) (fun r =>
         r.1.all (fun a => cellFull ((st epi viewPack ctx0 (cellMem true)).cellBytes a)) && decide (r.1.length = 2) &&
         okHas (watchCheck (hr epi viewPack) (r.1.flatMap (accTouches v true false))) (fun _ => true) &&
         !(st epi viewPack ctx0 (cellMem true)).cellsBusy (hr epi viewPack) r.1)) &&
     gives (exec (.fget 4 laneOff 0) (st epi viewPack ctx0 (cellMem true))) (fun t => decide ((warpOf t).vreg 4 0 = 9 ∧ (warpOf t).vreg 4 1 = 8)) &&
     gives (exec (.fget 4 laneOff 0) (st epi viewPack)) (fun t => (warpOf t).xcause = 17) &&
     gives (exec (.fput 4 laneOff 0) (st { epi with v := [(128, 6)] } viewPack)) (fun t => decide (t.dram = [(0, 6), (9, 0x80), (25, 0x80)]))) = true := by
  decide +kernel

/-- A wave whose lane 0 finds its cell full and lane 1 finds it empty: lane 1 leaves. `fput` to cells that nobody waits for, at 0 and
16; and while an access is outstanding (R38, R278). -/
theorem test_Futures_wave :
    (let p : Pack := { viewPack with wave := true, tasks := [{ id := 0, entry := 8, arg := 0, home := 0 }, { id := 1, entry := 8, arg := 0, home := 0 }] }
     let s := st epi p ctx0 { State.reset with dram := [(0, 9), (9, 0x80)] }
     may (.fget 4 laneOff 0) s (hr epi p) && okHas ((hr epi p).view 0 false true 16) (fun v =>
       okHas (s.cells (hr epi p) v .atomic laneOff) (fun r =>
         let empty := r.1.filter (fun a => !cellFull (s.cellBytes a))
         decide (empty.map (fun a => a.lane) = [1]) && okHas (watchCheck (hr epi p) (r.1.flatMap (accTouches v true false))) (fun _ => true) &&
         okHas (State.squashAll (hr epi p) empty ((s.detect (r.1.flatMap LaneAcc.places)).cachePages 0 r.2.2)) (fun _ => true)) &&
       okHas ((st epi viewPack).cells (hr epi viewPack) v .store laneOff) (fun r =>
         decide (r.1.map (fun a => a.place) = [.dram (16 * 0), .dram (16 * 1)]) && r.1.all (fun a => !cellWaiting ((st epi viewPack).cellBytes a)) &&
         okHas (watchCheck (hr epi viewPack) (r.1.flatMap (accTouches v false true))) (fun _ => true) &&
         r.1.all (fun a => okHas ((st epi viewPack).fill (hr epi viewPack) a 6) (fun _ => true)))) &&
     decide (epi.sideEff = 0) && decide ((epi.dropLanes 2).live ≠ 0) &&
     gives (exec (.fget 4 laneOff 0) s) (fun t => t.iss.result = .done && (warpOf t).live = 1 && (warpOf t).vreg 4 0 = 9) &&
     may (.fput 4 laneOff 0) (st stores viewPack) (hr stores viewPack) &&
     gives (exec (.fput 4 laneOff 0) (st stores viewPack)) (fun t => t.iss.result = .held)) = true := by
  decide +kernel

theorem test_Tasks_walks : Claims.walkable (st epi) ∧ Claims.walkable (st epi {} { ctx0 with deps := [(5, { count := 1 })] }) :=
  ⟨flat_walkable _ (by decide +kernel) (by decide +kernel), flat_walkable _ (by decide +kernel) (by decide +kernel)⟩

theorem test_Tasks_spawn :
    (let x : Context := { ctx0 with poolUsed := 1023 }
     [Instr.spawn 3 0, .spawn 1 0, .spawnDc 3 0 1].all (fun i => may i (st epi) (hr epi)) && may (.spawn 3 0) (st epi {} x) (hr epi {} x) &&
     decide (descTaskmax ctx0.desc = 1024) && canonical 8 &&
     gives (exec (.spawn 3 0) (st epi)) (fun t => (t.ctx? 0).any (fun x => x.poolUsed == 2 && x.kennels.any (fun k => k.key == 8 && k.tasks.length == 2))) &&
     gives (exec (.spawnDc 3 0 1) (st epi)) (fun t => (t.ctx? 0).any (fun x => x.poolUsed == 2)) &&
     may (.spawn 3 0) (st stores) (hr stores) && gives (exec (.spawn 3 0) (st stores)) (fun t => t.iss.result = .held) &&
     may (.spawn 4 0) (st { epi with k := [(4, 0x8000000000000000)] }) (hr { epi with k := [(4, 0x8000000000000000)] }) && !canonical 0x8000000000000000 &&
     gives (exec (.spawn 1 0) (st epi)) (fun t => (warpOf t).xcause = 9) &&
     gives (exec (.spawn 3 0) (st epi {} x)) (fun t => decide ((warpOf t).block.map (fun b => b.why) = some (.spawn 2)))) = true := by decide +kernel

def task : Task := { id := 0, entry := 8, arg := 0, home := 0 }

theorem test_Tasks_kennels :
    (let full : Context := { ctx0 with kennels := List.replicate 16 { cluster := 0, key := 12, tasks := [(0, task)] } }
     let one : Context := { ctx0 with kennels := [{ cluster := 0, key := 8, tasks := [(1, task)] }] }
     decide ((ctx0.enterKennel 3 task).map (fun x => x.kennels) = some [{ cluster := 0, key := 8, tasks := [(3, task)] }]) &&
     decide (full.enterKennel 3 task = none) &&
     decide ((one.enterKennel 3 task).map (fun x => x.kennels) = some [{ cluster := 0, key := 8, tasks := [(1, task), (3, task)] }])) = true := by decide +kernel

theorem test_Tasks_counters :
    (let x (n : BitVec 32) : Context := { ctx0 with deps := [(5, { count := n })] }
     may (.dcnew 1 2) (st epi) (hr epi) && may (.dcdec 1) (st epi) (hr epi) && may (.dcdec 1) (st stores) (hr stores) &&
     took (.dcnew 1 2) (st epi) ((st epi).modCtx 0 (fun x => x.setDep 5 { x.dep 5 with count := 7 })) &&
     gives (exec (.dcdec 1) (st epi)) (fun t => (t.ctx? 0).any (fun x => x.dcunder == 1)) &&
     gives (exec (.dcdec 1) (st stores)) (fun t => t.iss.result = .held) &&
     may (.dcnew 1 9) (st epi) (hr epi) && gives (exec (.dcnew 1 9) (st epi {} (x 4))) (fun t => (t.ctx? 0).any (fun x => (x.dep 5).count == 0)) &&
     may (.dcdec 1) (st epi {} (x 1)) (hr epi {} (x 1)) && gives (exec (.dcdec 1) (st epi {} (x 1))) (fun t => (t.ctx? 0).any (fun x => (x.dep 5).count == 0)) &&
     gives (exec (.dcdec 1) (st epi {} (x 3))) (fun t => (t.ctx? 0).any (fun x => (x.dep 5).count == 2))) = true := by decide +kernel

/-- A launch packet of one pack of one epilogue warp, `n` packs in its grid. -/
def onePkt (n : Nat) : BitVec 2048 := BitVec.ofNat 2048 (2 ^ 20 + 2 ^ (8 * 0x04 + 9) + n * 2 ^ (8 * 0x38) + 2 ^ (8 * 0x3C) + 2 ^ (8 * 0x3E))
def pktMem : State := { State.reset with dram := Memory.writeBytes [] 128 (leBytes 256 (onePkt 1).toNat) }

/-- A context with 4,096 launches of which no pack has been placed. -/
def busyCtx : Context := { ctx0 with launches := List.replicate 4096 { lseq := 1, pkt := onePkt 1 } }

theorem test_Tasks_launch_busy : Issues (.launch 4) (st epi {} busyCtx) (hr epi {} busyCtx) :=
  ⟨rfl, by decide +kernel, by decide +kernel, by decide +kernel, by decide +kernel, by decide +kernel, by decide +kernel⟩

theorem test_Tasks_launch :
    (let s := st epi {} ctx0 pktMem
     [st epi, s, st stores].all (fun s => match s.here with | some h => may (.launch 4) s h | none => false) && may (.launch 1) (st epi) (hr epi) &&
     okHas (s.launchBytes (hr epi) 128) (fun r => decide (recOf 2048 r.1 = onePkt 1)) && decide (pktStatus (onePkt 1) = 0) &&
     okHas ((st epi).launchBytes (hr epi) 128) (fun r => decide (pktStatus (recOf 2048 r.1) ≠ 0)) &&
     decide (4096 ≤ busyCtx.undispatched) && gives (exec (.launch 4) (st epi {} busyCtx)) (fun t => t.iss.result = .held) &&
     gives (exec (.launch 4) (st stores)) (fun t => t.iss.result = .held) &&
     gives (exec (.launch 4) s) (fun t => (t.ctx? 0).any (fun x => x.launches.map (fun l => (l.lseq, l.eligible)) = [(1, some 0)])) &&
     gives (exec (.launch 4) (st epi)) (fun t => (t.ctx? 0).any (fun x => x.lseq == 1 && x.launches.isEmpty)) &&
     gives (exec (.launch 1) (st epi)) (fun t => (warpOf t).xcause = 9)) = true := by decide +kernel

/-- EventWords: a wait that a later state no longer meets, but that one since the block did. -/
theorem test_EventWords_sticky :
    (let b (why : BlockWhy) : Warp := { epi with block := some { why := why, since := 0, sat := true } }
     [(Instr.evwait 2 0, BlockWhy.evwait 0 7), (.seqwait 1 4, .seqwait 5 128)].all (fun (r : Instr × BlockWhy) =>
       may r.1 (st (b r.2)) (hr (b r.2)) && gives (exec r.1 (st (b r.2))) (fun t => t.iss.result = .done)) &&
     [Instr.evset 1 0, .seqadd 1 2].all (fun i => may i (st stores) (hr stores) && gives (exec i (st stores)) (fun t => t.iss.result = .held))) = true := by
  decide +kernel

theorem test_EventWords :
    (let x : Context := { ctx0 with events := 0x5, seqs := [(5, 7)] }
     [Instr.evset 1 0, .evclr 1 0, .evwait 1 0, .evwait 2 0, .seqadd 1 2, .seqwait 1 2, .seqwait 1 4].all (fun i => may i (st epi {} x) (hr epi {} x)) &&
     gives (exec (.evset 1 1) (st epi {} x)) (fun t => (t.ctx? 0).any (fun x => x.events == 0x50000000000000005)) &&
     gives (exec (.evclr 1 0) (st epi {} x)) (fun t => (t.ctx? 0).any (fun x => x.events == 0)) &&
     gives (exec (.evwait 1 0) (st epi {} x)) (fun t => t.iss.result = .done) &&
     gives (exec (.evwait 2 0) (st epi {} x)) (fun t => decide ((warpOf t).block.map (fun b => b.why) = some (.evwait 0 7))) &&
     gives (exec (.seqadd 1 2) (st epi {} x)) (fun t => (t.ctx? 0).any (fun x => x.seq 5 == 14)) &&
     gives (exec (.seqwait 1 2) (st epi {} x)) (fun t => t.iss.result = .done) &&
     gives (exec (.seqwait 1 4) (st epi {} x)) (fun t => decide ((warpOf t).block.map (fun b => b.why) = some (.seqwait 5 128)))) = true := by decide +kernel

/-! ## Commands to the engines -/

/-- A pack whose window of 512 bytes holds a record at 0, on a machine where peer 3 is up and admitted by the context's mask at 0. -/
def winPack : Pack := { pkt := BitVec.ofNat 2048 (2 * 2 ^ (8 * 0x08 + 17)), tiles := [3, 4], fmt := List.replicate 16 none }
def peer3 : Peer := { entry := BitVec.ofNat 64 (2 ^ 63 + 2 * 2 ^ 61 + 2 ^ 5), allow := 4 }
def winMem (n x : Nat) : State :=
  { State.reset with dram := [(0, 8)], cores := [(0, { scratch := Memory.writeBytes [] 0 (leBytes n x) })], peers := [(3, peer3)] }

/-- A context with page 0, and page 1 at peer 3. -/
def peerCtx : Context :=
  { ctx0 with tlb := [page0, { base := 65536, size := 65536, leaf := BitVec.ofNat 64 (2 ^ 63 + 2 ^ 62 + 2 ^ 59 + 2 ^ 56 + 3) }] }

/-- The engines' warp: k1 is 0, the block; k5 names no target, k6 the counter 7, k7 a peer address, k8 a misaligned one. -/
def eng (r : Role) : Warp := { role := r, kbud := 3, pc := 64, exec := 1, live := 1,
                               k := [(2, 9), (6, 0xC000000000000007), (7, 65600), (8, 65601), (9, 3), (10, 128), (11, 4)] }
def stE (w : Warp) (n x : Nat) : State := st w winPack peerCtx (winMem n x)
def hrE (w : Warp) : Here := hr w winPack peerCtx

/-- A copy of 4 words from 0 to 1,024 (R292). -/
def copyDesc : Nat := 1024 * 2 ^ 64 + 2 ^ 27 * 2 ^ 128 + 4 * 2 ^ 256

theorem test_CopyWords :
    ([Instr.tcopy 1 2 5, .tcopy 1 2 6].all (fun i => may i (stE (eng .copy) 128 copyDesc) (hrE (eng .copy)) && (Claims.copyRow i).isSome) &&
     okHas ((stE (eng .copy) 128 copyDesc).block (hrE (eng .copy)) 0 128 64) (fun bs => decide (recOf 1024 bs = BitVec.ofNat 1024 copyDesc)) &&
     okHas (targetCheck (stE (eng .copy) 128 copyDesc) (hrE (eng .copy)) true 0) (fun _ => true) &&
     okIs ((stE (eng .copy) 128 copyDesc).copyCheck (hrE (eng .copy)) 0 (BitVec.ofNat 1024 copyDesc)) [] &&
     gives (exec (.tcopy 1 2 5) (stE (eng .copy) 128 copyDesc)) (fun t => t.iss.result = .done && (warpOf t).counter .copy = 1 &&
       (t.core 0).copies.length = 1 && (t.core 0).seq = 1) &&
     gives (exec (.tcopy 1 2 6) (stE (eng .copy) 128 copyDesc)) (fun t => t.iss.result = .done && (warpOf t).counter .copy = 0) &&
     gives (exec (.tcopy 1 2 5) (stE { eng .copy with flight := stores.flight } 128 copyDesc)) (fun t => t.iss.result = .held)) = true := by
  decide +kernel

/-- NCAS of the word at 2,048, its result at 128 (R301); a step with peer 3 of 16 words from 0 to 1,024 (R311). -/
def ncasBlock : Nat := 2 + 128 * 2 ^ 38 + 2048 * 2 ^ 64
def stepBlock : Nat := 1024 * 2 ^ 128 + (3 * 2 ^ 54 + 2 ^ 52 + 16) * 2 ^ 192 + (128 * 2 ^ 32 + 0xFFFF * 2 ^ 16 + 5) * 2 ^ 256

/-- A block of which the warp has written a byte waits for that write (R288); a write elsewhere does not hold it. -/
def wroteAt (off : Nat) : Warp :=
  { eng .copy with flight := [flying 0 .laneSt (.store [{ va := 0, via := 0, place := .scratch 0 off, mask := 255, val := 1 }] 0 4 [])] }

theorem test_block_waits :
    (gives (exec (.nmc 1 2 6) (stE (wroteAt 63) 64 ncasBlock)) (fun t => t.iss.result = .held) &&
     gives (exec (.nmc 1 2 6) (stE (wroteAt 143) 64 ncasBlock)) (fun t => t.iss.result = .held) &&
     gives (exec (.nmc 1 2 6) (stE (wroteAt 64) 64 ncasBlock)) (fun t => t.iss.result = .done)) = true := by decide +kernel

/-- A near-memory command of the pack, and a step of its warp with peer 3 and number `id`. -/
def ncasCmd : NmcCmd :=
  { tag := 0, core := 0, pack := 1, ctx := 0, warp := 0, pc := 0, block := BitVec.ofNat 512 ncasBlock, expr := 0, expected := [0], fence := 0,
    target := 0xC000000000000007, handle := 0, waits := [], left := [], bad := 0, phase := .running }
def stepOf (id : Nat) (phase : StepPhase) : CollStep :=
  { id := 0, tag := 0, die := 0, core := 0, pack := 1, ctx := 0, warp := 0, pc := 0, block := BitVec.ofNat 512 (stepBlock - 5 * 2 ^ 256 + id * 2 ^ 256),
    target := 0xC000000000000007, handle := 9, waits := [], phase := phase, before := phase, got := 0, bad := [] }

/-- `nmc` with 16 commands on its core, `cstep` with an access of the warp in flight, after a step that has not ended, and alone;
`cwait` for a step that has not ended (R301, R311 to R315). -/
theorem test_EngineWords_waits :
    (let full : State := (stE (eng .copy) 64 ncasBlock).modCore 0 (fun k => { k with nmcs := List.replicate 16 ncasCmd })
     let dirty : Warp := { eng .copy with flight := stores.flight }
     let s := stE (eng .copy) 64 stepBlock
     let h := hrE (eng .copy)
     let b := BitVec.ofNat 512 stepBlock
     let after4 := stepBlock - 0xFFFF * 2 ^ 272 + 4 * 2 ^ 272
     let s4 : State := { stE (eng .copy) 64 after4 with colls := [stepOf 4 .offered], flightSeq := 1 }
     may (.nmc 1 2 6) full (hrE (eng .copy)) && gives (exec (.nmc 1 2 6) full) (fun t => t.iss.result = .held) &&
     may (.cstep 1 2 6) (stE dirty 64 stepBlock) (hrE dirty) && gives (exec (.cstep 1 2 6) (stE dirty 64 stepBlock)) (fun t => t.iss.result = .held) &&
     okHas (s.lockRanges 0 0 1 0 (Claims.stepLocks b)) (fun s1 =>
       decide (h.warp.fenced 2 = []) && cbAfter b = 0xFFFF && !h.ctx.unitClosing 3 0 && okIs (s.collHome h.ctx b) .loc && !(s.peer 3).gone &&
       decide ((s.peer 3).entry.toNat / 2 ^ 5 % 2 = 1) && decide (s.offerFor (Claims.newStep s h b 2 6) = none) &&
       took (.cstep 1 2 6) s (Claims.withStep s1 0 [{ Claims.newStep s h b 2 6 with phase := .offered }])) &&
     may (.cstep 1 2 6) s4 (hrE (eng .copy)) && okHas (s4.lockRanges 0 0 1 0 (Claims.stepLocks (BitVec.ofNat 512 after4))) (fun s1 =>
       let s2 := Claims.withStep s1 0 (s4.colls ++ [Claims.newStep s4 h (BitVec.ofNat 512 after4) 2 6])
       s2.colls.all (fun d => (s2.collMove d).isNone) && took (.cstep 1 2 6) s4 s2) &&
     may (.cwait 2 3) { stE (eng .copy) 64 0 with colls := [stepOf 9 .offered] } (hrE (eng .copy)) &&
     gives (exec (.cwait 2 3) { stE (eng .copy) 64 0 with colls := [stepOf 9 .offered] }) (fun t => t.iss.result = .held)) = true := by
  decide +kernel

theorem test_EngineWords :
    (may (.nmc 1 2 6) (stE (eng .copy) 64 ncasBlock) (hrE (eng .copy)) &&
     okHas ((stE (eng .copy) 64 ncasBlock).block (hrE (eng .copy)) 0 64 64) (fun bs => !nmcBad (recOf 512 bs) 0) &&
     okHas (targetCheck (stE (eng .copy) 64 ncasBlock) (hrE (eng .copy)) false 0xC000000000000007) (fun _ => true) &&
     windowFree winPack 128 40 && okIs ((stE (eng .copy) 64 ncasBlock).windowWords (hrE (eng .copy)) 136 1) [0] &&
     gives (exec (.nmc 1 2 6) (stE (eng .copy) 64 ncasBlock)) (fun t => t.iss.result = .done && (t.core 0).nmcs.length = 1) &&
     may (.cstep 1 2 6) (stE (eng .copy) 64 stepBlock) (hrE (eng .copy)) &&
     !stepBad (BitVec.ofNat 512 stepBlock) && (stE (eng .copy) 64 stepBlock).peerUsable peerCtx 3 &&
     okHas ((stE (eng .copy) 64 stepBlock).lockRanges 0 0 1 0 [(true, false, 128, 136)]) (fun s1 => okHas s1.settleSteps (fun _ => true)) &&
     gives (exec (.cstep 1 2 6) (stE (eng .copy) 64 stepBlock)) (fun t => t.iss.result = .done && t.colls.any (fun c => c.phase = .offered)) &&
     may (.cwait 2 3) (stE (eng .copy) 64 0) (hrE (eng .copy)) &&
     gives (exec (.cwait 2 3) (stE (eng .copy) 64 0)) (fun t => (warpOf t).kreg 3 = -1) &&
     gives (exec (.cwait 2 3) { stE (eng .copy) 64 0 with collLog := [{ id := 4, peer := 3, met := true, ctx := 0, die := 0, pack := 1, warp := 0, step := 9, status := 2 }] })
       (fun t => (warpOf t).kreg 3 = 2) &&
     may (.cfence 3) (stE (eng .copy) 64 0) (hrE (eng .copy)) && took (.cfence 3) (stE (eng .copy) 64 0)
       ((stE (eng .copy) 64 0).setCur (fun w => { w with cfences := [(3, [])] }))) = true := by decide +kernel

/-- A release while a store must be translated again (R192); and what a `launch` asks of a peer (R280). -/
theorem test_RemoteWords_stale :
    (let w : Warp := { eng .copy with flight := stale.flight }
     let s := stE (eng .copy) 1 0
     may (.rst 2 7 1) (stE w 1 0) (hrE w) && (hrE w).staleStore && gives (exec (.rst 2 7 1) (stE w 1 0)) (fun t => t.iss.result = .held) &&
     decide (CanFly s (hrE (eng .copy)) .fab) &&
     may (.launch 7) s (hrE (eng .copy)) && (match s.launchBytes (hrE (eng .copy)) 65600 with
       | .error (.await va ps) => va == 65600 && ps.length == 256
       | _ => false) &&
     gives (exec (.launch 7) s) (fun t => t.iss.result = .held && t.requests.length = 3 && (warpOf t).launchRead.isSome)) = true := by
  decide +kernel

theorem test_RemoteWords :
    (let s := stE (eng .copy) 1 0
     let poor : State := { s with peers := [(3, { peer3 with allow := 0 })] }
     [Instr.rld 4 7 0, .rst 2 7 1, .ratom 4 7 2 0].all (fun i => may i s (hrE (eng .copy)) && (Claims.remoteRow (hrE (eng .copy)) i).isSome &&
       gives (exec i s) (fun t => t.iss.result = .done && (warpOf t).counter .fab = 1 && (t.peer 3).allow = 3) &&
       gives (exec i poor) (fun t => decide ((warpOf t).block.map (fun b => b.why) = some (.heel 3 1)))) &&
     okHas (s.translate peerCtx .load 65600) (fun r => decide (r.2 = .peer 3 65600)) && sendable peer3 (.warp 1 0) 1 &&
     okHas (s.translate peerCtx .load 128) (fun r => decide (r.2.peer? = none)) &&
     gives (exec (.rld 4 8 0) s) (fun t => (warpOf t).xcause = 9) && gives (exec (.rld 4 10 0) s) (fun t => (warpOf t).xcause = 12) &&
     may (.alw 4 9) s (hrE (eng .copy)) && may (.alw 4 11) s (hrE (eng .copy)) &&
     took (.alw 4 9) s (s.setCur (fun w => w.setK 4 4)) && gives (exec (.alw 4 11) s) (fun t => (warpOf t).xcause = 21) &&
     (let b : State := { s with iss := { s.iss with lit := some 10 } }
      may (.bralw 9 4) b { hrE (eng .copy) with lit := some 10 } && may (.bralw 11 4) b { hrE (eng .copy) with lit := some 10 } &&
      took (.bralw 9 4) b (b.setCur (fun w => { w with pc := 104 })) && took (.bralw 9 5) b (b.setCur (fun w => { w with pc := 68 })))) = true := by
  decide +kernel

/-! ## Matrix and system words -/

/-- The control of an `mtld` of 4 words of FP32 (R347), an `mloop` of one step and its formats (R330). -/
def moveCtl : BitVec 64 := BitVec.ofNat 64 (3 * 2 ^ 32 + 3 * 2 ^ 4)

theorem test_MatrixCommands :
    (let w : Warp := { eng .maths with k := [(3, moveCtl), (4, 1), (10, 0x0440000000002002), (11, 1)] }
     let s := stE w 1 0
     let h := hrE w
     [(Instr.mzero 1, MatOp.mzero), (.mtld 1 3 1, .mtld), (.mtst 1 3 1, .mtst), (.mtwid 4 1, .mtwid), (.mfft 10 1, .mfft)].all (fun r =>
        may r.1 s h && (match Claims.matRow h r.1 with
          | some (n, op, a, a1, b, b1, ctl, steps) => decide (op = r.2) &&
              okHas (s.tileOf h.pack n.toNat) (fun x => okHas (matCheck h.pack (s.futureTile h.pack n.toNat x.2) 0
                (Claims.matCommand s h n op a a1 b b1 ctl steps)) (fun _ => true)) &&
              gives (exec r.1 s) (fun t => t.iss.result = .done && (t.core 0).mats.length = 1 && (warpOf t).counter .math = 1)
          | none => false)) &&
     may (.mzero 5) s h && gives (exec (.mzero 5) s) (fun t => (warpOf t).xcause = 4) &&
     gives (exec (.mzero 1) (s.setTile 0 4 { owner := some (9, 0) })) (fun t => (warpOf t).xcause = 20) &&
     gives (exec (.mzero 1) (stE { w with flight := stores.flight } 1 0)) (fun t => t.iss.result = .held)) = true := by decide +kernel

/-- A format block of encoding 3 (R110). -/
def fmt8 : BitVec 128 := BitVec.ofNat 128 (3 * 2 ^ 96)

/-- `mloop` and `mstep` of one step, shape 0, K 32, both operands of encoding 3 by format 2, at 0 and 4,096 (R330). -/
theorem test_MatrixCommands_loop :
    (let p : Pack := { winPack with pkt := BitVec.ofNat 2048 (64 * 2 ^ (8 * 0x08 + 17) + 2 ^ 20), fmt := [none, none, some fmt8] }
     let w : Warp := { eng .maths with k := [(22, 4096), (24, BitVec.ofNat 64 (2 * 2 ^ 30 + 2 * 2 ^ 26))] }
     [Instr.mloop 20 22 24 1, .mstep 20 22 24 1].all (fun i => may i (st w p) (hr w p) &&
       gives (exec i (st w p)) (fun t => t.iss.result = .done && (t.core 0).mats.length = 1 && (warpOf t).mathSeq = 1))) = true := by
  decide +kernel

/-- `mfmt`, `madr`, `mcfg`, `mbatch`, `mwait`, `mest` (R326, R335, R340, R341, R343). -/
def cmd : MatCmd :=
  { tag := 0, core := 0, pack := 1, ctx := 0, warp := 0, pc := 0, op := .mzero, tile := 0, a := 0, a1 := 0, b := 0, b1 := 0, ctl := 0,
    fA := 0, fB := 0, ids := [], no := 1, steps := 1, stepsDone := 0, charge := 0, passed := 0, batch := none }
def withCmd (s : State) (c : MatCmd) : State := s.modCore 0 (fun k => { k with mats := [c] })

theorem test_MatrixControl :
    (let w := eng .maths
     let s := stE w 16 fmt8.toNat
     let h := hrE w
     [Instr.mfmt 1 2, .madr 10, .madr 9, .madr 7, .mcfg 1 2, .mcfg 2 2, .mbatch 4, .mwait 2, .mest 4].all (fun i => may i s h) &&
     okHas (s.block h 0 16 16) (fun bs => fmtBlockOk (pktWindow winPack.pkt) (recOf 128 bs)) &&
     took (.mfmt 1 2) s (s.modPack 1 (fun p => { p with fmt := p.fmt.set 9 (some fmt8) })) &&
     gives (exec (.mfmt 1 2) (stE w 16 (5 * fmt8.toNat))) (fun t => (warpOf t).xcause = 18) &&
     took (.madr 10) s (s.setCur (fun w => { w with adrv := 128 })) && gives (exec (.madr 9) s) (fun t => (warpOf t).xcause = 9) &&
     gives (exec (.madr 7) s) (fun t => (warpOf t).xcause = 10) && gives (exec (.mcfg 2 2) s) (fun t => (warpOf t).xcause = 18) &&
     gives (exec (.mcfg 1 2) (withCmd s cmd)) (fun t => t.iss.result = .held) && gives (exec (.mcfg 1 2) s) (fun t => t.iss.result = .done) &&
     gives (exec (.mbatch 4) (withCmd s cmd)) (fun t => (warpOf t).kreg 4 = 0 && (warpOf t).batch = 1 && (t.core 0).mats.all (fun c => c.batch = some 0)) &&
     took (.mwait 2) s (s.setCur id) && gives (exec (.mwait 2) (withCmd s { cmd with batch := some 9 })) (fun t => t.iss.result = .blocked) &&
     took (.mest 4) (stE { w with lastEst := 6 } 1 0) ((stE { w with lastEst := 6 } 1 0).setCur (fun w => w.setK 4 6))) = true := by decide +kernel

/-- A fifth command of a warp is held (R327); an `mwait` raises what its batch has left pending (R341). -/
theorem test_MatrixControl_pending :
    (let s := (stE (eng .maths) 1 0).modCore 0 (fun k => { k with mats := List.replicate 4 cmd })
     let w : Warp := { eng .maths with pending := [{ pend with onRelease := false, batchCmd := some 10 }, { pend with onRelease := false, batchCmd := some 3 }] }
     may (.mzero 1) s (hrE (eng .maths)) && (Claims.matRow (hrE (eng .maths)) (.mzero 1)).isSome && gives (exec (.mzero 1) s) (fun t => t.iss.result = .held) &&
     may (.mwait 2) (stE w 1 0) (hrE w) && okHas ((stE w 1 0).takeTrap 1 0 { w with pending := [] } .fabric 64 640 0 true) (fun _ => true) &&
     gives (exec (.mwait 2) (stE w 1 0)) (fun t => t.iss.result = .raised && (warpOf t).xcause = 65557 && (warpOf t).xaddr = 640)) = true := by
  decide +kernel

/-- `park`, `idle`, `sev`, `chalt` (R365 to R367). -/
theorem test_RestWords :
    (let u := sup epi
     let waits : Warp := { u with block := some { why := .idle, since := 0, sat := false } }
     let woken : Warp := { u with block := some { why := .idle, since := 0, sat := true } }
     let dirty : Warp := { u with flight := stores.flight }
     [Instr.park, .idle, .sev, .chalt].all (fun i => may i (st u) (hr u)) && may .idle (st woken) (hr woken) && may .sev (st dirty) (hr dirty) &&
     took .park (st u) (st u) && gives (exec .park (st u { preempt := some 3 })) (fun t => (warpOf t).preHeld) &&
     took .idle (st u { wake := true }) ((st u { wake := true }).modPack 1 (fun p => { p with wake := false })) &&
     took .idle (st woken) (st woken) && gives (exec .idle (st u)) (fun t => t.iss.result = .blocked) &&
     gives (exec .sev (st dirty)) (fun t => t.iss.result = .held) && gives (exec .sev (st u)) (fun t => t.packs.all (fun p => p.wake)) &&
     waits.idling && !u.idling && gives (exec .sev (st u { warps := [waits] })) (fun t => t.packs.all (fun p => !p.wake && p.warps.any (fun w => w.block.any (fun b => b.sat)))) &&
     gives (exec .chalt (st u)) (fun t => (warpOf t).preHeld && (t.ctx? 0).any (fun x => match x.halt with | .raised _ rs => rs.all (fun r => r.source = .chalt) | _ => false))) = true := by
  decide +kernel

/-- System registers, invalidation, watchpoints, tiles (R190, R191, R368 to R370, R372). -/
theorem test_SystemWords :
    (let u : Warp := { sup epi with k := [(1, 256), (2, 0x800), (3, 4), (9, 1)] }
     let dirty : Warp := { u with flight := stores.flight }
     let x : Context := { ctx0 with taskbad := 6, epoch := 3, ackEpoch := 3, waddr := [(2, 77)],
                                    faults := [{ fseq := 1, va := 0, cause := .xlate, engine := 5, tag := 4, core := 0 }] }
     let p : Pack := { tiles := [3, 4] }
     [(Instr.sysr 4 0x200, 0), (.sysr 4 0x202, 6), (.sysr 4 0x203, 0), (.sysr 4 0x204, 3), (.sysr 4 0x102, 77), (.sysr 4 0x112, 2), (.sysr 4 0x208, 0), (.sysr 4 6, 0)].all (fun (r : Instr × BitVec 64) =>
       may r.1 (st u p x) (hr u p x) && took r.1 (st u p x) ((st u p x).setCur (fun w => w.setK 4 r.2))) &&
     [Instr.sysw 1 0x202, .sysw 1 0x203, .sysw 9 0x209, .tlbinv 1 2, .wpset 1 2, .wpset 9 2, .tsave 9, .trest 9, .tsave 3, .trest 3].all (fun i =>
       may i (st u p x) (hr u p x)) && may (.tlbinv 1 2) (st dirty p x) (hr dirty p x) &&
     took (.sysw 1 0x202) (st u p x) ((st u p x).modCtx 0 (fun y => { y with taskbad := 256 })) &&
     may (.sysw 2 0x209) (st { u with k := [(2, 0x4000000000000001)] } p x) (hr { u with k := [(2, 0x4000000000000001)] } p x) &&
     gives (exec (.sysw 2 0x209) (st { u with k := [(2, 0x4000000000000001)] } p x)) (fun t => (t.ctx? 0).any (fun y => y.faults.isEmpty && y.halt != .clear)) &&
     gives (exec (.sysw 2 0x209) (st { u with k := [(2, 0x8000000000000001)] } p x)) (fun t => (t.ctx? 0).any (fun y => y.faults.length == 1)) &&
     okHas ((st u p x).answerRetry 0 1) (fun t => (t.ctx? 0).any (fun y => y.faults.isEmpty)) &&
     gives (exec (.tlbinv 1 2) (st u p x)) (fun t => (warpOf t).ackWait = some 4 && (t.ctx? 0).any (fun y => y.epoch == 4 && y.tlb.isEmpty)) &&
     gives (exec (.tlbinv 1 2) (st dirty p x)) (fun t => t.iss.result = .held) &&
     gives (exec (.wpset 1 2) (st u p x)) (fun t => (t.ctx? 0).any (fun y => Map.get 0 y.waddr 0 == 256 && Map.get 0 y.wctl 0 == 0x800)) &&
     gives (exec (.wpset 9 2) (st u p x)) (fun t => t.iss.result = .raised) &&
     took (.tsave 9) (st u p x) (st u p x) && gives (exec (.trest 9) (st u p x)) (fun t => ((t.core 0).tiles.getD 4 {}).owner = some (1, 1)) &&
     took (.trest 9) ((st u p x).setTile 0 4 { owner := some (1, 1) }) ((st u p x).setTile 0 4 { owner := some (1, 1) }) &&
     gives (exec (.tsave 3) (st u p x)) (fun t => t.iss.result = .raised) && gives (exec (.trest 3) (st u p x)) (fun t => t.iss.result = .raised)) = true := by
  decide +kernel

/-- A context with a park area of four slots at 2^23 and a page that covers it. -/
def parkCtx : Context :=
  { ctx0 with desc := BitVec.ofNat 2048 (2 ^ (8 * 0x48) + 2 ^ 23 * 2 ^ (8 * 0x10) + 4 * 2 ^ (8 * 0x18)), tlb := [{ page0 with size := 2 ^ 26 }] }

/-- Pack 1 names the tile 4, which holds a word of the parked pack 9, whose record is in slot 1 (R372). -/
def foreignTile (i : Instr) : State :=
  let u : Warp := { sup epi with k := [(9, 1)] }
  let s := st u { tiles := [3, 4] } parkCtx
  match i with
  | .trest _ => s.modPack 1 (fun p => { p with record := some { slot := 0, scrIn := false, saved := [1], tres := [] } })
  | _ => ({ s with packs := s.packs ++ [{ id := 9, tiles := [4], status := .parked, record := some { slot := 1, scrIn := false, saved := [], tres := [0] } }] } : State).setTile
      0 4 { owner := some (9, 0), state := { kind := 1, words := [(0, 7)] } }

theorem test_SystemWords_tiles :
    (let h (i : Instr) : Here := ((foreignTile i).here).getD (hr epi)
     [Instr.tsave 9, .trest 9].all (fun i => may i (foreignTile i) (h i)) && decide ((h (.tsave 9)).pack.tiles[1]? = some 4) &&
     (((foreignTile (.tsave 9)).core 0).tiles.getD 4 {}).owner == some (9, 0) && (((foreignTile (.trest 9)).core 0).tiles.getD 4 {}).owner == none &&
     (h (.trest 9)).pack.record.any (fun r => decide (1 ∈ r.saved) &&
       okHas ((foreignTile (.trest 9)).recordFrames (h (.trest 9)).ctx r.slot .load) (fun _ => true))) = true ∧
    Claims.walkable (foreignTile (.tsave 9)) :=
  ⟨by decide +kernel, flat_walkable _ (by decide +kernel) (by decide +kernel)⟩
/-! ## Events: accesses -/

/-- The state that an instruction leaves. -/
def after (i : Instr) (s : State) : State :=
  match exec i s with
  | .next t => t
  | _ => State.reset

/-- Lane `l`'s access to the four bytes at `a`. -/
def acc4 (l a : Nat) : LaneAcc := { lane := l, va := a, place := .dram a, len := 4, pos := 0, scales := [], zeros := [] }
def lone (a : Nat) : AtomLane := { acc := acc4 0 a, exp := 7, new := 5 }

/-- A state with one operation in flight, over the words 7 at 128 and 8 at 132; a load of both, an addition, an exchange. -/
def inFlight (path : Path) (k : FlightKind) : State :=
  st { epi with flight := [flying 3 path k] } {} ctx0 { State.reset with dram := [(128, 7), (132, 8)] }
def wFlight (path : Path) (k : FlightKind) : Warp := { epi with flight := [flying 3 path k] }

/-- The conditions of a completion that the accesses do not matter to. -/
def free (s : State) (w : Warp) (f : Flight) : Bool :=
  (s.flight? 1 0 3 == some ({ id := 1, warps := [w] }, ctx0, w, f)) && decide (ctx0.ackEpoch.toNat ≤ f.epoch.toNat) && decide (w.live ≠ 0) &&
  w.mayPerform f && !s.behindOnLink 0 f

/-- No error and no poison in the word at `a`. -/
def clean (s : State) (a : Nat) : Bool :=
  (List.range 4).all (fun i => !s.homeBad ((Place.dram a).plus i) && s.strike ((Place.dram a).plus i) == none)

/-- What the completion of `f` in `s` asks of both (Claims.ready). -/
theorem ready_of (s : State) (p : Pack) (x : Context) (w : Warp) (f : Flight)
    (h : (decide (x.ackEpoch.toNat ≤ f.epoch.toNat) && decide (w.live ≠ 0) && w.mayPerform f && !s.meetsHeldAtomic f && !s.awaitsSwitch x f &&
      !s.behindOnLink p.core f) = true) : Claims.ready s p x w f := by
  simp only [Bool.and_eq_true, decide_eq_true_eq, Bool.not_eq_true'] at h
  exact ⟨h.1.1.1.1.1, h.1.1.1.1.2, h.1.1.1.2, h.1.1.2, h.1.2, h.2⟩

/-- A view that may use the L1 and one that converts FP16 to FP32 (R140); a load of two lanes and a void one, and one that converts. -/
def viewL1 : BitVec 320 := BitVec.ofNat 320 (2 ^ 319 + 1000 * 2 ^ 192)
def viewCv : BitVec 320 := BitVec.ofNat 320 (2 ^ 319 + 1000 * 2 ^ 192 + (2 ^ 51 + 1 * 2 ^ 47) * 2 ^ 256)
def ld2 : FlightKind := .load 9 4 viewL1 [acc4 0 128, acc4 1 132] [2]
def ldCv : FlightKind := .load 9 4 viewCv [{ acc4 0 128 with len := 2 }] []
def uld8 : FlightKind := .uload 9 { acc4 0 128 with len := 8 }
def spoil (s : State) : State := { s with dramBad := [(4, true)] }

theorem test_LoadsComplete_load :
    [ld2, ldCv, uld8].all (fun k => [inFlight .laneLd k, spoil (inFlight .laneLd k)].all (fun s => free s (wFlight .laneLd k) (flying 3 .laneLd k) &&
      !s.meetsHeldAtomic (flying 3 .laneLd k) && !s.awaitsSwitch ctx0 (flying 3 .laneLd k))) = true ∧
    ([acc4 0 128, acc4 1 132].map LaneAcc.lane ++ [2]).Nodup ∧
    gives (exec (.laneLoadReply 1 0 3 .none) (inFlight .laneLd ld2)) (fun t => decide ((warpOf t).vreg 9 0 = 7 ∧ (warpOf t).vreg 9 1 = 8 ∧
      (warpOf t).vreg 9 2 = 0 ∧ (warpOf t).tags = [] ∧ (t.core 0).l1.length = 64)) = true ∧
    gives (exec (.laneLoadReply 1 0 3 .none) (spoil (inFlight .laneLd ld2))) (fun t => decide (Map.get false (warpOf t).tags (9 * 32 + 1) = true ∧
      Map.get false (warpOf t).tags (9 * 32 + 2) = false ∧ Map.get {} (warpOf t).origins 9 = { addr := 128, pc := 32 })) = true ∧
    gives (exec (.laneLoadReply 1 0 3 .none) (inFlight .laneLd ldCv)) (fun t => decide ((warpOf t).vreg 9 0 = 0x34E00000)) = true ∧
    gives (exec (.laneLoadReply 1 0 3 .none) (inFlight .laneLd uld8)) (fun t => decide ((warpOf t).kreg 9 = 0x800000007)) = true ∧
    gives (exec (.laneLoadReply 1 0 3 .none) (spoil (inFlight .laneLd uld8))) (fun t => (warpOf t).kreg 9 = 0 &&
      (warpOf t).pending.any (fun d => d.cause = .poison && d.addr = 128)) = true := by decide +kernel

theorem test_LoadsComplete_ready : Claims.ready (inFlight .laneLd ld2) { id := 1, warps := [wFlight .laneLd ld2] } ctx0 (wFlight .laneLd ld2)
    (flying 3 .laneLd ld2) := ready_of _ _ _ _ _ (by decide +kernel)

/-- Atomics on a page that does not migrate: one lane and two, compare-and-swaps of 4 and 8 bytes, and one of poisoned bytes. -/
def pair : List AtomLane := [{ acc := acc4 0 128, exp := 7, new := 5 }, { acc := acc4 1 132, exp := 7, new := 6 }]
def wideCas : FlightKind := .cas 9 true [{ acc := { acc4 0 128 with len := 8 }, exp := 0x800000007, new := 1 }]

theorem test_LoadsComplete_settled : Claims.settled ctx0 128 ∧ Claims.settled ctx0 135 :=
  ⟨⟨by decide +kernel, by decide +kernel, page0, by decide +kernel, by decide +kernel⟩,
   by decide +kernel, by decide +kernel, page0, by decide +kernel, by decide +kernel⟩

theorem test_LoadsComplete_atomics :
    [FlightKind.atomic 9 0 pair, .cas 9 false pair, wideCas, .atomic 9 0 [lone 128]].all (fun k =>
      (Claims.atomicKind k).isSome && free (inFlight .laneLd k) (wFlight .laneLd k) (flying 3 .laneLd k) && clean (inFlight .laneLd k) 128 &&
      clean (inFlight .laneLd k) 132 && (inFlight .laneLd k).contexts.all (fun o => o.all (fun y => y.held == [])) &&
      free (spoil (inFlight .laneLd k)) (wFlight .laneLd k) (flying 3 .laneLd k)) = true ∧
    (pair.map (fun l => l.acc.lane)).Nodup ∧
    (let r := Claims.inTurn 4 (fun l old => some (atomicNew 0 32 old l.new.toNat)) pair (inFlight .laneLd ld2).readPlace
     r.1 = [(0, 7), (1, 8)] ∧ r.2 (.dram 128) = 12 ∧ r.2 (.dram 132) = 14) ∧
    Claims.poisons ((spoil (inFlight .laneLd (.atomic 9 0 [lone 128]))).badFrom 0) [(128, .dram 128, 4)] = [128, 129, 130, 131] ∧
    (let at_ (a : Nat) (f : Nat → Option Nat) : LaneResult × Memory :=
      let r := (inFlight .laneLd (.atomic 9 0 [lone 128])).atomicLane 0 0 4 f (acc4 0 a)
      (r.1, r.2.dram)
     at_ 128 (fun old => some (atomicNew 0 32 old 5)) = (.value 7, [(128, 12), (132, 8)]) ∧
     at_ 128 (fun old => if old = 7 then some 5 else none) = (.value 7, [(128, 5), (132, 8)]) ∧
     at_ 132 (fun old => if old = 7 then some 5 else none) = (.value 8, [(128, 7), (132, 8)])) := by decide +kernel

/-- Conversions (R106, R144): 1.5 of FP16 as FP32; the code 3 of an E4M3 group of scale 2; an asymmetric INT4 of scale 1.0 and zero point 1,
both ways. -/
def viewOf (enc renc sfmt zp : Nat) : BitVec 320 := BitVec.ofNat 320 ((2 ^ 51 + enc * 2 ^ 47 + renc * 2 ^ 43 + sfmt * 2 ^ 38 + zp * 2 ^ 37) * 2 ^ 256)

theorem test_LoadsComplete_conversions :
    [0, 1, 2, 3, 4, 5, 6, 7, 8, 12].all (fun e => Claims.converts e) = true ∧ viewConv (viewOf 1 0 0 0) = true ∧ unitCount (viewOf 1 0 0 0) 4 = 1 ∧
    Claims.elemOk 1 0x3E00 = true ∧ unitIn (viewOf 1 0 0 0) 0x3E00 0 0 = 0x3FC00000 ∧
    Claims.elemNan 1 0x7E00 = true ∧ unitIn (viewOf 1 0 0 0) 0x7E00 0 0 = 0x7FC00000 ∧ Claims.elemInf 1 0xFC00 = true ∧
    unitIn (viewOf 1 0 0 0) 0xFC00 0 0 = 0xFF800000 ∧ unitIn (viewOf 3 0 1 0) 0x38 128 0 = 0x40000000 ∧ unitIn (viewOf 3 0 1 0) 0x38 255 0 = 0x7FC00000 ∧
    Claims.integral 7 = true ∧ Claims.finite fp16 0x3C00 = true ∧ unitIn (viewOf 7 0 2 1) 0xD 0x3C00 1 = 0xC0800000 ∧
    unitOut (viewOf 7 0 2 1) 0xC0800000 0x3C00 1 = 0xD ∧ Claims.notNumber fp16 0x7E00 = true ∧ unitOut (viewOf 7 0 2 1) 0xC0800000 0 1 = 1 ∧
    unitOut (viewOf 7 0 2 1) 0x7F800000 0x3C00 1 = 7 ∧ unitOut (viewOf 3 0 0 0) 0x43E00000 0 0 = 0x7E ∧ unitOut (viewOf 3 0 1 0) 0x40000000 128 0 = 0x38 := by
  decide +kernel

/-- A request of warp 0 of pack 1 to peer 3, sent `n` times, by port 2. -/
def asked (n : Nat) : Request := { id := 4, peer := 3, tag := 0, cls := .plain, src := 9, fctx := 0, cmode := [0], port := 2, va := 65600, len := 8, mask := 1, tries := n, owner := .warp 1 0, flight := 3, retire := [] }

theorem test_StoresComplete :
    (let b : StoreByte := { va := 128, via := 0, place := .dram 128, mask := 0xF0, val := 0x3C }
     let k : FlightKind := .store [b] (view0 0) 1 []
     let s := inFlight .laneSt k
     free s (wFlight .laneSt k) (flying 3 .laneSt k) && decide ((Place.dram 128).peer? = none) && !s.linkBad 0 (.dram 128) && !s.migrating ctx0 128 &&
     gives (exec (.laneStorePerformed 1 0 3 .none) s) (fun t => decide (t.dram = [(128, 0x37), (132, 8)])) &&
     (let g : Flight := { flying 3 .laneSt k with inWcb := true }
      let u := st { epi with flight := [g] }
      (u.flight? 1 0 3).isSome && !u.tagsOut k none && decide (lineRequests (flightPlaces k) = [] ∧ g.epoch = ctx0.epoch) &&
      ({ epi with flight := [g] } : Warp).maySend g &&
      gives (exec (.wcbDrain 1 0 3) u) (fun t => (warpOf t).flight.any (fun f => !f.inWcb && f.kind = k))) &&
     (let r : FlightKind := .rload 9 3 65600 false
      let u : State := { inFlight .fab r with requests := [asked 0] }
      free u (wFlight .fab r) (flying 3 .fab r) && !u.unsent 1 0 (flying 3 .fab r) && decide ((flying 3 .fab r).acquire = none ∧ (flying 3 .fab r).waits = []) &&
      gives (exec (.remoteReply 1 0 3 (.data (leBytes 8 77))) u) (fun t => (warpOf t).kreg 9 = 77) &&
      gives (exec (.remoteReply 1 0 3 .fabric) u) (fun t => (warpOf t).pending.any (fun d => d.cause = .fabric && d.addr = 65600)))) = true := by
  decide +kernel

/-! ## Events: engines -/

/-- After a `tcopy` of 4 words from 0 to 1,024. -/
def copying : State := after (.tcopy 1 2 5) (stE (eng .copy) 128 copyDesc)

/-- After a `tcopy` of 4 words inside the pack's window, from 0 to 256. -/
def copyingS : State := after (.tcopy 1 2 5) (stE (eng .copy) 128 (256 * 2 ^ 64 + (2 ^ 27 + 2 ^ 4 + 1) * 2 ^ 128 + 4 * 2 ^ 256))

theorem test_EngineEvents_copy :
    (match copying.copyAt 0 0 with
     | some (c, p, x) => c.segs.isEmpty && c.phase = .running && decide (c.next < cdElems c.desc ∧ c.read = none ∧ c.acked = []) &&
        (copying.askedOf (.engine (engineKey 0 0))).isEmpty && (copying.srcChunks p x c (c.segment c.segUnits)).isEmpty &&
        (copying.dstChunks p x c (c.segment c.segUnits)).isEmpty &&
        okHas (CopyRun.segment { st := copying, cmd := c } p x c.segUnits) (fun r => okHas r.perform.done.close (fun _ => true))
     | none => false) = true ∧
    gives (exec (.copySegment 0 0 .none) copying) (fun t => decide (t.dram = [(0, 8), (1024, 8)])) = true ∧
    gives (exec (.copySegment 0 0 .none) copyingS) (fun t => (t.core 0).scratch.read 265 = 1) = true := by decide +kernel

theorem test_EngineEvents_scratch :
    (match copyingS.copyAt 0 0 with
     | some (c, p, _) => c.segs.isEmpty && c.phase = .running && decide (c.next < cdElems c.desc ∧ c.read = none ∧ c.acked = []) &&
        (copyingS.askedOf (.engine (engineKey 0 0))).isEmpty && decide (targetKind c.target ≠ 3) &&
        decide (cdDspace c.desc ≠ 0 ∧ cdSspace c.desc ≠ 0) && (c.segment c.segUnits).all (fun n =>
          (c.sources n).all (fun k => (copyingS.scratchPlace p (cdSspace c.desc) k.1 k.2).isSome) &&
          (c.targets n).all (fun k => (copyingS.scratchPlace p (cdDspace c.desc) k.1 k.2).isSome)) && !(c.segment c.segUnits).isEmpty
     | none => false) = true := by decide +kernel

/-- `mzero` of one step and of two; and a core whose credit is spent. -/
def stepping (n : Nat) : State := withCmd (stE (eng .maths) 1 0) { cmd with steps := n, charge := 9 }
def spent (s : State) (x : Int) : State := s.modCore 0 (fun k => { k with credit := some x })

theorem test_EngineEvents_matrix :
    ([1, 2].all (fun n => decide (0 < (stepping n).creditOf 0) &&
      (grantOf ((stepping n).candidates 0 [] ((stepping n).core 0).mats)).isSome && okHas ((stepping n).tileOf winPack 0) (fun _ => true)) &&
     ((stepping 1).pack? 1).isSome && okHas ((stepping 1).finishMat { cmd with steps := 1 }) (fun _ => true) &&
     gives (exec (.matrixStep 0) (stepping 1)) (fun t => (t.core 0).mats.isEmpty && (t.core 0).credit = some 1023991) &&
     gives (exec (.matrixStep 0) (stepping 2)) (fun t => (t.core 0).mats.all (fun c => c.stepsDone = 1) && (t.core 0).credit = some 1023991) &&
     gives (exec (.matrixStep 0) (spent (stepping 2) 0)) (fun t => decide (t = spent (stepping 2) 0)) &&
     Map.wf {} (spent (stepping 2) (-5)).cores && gives (exec .creditRefill (spent (stepping 2) (-5))) (fun t => (t.core 0).credit = some 1023995) &&
     gives (exec .creditRefill (spent (stepping 2) 7)) (fun t => (t.core 0).credit = some 1024000)) = true := by decide +kernel

theorem test_EngineEvents_answers :
    (let f : EngFault := { fseq := 4, va := 0, cause := .prot, engine := 1, tag := 0, core := 0 }
     let s := (st epi {} { ctx0 with faults := [f] }).modCore 0 (fun k => { k with nmcs := [{ ncasCmd with phase := .stalled 4 }] })
     (s.ctx? 0).any (fun x => x.faults.find? (fun g => g.fseq == 4) == some f && x.doneWait.all (fun d => d.fseq != 0)) &&
     gives (exec (.engineFaultAbort 0 4) s) (fun t => (t.ctx? 0).any (fun x => x.faults.isEmpty && (match x.halt with
       | .raised _ rs => rs.all (fun r => r.source = .abort && r.cause = 12) | _ => false))) &&
     gives (exec (.engineFaultRetry 0 4) s) (fun t => (t.core 0).nmcs.all (fun c => c.phase = .running) && (t.ctx? 0).any (fun x => x.faults.isEmpty))) = true ∧
    (let wait (k : Nat) : State := (copying.modCore 0 (fun q => { q with
       copies := q.copies.map (fun c => { c with phase := .signal, next := 4, target := BitVec.ofNat 64 (k * 2 ^ 62) }) })).modPack 1 (fun p =>
         { p with leashes := [{ base := 240, depth := 2 }], bars := [bar] })
     [1, 2].all (fun k => match ((wait k).core 0).copies.find? (fun c => c.tag == 0 && c.phase == .signal && targetKind c.target == k) with
       | some c => decide (c.core = 0 ∧ targetIndex c.target = 0) && ((wait k).pack? c.pack).any (fun p => p.status = .running &&
           ((wait k).barrier? p 0).any (fun b => decide (-(2 ^ 31 : Int) ≤ b.txb - c.written)))
       | none => false) &&
     gives (exec (.engineLeashPush 0 0) (wait 1)) (fun t => (t.core 0).copies.isEmpty && t.packs.all (fun p => p.leashes.all (fun l => l.queued == 1))) &&
     gives (exec (.engineBarrierDelivery 0 0) (wait 2)) (fun t => (t.core 0).copies.isEmpty)) = true := by decide +kernel

theorem test_EngineEvents_adapter :
    (let c : MatCmd := { cmd with op := .mloop, ids := [1], stepsDone := 1 }
     let s := withCmd (stE (eng .maths) 1 0) c
     let p : Pack := (hrE (eng .maths)).pack
     decide (0 ∈ peerCtx.absentRows p c) && !peerCtx.unitClosing 2 0 && peerCtx.faults.isEmpty &&
     okHas (s.fillPlaces peerCtx (c.wanted peerCtx p 1)) (fun ps => !ps.isEmpty && ps.all (fun a => a.2.peer? == none) &&
       !s.atomicHeldAt (ps.map (fun a => a.2))) && (s.askedOf (.engine (fillKey 0 0 0))).isEmpty &&
     gives (exec (.adapterFillArrival 0 0 0 .none) s) (fun t => (t.ctx? 0).any (fun x => x.adCache.any (fun e => e.id = 1)))) = true := by decide +kernel

/-! ## Events: near-memory commands and steps -/

/-- A command with a block over memory `m`. -/
def near (b : Nat) (m : Memory) (e : BitVec 256 := 0) (left : List Nat := []) : State :=
  { (stE (eng .copy) 1 0).modCore 0 (fun k => { k with nmcs := [nearCmd b e left] }) with dram := m }
where
  nearCmd (b : Nat) (e : BitVec 256) (left : List Nat) : NmcCmd :=
    { ncasCmd with block := BitVec.ofNat 512 b, expr := e, left := left }

/-- The command is ready, and its pages are local. -/
def ready (s : State) (op : Nat) : Bool :=
  match s.nmcAt 0 0 op with
  | some (c, x) => okIs (s.nmcHome x (nmcRanges c.block)) .loc && okHas (s.localPlaces x (nbDst c.block) 8) (fun r => okHas r (fun _ => true)) &&
      !s.migrating x (nbDst c.block) && !s.noRoom x (wholeBytes (nbDst c.block) [] []) && s.dramBad == [] && s.strikes == []
  | none => false

/-- STATUS in the result area at 128, and the first result. -/
def status (s : State) : Nat × Nat := (leNat (bytesAt (s.core 0).scratch.read 128 8), leNat (bytesAt (s.core 0).scratch.read 136 8))

theorem test_NearMemoryEvents_cas :
    (let b := ncasBlock + 6 * 2 ^ 128
     ready (near b []) 2 && gives (exec (.ncas 0 0 .none) (near b [])) (fun t => t.dram = [(2048, 6)] && status t = (0, 0) && (t.core 0).nmcs.isEmpty) &&
     ready (near b [(2048, 9)]) 2 && gives (exec (.ncas 0 0 .none) (near b [(2048, 9)])) (fun t => t.dram = [(2048, 9)] && status t = (2, 9))) = true := by
  decide +kernel

/-- NFILL of two blocks with 7, and NMX of two blocks of INT32: stream 0 plus the scalar 5. -/
def fillBlock : Nat := 5 + 2 ^ 8 + 128 * 2 ^ 38 + 2048 * 2 ^ 64 + 7 * 2 ^ 128
def mxBlock : Nat := 1 + 12 * 2 ^ 4 + 2 ^ 8 + 64 * 2 ^ 16 + 128 * 2 ^ 38 + 2048 * 2 ^ 64 + 512 * 2 ^ 128
def mxExpr : BitVec 256 := BitVec.ofNat 256 (5 + 0x1040 * 2 ^ 128)

theorem test_NearMemoryEvents_blocks :
    (!nmcBad (BitVec.ofNat 512 fillBlock) 0 && !nmcBad (BitVec.ofNat 512 mxBlock) mxExpr &&
     [[0, 1], [1]].all (fun l => ready (near fillBlock [] 0 l) 5 && ready (near mxBlock [(512, 3)] mxExpr l) 1 &&
       okHas ((near mxBlock [(512, 3)] mxExpr l).localPlaces peerCtx 512 256) (fun r => okHas r (fun ps =>
         !(near mxBlock [(512, 3)] mxExpr l).atomicHeldAt ps))) && usedStreams (BitVec.ofNat 512 mxBlock) = [0] &&
     gives (exec (.nfill 0 0 1 .none) (near fillBlock [] 0 [0, 1])) (fun t =>
       (t.core 0).nmcs.all (fun c => c.left = [0]) && t.dram.read 2304 = 7 && t.dram.read 2048 = 0) &&
     gives (exec (.nmx 0 0 0 .none) (near mxBlock [(512, 3)] mxExpr [0])) (fun t => t.dram.read 2048 = 8 && t.dram.read 2052 = 5 &&
       status t = (0, 0) && (t.core 0).nmcs.isEmpty)) = true := by decide +kernel

/-- NENQ of 9 on a queue of two slots, empty and full; NCHASE from 2,048, whose link is 0. -/
theorem test_NearMemoryEvents_lists :
    (let q := 3 + 128 * 2 ^ 38 + 2048 * 2 ^ 64 + 9 * 2 ^ 128
     let c := 4 + 128 * 2 ^ 38 + 2048 * 2 ^ 64
     !nmcBad (BitVec.ofNat 512 q) 0 && !nmcBad (BitVec.ofNat 512 c) 0 &&
     ready (near q [(2064, 1)]) 3 && gives (exec (.nenq 0 0 .none) (near q [(2064, 1)])) (fun t => t.dram = [(2048, 1), (2064, 1), (2112, 9)] && status t = (0, 0)) &&
     gives (exec (.nenq 0 0 .none) (near q [(2048, 2), (2064, 1)])) (fun t => t.dram = [(2048, 2), (2064, 1)] && status t = (3, 2)) &&
     ready (near c []) 4 && okHas (State.chase peerCtx (near.nearCmd c 0 []) 1 2048 0 (near c [])) (fun r => match r.1 with
       | .ended 6 2048 0 => true
       | _ => false) &&
     (let f := c + 8 * 2 ^ 192 + 9 * 2 ^ 256 + 2 ^ 320
      ready (near f [(2056, 9)]) 4 && decide (nbDst (BitVec.ofNat 512 f) % 8 = 0 ∧ nbA (BitVec.ofNat 512 f) 3 = 1 ∧ nbA (BitVec.ofNat 512 f) 2 = 9) &&
      okIs ((near f [(2056, 9)]).nmcHome peerCtx [(2056, 8, .load)]) .loc &&
      gives (exec (.nchase 0 0 .none) (near f [(2056, 9)])) (fun t => status t = (5, 2048))) &&
     gives (exec (.nchase 0 0 .none) (near c [])) (fun t => status t = (6, 2048))) = true := by decide +kernel

/-- After a `cstep`, and after its peer's offer. -/
def offering : State := after (.cstep 1 2 6) (stE (eng .copy) 64 stepBlock)
def pairing : State := after (.cstepPeerOffer 3 0 5 16 0 0 true) offering

/-- The offer and the notice of peer 3 for the step `offering`, and its data: all of it, one element, and again. -/
theorem test_NearMemoryEvents_steps :
    ((match offering.colls with
      | [c] => c.phase = .offered && cbPeer c.block = 3 && c.ctx = 0 && cbStep c.block = 5 && cbCount c.block = 16 && cbRed c.block = 0 &&
          cbSenc c.block = 0 && !cbLower c.block && c.got = 0 && !peerCtx.unitClosing 3 c.die && targetKind c.target = 3
      | _ => false) && !(offering.peer 3).gone && offering.offers.isEmpty && offering.collLog.isEmpty &&
     gives (exec (.cstepPeerOffer 3 0 5 16 0 0 true) offering) (fun t => t.colls.all (fun c => c.phase = .paired) && !t.colls.isEmpty) &&
     gives (exec (.cstepPeerOffer 3 0 6 16 0 0 true) offering) (fun t => t.colls.all (fun c => c.phase = .offered) && t.offers.length = 1) &&
     offering.colls.all (fun d => ((offering.takeOffer { peer := 3, ctx := 0, step := 6, abandon := false, count := 16, red := 0, senc := 0, lower := true }).collMove d).isNone) &&
     gives (exec (.cstepAbandonNotice 3 0 5) offering) (fun t => t.colls.isEmpty && t.collLog.all (fun e => e.status = 4)) &&
     offering.colls.all (fun c => decide (c.got < cbCount c.block) && okHas (offering.localPlaces peerCtx (cbSend c.block + c.sent)
       (min 4096 (cbCount c.block * byteWidth (cbSenc c.block) - c.sent))) (fun r => okHas r (fun _ => true))) && offering.strikes.isEmpty) = true := by
  decide +kernel

/-- Its data: all of it, one element, that again, of a context that there is not, of too many bytes, and none (R396, R398, R399). -/
theorem test_NearMemoryEvents_delivery :
    (let data := (List.range 16).flatMap (fun _ => leBytes 4 0x3F800000)
     let d (n : Nat) : Delivery := { src := 3, tag := 9, bytes := data.take n }
     (match pairing.colls with
      | [c] => c.phase = .paired && c.ctx = 0 && cbPeer c.block = 3 && c.got = 0 && cbCount c.block = 16 && !peerCtx.unitClosing 3 c.die &&
          !pairing.outFull peerCtx c 16 && okIs (pairing.collHome peerCtx c.block) .loc && pairing.byFctx 0 == some (0, peerCtx) &&
          (pairing.byFctx 5).isNone && pairing.replies.isEmpty && (pairing.peer 3).gone == false &&
          okHas (pairing.elemPlaces peerCtx (cbOut c.block) (byteWidth (cbOenc c.block)) 0) (fun l => l.length = 4) &&
          okHas (State.collElems peerCtx false (List.replicate 16 0x3F800000) c (pairing.closeRequests (fun _ => true) (fun q => q.owner == .engine (engineKey 0 c.tag)))) (fun r =>
            okHas (r.2.setColl r.1).settleSteps (fun _ => true)) &&
          gives (exec (.cstepDataArrival c.id (d 4) false false) pairing) (fun t => t.colls.all (fun d => d.got = 1) &&
            t.replies = [{ src := 3, tag := 9, reply := .data [] }] &&
            gives (exec (.cstepDataArrival c.id (d 4) false false) t) (fun u => u.colls = t.colls && u.dram = t.dram && u.answered = t.answered)) &&
          gives (exec (.cstepDataArrival c.id (d 64) false true) pairing) (fun t => t.colls.all (fun d => d.got = 16) && t.dram.read 1026 = 0x80 && t.dram.read 1087 = 0x3F) &&
          gives (exec (.cstepDataArrival c.id { d 4 with fctx := 5 } false false) pairing) (fun t => t.colls == pairing.colls &&
            t.answered = some { src := 3, tag := 9, reply := .fabric }) &&
          gives (exec (.cstepDataArrival c.id { d 4 with bytes := List.replicate 257 0 } false false) pairing) (fun t => t.colls == pairing.colls && t.replies.isEmpty) &&
          okHas pairing.settleSteps (fun _ => true)
      | _ => false)) = true := by decide +kernel

/-- A reply cache in which every entry is another part's. -/
def fullCache (s : State) : State := { s with replies := List.replicate 16384 { src := 9, tag := 2, reply := .fabric } }

theorem test_full_cache (s : State) : 16384 ≤ (fullCache s).replies.length ∧
    (fullCache s).replies.find? (fun r => r.src == 3 && r.tag == 9) = none := by
  refine ⟨Nat.le_of_eq List.length_replicate.symm, List.find?_eq_none.mpr ?_⟩
  intro r hr
  rw [List.eq_of_mem_replicate hr]
  decide
/-! ## Events: scheduling -/

/-- A context with the launch `onePkt n`, eligible. -/
def launchCtx (n : Nat) : Context := { ctx0 with lseq := 1, launches := [{ lseq := 1, pkt := onePkt n, eligible := some 0 }] }

/-- A submission channel of the context 0 with one packet unread, at 256 (R408). -/
def withMgmt (m : Mgmt) : State := st epi {} ctx0 { State.reset with mgmt := m }
def chan : Channel := { ctl := BitVec.ofNat 64 (2 ^ 13), base := 256, wr := 1 }

theorem test_DispatchEvents_channel :
    (let s := withMgmt { channels := [(0, chan)] }
     chan.valid && chan.wr != chan.rd && chan.ctx == 0 && okHas (s.partRead ctx0 256 256) (fun bs =>
       okHas ((s.setChannel 0 { chan with rd := 1 }).acceptLaunch 0 (recOf 2048 bs)) (fun _ => true)) &&
     gives (exec (.channelSlotRead 0) s) (fun t => (t.channel 0).rd = 1)) = true := by decide +kernel

/-- A slot that holds a packet of a right shape. -/
theorem test_DispatchEvents_accept :
    (let s := { withMgmt { channels := [(0, chan)] } with dram := Memory.writeBytes [] 256 (leBytes 256 (onePkt 1).toNat) }
     !chan.stat.getLsbD 1 && ctx0.halt = .clear && okHas (s.partRead ctx0 256 256) (fun bs => pktStatus (recOf 2048 bs) = 0) &&
     gives (exec (.channelSlotRead 0) s) (fun t => (t.channel 0).rd = 1 && (t.ctx? 0).any (fun x => x.launches.map (fun l => l.lseq) = [1]))) = true := by
  decide +kernel

/-- A part with one launch of two packs, and no pack. -/
def placing : State := { State.reset with contexts := State.reset.contexts.set 0 (some (launchCtx 2)) }

theorem test_DispatchEvents_rooms :
    ((launchCtx 2).launches.all (fun l => decide (placing.age.rootsNeeded 0 l ≤ placing.age.rootsFree 0)) && decide (placing.age.residents 1 = [])) = true ∧
    Claims.walkable placing.age :=
  ⟨by decide +kernel, flat_walkable _ (by decide +kernel) (by decide +kernel)⟩

theorem test_DispatchEvents_place :
    (let s := placing
     let a := s.age
     match launchCtx 2 with
     | { launches := [l], .. } =>
       let item : WorkItem := { prio := min 3 (pktPrio l.pkt + l.boost), lseq := 1, ctx := 0, pack := none }
       a.turnOf item && l.nextPacks = [0] && (a.itemNeeds item).1.contains 0 && (a.clustersFor item).contains 0 && clusterOf 1 == 0 &&
       a.placesFit l.pkt [(1, 0)] [] && okHas (State.makePacks 0 l (a.groupFor 0 l 0) [(0, 1, 0)] a) (fun t => t.packs.length = 1) &&
       gives (exec (.packDispatch 0 1 [(1, 0)]) s) (fun t => t.packs.all (fun p => p.core = 1 && p.warps.length = 1) && t.packs.length = 1 &&
         (t.ctx? 0).any (fun x => x.launches.all (fun m => m.next = 1)))
     | _ => false) = true := by decide +kernel

theorem test_DispatchEvents_retire :
    (let gone : Warp := { epi with live := 0 }
     let s (n : Nat) : State := st gone { lseq := 1, pkt := onePkt n } (launchCtx n)
     [1, 2].all (fun n => ((s n).pack? 1).any (fun p => !(s n).busy p && decide (pktSeq p.pkt 0xA0 = (0, 0, false)) && decide (pktSeq p.pkt 0xB0 = (0, 0, false)) &&
       (((s n).removePack p).ctx? 0).any (fun x => x.launches.any (fun l => l.lseq == p.lseq && l.retired + 1 == 1)))) &&
     gives (exec (.packRetire 1) (s 2)) (fun t => t.packs.isEmpty && (t.ctx? 0).any (fun x => x.launches.all (fun l => l.retired = 1) && x.launches.length = 1)) &&
     gives (exec (.packRetire 1) (s 1)) (fun t => t.packs.isEmpty && (t.ctx? 0).any (fun x => x.launches.isEmpty))) = true := by decide +kernel

theorem test_DispatchEvents_walks :
    Claims.walkable (st { epi with live := 0 } { lseq := 1, pkt := onePkt 1 } (launchCtx 1)) ∧
    Claims.walkable { st epi {} { ctx0 with kennels := [{ cluster := 0, key := 64, tasks := [(0, task)] }] } with cycle := 40 } :=
  ⟨flat_walkable _ (by decide +kernel) (by decide +kernel), flat_walkable _ (by decide +kernel) (by decide +kernel)⟩

/-- A pack whose only warp waits in `idle` since cycle 0, at cycle 5,000. -/
def idle1 : Warp := { cpy with block := some { why := .idle, since := 0, sat := false } }
def idling : State := { st idle1 { pkt := onePkt 1 } parkCtx with cycle := 5000 }

theorem test_DispatchEvents_park :
    ((idling.pack? 1).any (fun p => idling.mayPark parkCtx p && p.status = .running && p.preempt.isNone && decide (idling.groupRoots p = []) &&
       decide (parkCtx.freeSlot = some 0)) &&
     (let s := { st idle1 { pkt := onePkt 1 } { parkCtx with tlb := [page0] } with cycle := 5000 }
      (s.pack? 1).any (fun p => s.mayPark { parkCtx with tlb := [page0] } p && okHas (s.writeRecord p .parked false) (fun t => t.isSome)))) = true ∧
    Claims.walkable idling :=
  ⟨by decide +kernel, flat_walkable _ (by decide +kernel) (by decide +kernel)⟩

/-- That pack after it has parked in slot 0, queued for resumption. -/
def parked : State :=
  { idling with packs := idling.packs.map (fun p => { p with
      status := .parked, queuedAt := some 5000, record := some { slot := 0, scrIn := false, saved := [], tres := [] } }) }

theorem test_DispatchEvents_resume :
    (parked.age.pack? 1).any (fun p =>
      let a := parked.age
      let item : WorkItem := { prio := min 3 (pktPrio p.pkt + p.boost), lseq := p.lseq.toNat, ctx := 0, pack := some 1 }
      a.turnOf item && a.fits [] 0 0 p.pkt && descHas parkCtx.desc 0 && a.tileRoom p 0 && (a.clustersFor item).contains 0 && p.core == 0 &&
      p.record.any (fun r => okHas (a.resumePack p r 0 0) (fun t => t.packs.all (fun q => q.status = .running && q.record.isNone)))) = true := by
  decide +kernel

theorem test_DispatchEvents_resume_here :
    ((parked.age.pack? 1).any (fun p => p.record.any (fun r =>
      decide (r.saved = [] ∧ p.heldDone = [] ∧ p.core = 0) && (parked.age.residents 0).all (fun q => q.id == p.id) &&
      (parked.age.core 0).copies.isEmpty && (parked.age.core 0).mats.isEmpty && okHas (parked.age.recordFrames parkCtx r.slot .load) (fun _ => true)))) = true ∧
    Claims.walkable parked.age :=
  ⟨by decide +kernel, flat_walkable _ (by decide +kernel) (by decide +kernel)⟩

/-- Two contexts of one partition after a slice of context 0: one that has had less of it, and one that has had more. -/
def sharing (w : Warp) (served : Nat) : State :=
  { st w with cycle := 40000, contexts := (State.reset.contexts.set 0 (some ctx0)).set 1 (some { ctx0 with inSlice := false, served := served }) }

theorem test_DispatchEvents_slices :
    ([0, 90000].all (fun n =>
       let s := sharing epi n
       let s1 := s.modCtx 0 (fun y => { y with served := y.served + (s.cycle - y.sliceAt), sliceAt := s.cycle })
       descSlice ctx0.desc = 40000 && (s.sharers 0 ctx0).any (fun y => y.1 != 0) && s1.nextSharer 0 ctx0 = some (if n = 0 then 1 else 0) &&
       okHas (State.slicePacks [1] s1) (fun _ => true)) &&
     gives (exec (.sliceEnd 0) (sharing epi 0)) (fun t => (t.ctx? 0).any (fun x => !x.inSlice && x.served == 40000) && (t.ctx? 1).any (fun x => x.inSlice)) &&
     gives (exec (.sliceEnd 0) (sharing epi 90000)) (fun t => (t.ctx? 0).any (fun x => x.inSlice && x.served == 40000)) &&
     (let u : State := { sharing epi 0 with packs := [{ id := 1, status := .saved }] }
      gives (exec (.sliceEnd 0) u) (fun t => (t.ctx? 1).any (fun x => x.inSlice)))) = true := by decide +kernel

theorem test_DispatchEvents_timers :
    (let k : Context := { ctx0 with kennels := [{ cluster := 0, key := 64, tasks := [(0, task)] }] }
     let s : State := { st epi {} k with cycle := 40 }
     descKennelt ctx0.desc = 32 && okHas (s.formWave 0 0) (fun t => okHas (t.settleAll 0) (fun _ => true)) &&
     gives (exec (.kennelTimerExpiry 0 0) s) (fun t => (t.ctx? 0).any (fun x => x.kennels.isEmpty))) = true ∧
    (let p : Pack := { pkt := BitVec.ofNat 2048 (2 ^ 16), preempt := some 0 }
     let s (w : Warp) : State := st w p trapCtx trapMem
     ((s (sup epi)).pack? 1).any (fun q => q.supervised && !q.deferralOver && !q.midPair) && ((s epi).pack? 1).any (fun q => !q.supervised && !q.deferralOver && !q.midPair &&
       q.unheld = some (0, epi)) && descTimeout trapCtx.desc = 0 && okHas ((s epi).takeTrap 1 0 epi .timeout 64 0 0 false) (fun t => (t.pack? 1).any (fun q =>
         okHas ((t.modPack 1 (fun q => { q with timedOut := true, preempt := some 0 })).preemptPack { q with timedOut := true, preempt := some 0 }) (fun _ => true))) &&
     gives (exec (.timeout 1) (s (sup epi))) (fun t => (t.ctx? 0).any (fun x => match x.halt with | .raised _ rs => rs.all (fun r => r.source = .superCause && r.cause = 25) | _ => false)) &&
     gives (exec (.timeout 1) (s epi)) (fun t => (warpOf t).xcause = 25)) = true := by decide +kernel

/-! ## Events: links -/

/-- The part with that request, and ports 1 and 2 to peer 3. -/
def linked (n : Nat) : State :=
  { stE (eng .copy) 1 0 with requests := [asked n], peers := [(3, { peer3 with reach := 6 })], mgmt := { ready := true, step := 6, portUp := 6 } }

theorem test_LinkEvents_ports :
    (let s := linked 3
     peerState (s.peer 3) = 2 && peerState (s.peer 4) != 2 && gives (exec (.allowanceReturn 3 2000) s) (fun t => (t.peer 3).allow = 1023) &&
     gives (exec (.allowanceReturn 4 5) s) (fun t => decide (t = s)) && s.mgmt.portEn.getLsbD 5 &&
     gives (exec (.portUp { port := 5, reach := [3] }) s) (fun t => t.mgmt.portUp = 38 && t.mgmt.step = 7 && (t.peer 3).reach = 38 && peerState (t.peer 3) = 2) &&
     gives (exec (.portDown 2 []) s) (fun t => t.mgmt.portUp = 2 && t.requests.length = 1 && peerState (t.peer 3) = 2) &&
     gives (exec (.portDown 2 []) { s with peers := [(3, { peer3 with reach := 4 })] }) (fun t => (t.peer 3).gone && peerState (t.peer 3) = 3) &&
     (s.mgmt.ports (s.peer 3)).contains 1 && gives (exec (.requestReissue 4 1) s) (fun t => t.requests.all (fun r => r.tries = 4 && r.port = 1) && Map.get 0 t.mgmt.ras 0x3040 = 1) &&
     okHas ((linked 8).losePeer 3) (fun _ => true) && gives (exec (.requestReissue 4 1) (linked 8)) (fun t => peerState (t.peer 3) = 3 && (t.peer 3).gone) &&
     gives (exec (.requestReissue 4 3) s) (fun t => decide (t = s)) && gives (exec (.requestReissue 5 1) s) (fun t => decide (t = s)) &&
     s.mgmt.portUp.getLsbD 1 && gives (exec (.dlReplay 1) s) (fun t => Map.get 0 t.mgmt.ras 0x3038 = 1)) = true := by decide +kernel

/-- RETRY: a request of class 1 on its block's port, a plain one, one that there is not, and one with no port (R399). -/
theorem test_LinkEvents_retry :
    (let k (r : Nat) : State := { linked 3 with
       requests := [{ asked 3 with cls := .once }], peers := [(3, { peer3 with reach := BitVec.ofNat 16 r, ports := [(256, 1)] })] }
     decide ((asked 3).cls = .plain) && (k 6).mgmt.ports ((k 6).peer 3) = [1, 2] && Map.get 16 ((k 6).peer 3).ports (65600 / 256) = 1 &&
     gives (exec (.retryReissue 4) (k 6)) (fun t => t.requests.map (fun r => (r.tries, r.port)) = [(0, 1)]) &&
     gives (exec (.retryReissue 4) (linked 3)) (fun t => decide (t = linked 3)) && gives (exec (.retryReissue 5) (k 6)) (fun t => decide (t = k 6)) &&
     (k 0).mgmt.ports ((k 0).peer 3) = [] && (k 0).colls.isEmpty && gives (exec (.retryReissue 4) (k 0)) (fun t => (t.peer 3).gone)) = true := by
  decide +kernel

/-- A request of more than 256 bytes; a read and a write; a tag that is no longer kept; a full reply cache (R396, R398, R399). -/
theorem test_LinkEvents_requests :
    (let e : ReplyEntry := { src := 9, tag := 2, reply := .data [1] }
     let s : State := { linked 0 with replies := [e], dram := [(128, 7)] }
     let ask (r : PeerReq) (cls : BitVec 2) (old : List (BitVec 16)) : State := after (.peerRequest 9 0 2 cls 128 r old) s
     oversize (.read 300) && !oversize (.read 2) && !oversize (.write [5, 6]) && decide (ask (.read 300) 0 [] = s) &&
     (ask (.read 2) 1 [2]).answered = some { src := 9, tag := 2, reply := .data [7, 0] } &&
     okHas (s.servePlaces peerCtx .load 128 2) (fun ps => ps == some [.dram 128, .dram 129]) && !s.atomicHeldAt [.dram 128, .dram 129] &&
     okHas (s.servePlaces peerCtx .store 128 2) (fun ps => ps == some [.dram 128, .dram 129]) &&
     !s.noRoom peerCtx (wholeBytes 128 [.dram 128, .dram 129] [5, 6]) && (s.ctx? 0 == some peerCtx) &&
     (ask (.write [5, 6]) 0 []).dram = [(128, 5), (129, 6)]) = true := by decide +kernel

theorem test_LinkEvents_peers :
    (let s : State := { linked 0 with peers := [(3, { peer3 with entry := peerEntry true 1 9 0 0 0 0 false, allow := 0 })] }
     peerValid (s.peer 3) && peerState (s.peer 3) = 1 &&
     gives (exec (.peerCapabilities 3 5 15 0 1 true) s) (fun t => (t.peer 3).entry = peerEntry true 2 9 2 15 0 1 true && (t.peer 3).allow = 1023)) = true ∧
    (let e : ReplyEntry := { src := 9, tag := 2, reply := .data [1] }
     let s : State := { linked 0 with replies := [e], dram := [(128, 7)] }
     let ask (cls : BitVec 2) (fctx : BitVec 12) (tag : BitVec 16) (va : BitVec 64) : State := after (.peerRequest 9 fctx tag cls va (.read 2) []) s
     (s.byFctx 0).isSome && (s.byFctx 5).isNone && okHas (s.serve 0 peerCtx 128 (.read 2)) (fun r => r.isSome) &&
     (ask 1 0 2 128).answered = some e && (ask 1 0 3 128).answered = some { src := 9, tag := 3, reply := .data [7, 0] } && (ask 1 0 3 128).replies.length = 2 &&
     (ask 0 0 2 128).answered = some { src := 9, tag := 2, reply := .data [7, 0] } && (ask 0 0 2 128).replies = [e] &&
     (ask 1 5 3 128).answered = some { src := 9, tag := 3, reply := .fabric }) = true ∧
    16384 ≤ ({ State.reset with replies := List.replicate 16384 { src := 9, tag := 2, reply := .fabric } } : State).replies.length := by
  refine ⟨by decide +kernel, by decide +kernel, ?_⟩
  exact Nat.le_of_eq List.length_replicate.symm

/-! ## Events: halts -/

/-- A context whose halt was raised by `chalt`, with two units that have stopped or not. -/
def haltCtx (stopped : Bool) : Context :=
  { parkCtx with desc := parkCtx.desc ||| BitVec.ofNat 2048 (4096 * 2 ^ (8 * 0x20) + 512 * 2 ^ (8 * 0x28))
                 halt := .raised [{ kind := 0, place := 0, arrived := true, stopped := stopped }, { kind := 4, place := 0 , arrived := stopped, stopped := stopped }]
                           [raiseRec {} epi .chalt 0 0] }

theorem test_HaltEvents_units :
    (let s := st epi {} (haltCtx false)
     let units (t : State) : List HaltUnit := match t.ctx? 0 with
       | some x => (match x.halt with | .raised us _ => us | _ => [])
       | none => []
     gives (exec (.haltMessageArrival 0 1) s) (fun t => (units t).map (fun u => u.arrived) = [true, true]) &&
     gives (exec (.unitStop 0 0) s) (fun t => (units t).map (fun u => u.stopped) = [true, false]) &&
     gives (exec (.haltSettle 0) s) (fun t => decide (t = s))) = true ∧
    (let s : State := { State.reset with contexts := State.reset.contexts.set 0 (some (haltCtx true)) }
     !s.draining 0 && okHas (State.haltRecords 0 [] 0 (State.haltSlots 0 [] s)) (fun r => r.1 = 0) &&
     okHas (State.haltRecords 0 [] 0 (State.haltSlots 0 [] (s.haltCopies 0))) (fun r => match (s.ctx? 0).map Context.halt with
       | some (.raised us rs) => okHas (State.stopRecords 0 rs us 0 0 r.2) (fun q => (s.ctx? 0).any (fun x =>
           okHas (State.endLaunches 0 5 x.launches ((q.2.2.dropPacks []).dropCommands 0)) (fun u => okHas (u.stopHeader 0 x q.1 (r.1 + q.2.1)) (fun _ => true))))
       | _ => false) &&
     gives (exec (.haltSettle 0) s) (fun t => t.packs.isEmpty && (t.ctx? 0).any (fun x => x.halt = .halted) && t.dram.read 4096 = 1 && t.dram.read 4104 = 2)) = true := by
  decide +kernel

/-- A context with no pack, launch or unit, whose halt `chalt` has raised. -/
def bareHalt : Context := { ctx0 with halt := .raised [] [raiseRec {} epi .chalt 0 0] }
def settling : State := { State.reset with contexts := State.reset.contexts.set 0 (some bareHalt) }

theorem test_HaltEvents_bare :
    (decide (settling.residentPacks 0 = [] ∧ bareHalt.launches = []) && gives (exec (.haltSettle 0) settling) (fun t =>
      (t.ctx? 0).any (fun x => x.halt = .halted))) = true ∧ Claims.walkable settling :=
  ⟨by decide +kernel, flat_walkable _ (by decide +kernel) (by decide +kernel)⟩

theorem test_HaltEvents_errors :
    (let s := st epi
     !pktIdem 0 && (s.pack? 1).any (fun p => !p.cleanWave) &&
     gives (exec (.registerUe 1 0) s) (fun t => (warpOf t).preHeld && Map.get 0 t.mgmt.ras 0x3028 = 1 && (t.ctx? 0).any (fun x => match x.halt with
       | .raised _ rs => rs.all (fun r => r.source = .ue) | _ => false)) &&
     gives (exec .dieLinkLost s) (fun t => t.mgmt.fatal && (t.ctx? 0).any (fun x => x.halt != .clear)) &&
     (let e : Context := { ctx0 with epoch := 4 }
      gives (exec (.tlbinvAck 0) (st epi {} e)) (fun t => (t.ctx? 0).any (fun x => x.ackEpoch = 4)) &&
      gives (exec (.tlbinvAck 0) (st epi {} { e with invSeq := 9 } { State.reset with requests := [{ asked 0 with fctx := BitVec.ofNat 12 (descFctx e.desc) }] }))
        (fun t => (t.ctx? 0).any (fun x => x.ackEpoch = 4)))) = true := by decide +kernel

/-! ## Events: the management space -/

/-- A part that is ready, with a descriptor of cluster 0's partition at 256 of local memory, and of a DMA of 256 bytes from 512 of host
memory to 1,024 at 64 of host memory. -/
def driven : State :=
  { State.reset with
    mgmt := { ready := true, step := 7 }, dram := [(256 + 0x48, 1)]
    hostMem := Memory.writeBytes [] 64 (leBytes 8 512 ++ leBytes 8 1024 ++ leBytes 4 256 ++ leBytes 4 1 ++ leBytes 8 9) ++ [(513, 6)] }
def halted : State := { driven with contexts := driven.contexts.set 0 (some { ctx0 with halt := .halted, hseq := 3 }) }

theorem test_Commands :
    ([Instr.ctxcreate 256 0, .ctxdestroy 0, .ctxclear 0, .hostevSet 0 1 2, .hostevClear 0 1 2, .dma 64, .freeze, .attest 0 0].all (fun i =>
       (Claims.commandRow i).isSome) && gives (exec .freeze { driven with mgmt := { driven.mgmt with busy := true } }) (fun t => !t.mgmt.frozen) &&
     descPart (recOf 2048 (bytesAt driven.dram.read 256 256)) = 1 && driven.partitionOk (recOf 2048 (bytesAt driven.dram.read 256 256)) &&
     gives (exec (.ctxcreate 256 0) driven) (fun t => (t.ctx? 0).any (fun x => descPart x.desc = 1) && t.mgmt.result = 0) &&
     gives (exec (.ctxclear 0) halted) (fun t => (t.ctx? 0).any (fun x => x.halt = .clear && x.hseq = 4) && t.mgmt.result = 0) &&
     gives (exec (.ctxdestroy 0) halted) (fun t => (t.ctx? 0).isNone && t.mgmt.result = 0) &&
     gives (exec (.hostevSet 0 1 2) halted) (fun t => (t.ctx? 0).any (fun x => x.events = 0x20000000000000000)) &&
     gives (exec (.hostevClear 0 1 2) (after (.hostevSet 0 1 6) halted)) (fun t => (t.ctx? 0).any (fun x => x.events = 0x40000000000000000)) &&
     gives (exec (.ctxclear 1) driven) (fun t => t.mgmt.result = 3) &&
     gives (exec (.dma 64) driven) (fun t => t.mgmt.dmas = [{ tag := 9, host := 512, loc := 1024, len := 256, toPart := true }]) &&
     gives (exec .freeze driven) (fun t => t.mgmt.frozen && !t.mgmt.secrets) && driven.mgmt.secrets &&
     gives (exec (.attest 0 0) { driven with mgmt := { driven.mgmt with secrets := false, frozen := true } }) (fun t => t.mgmt.result = 3)) = true := by decide +kernel

/-- CTXDESTROY of a context that runs (R404, R406). -/
theorem test_Commands_destroy :
    (let s : State := { driven with contexts := driven.contexts.set 0 (some ctx0) }
     gives (exec (.ctxdestroy 0) s) (fun t => t.mgmt.busy && t.mgmt.result = 1 && (t.ctx? 0).any (fun x => match x.halt with
       | .raised _ rs => rs.all (fun r => r.source = .host)
       | _ => false))) = true := by decide +kernel

theorem test_ChannelEvents :
    (let s := withMgmt { ready := true, channels := [(0, { chan with stat := 1 }), (1, { chan with wr := 0 })] }
     (s.channel 0).log2n = 4 &&
     gives (exec (.chwrWrite 0 9) s) (fun t => (t.channel 0).wr = 9) && gives (exec (.chwrWrite 1 17) s) (fun t => (t.channel 1).stat = 1 && (t.channel 1).wr = 0) &&
     gives (exec (.chstatWrite 0 1) s) (fun t => (t.channel 0).stat = 0) && gives (exec (.chctlWrite 0 0xFFFF) s) (fun t => decide (t = s)) &&
     gives (exec (.chctlWrite 1 0xFFFF) s) (fun t => (t.channel 1).ctl = 0x3F0F) && gives (exec (.chbaseWrite 1 0x1234) s) (fun t => (t.channel 1).base = 0x1200) &&
     gives (exec (.chbaseWrite 0 0x1234) s) (fun t => decide (t = s))) = true ∧
    (let d : Dma := { tag := 9, host := 512, loc := 1024, len := 256, toPart := true }
     let s : State := { driven with mgmt := { driven.mgmt with dmas := [d, { d with toPart := false, loc := 256 }] } }
     s.mgmt.ringOpen = false && gives (exec (.dmaComplete 0) s) (fun t => t.mgmt.dmas.length = 1 && t.dram.read 1025 = 6 && t.dram.read 328 = 1) &&
     gives (exec (.dmaComplete 1) s) (fun t => t.dram = s.dram && t.hostMem.read 584 = 1 && t.hostMem.read 513 = 0)) = true ∧
    (let s := withMgmt { ready := true, evrwr := 5, evrrd := 2 }
     gives (exec (.evrrdWrite 4) s) (fun t => t.mgmt.evrrd = 4) && gives (exec (.evrrdWrite 6) s) (fun t => decide (t = s))) = true := by decide +kernel

theorem test_RegisterEvents :
    (let s := withMgmt { ready := true, ras := [(0x3040, 5)], certsel := 16 }
     gives (exec .certdataRead s) (fun t => t.mgmt.certsel = 24) && gives (exec .scandataRead s) (fun t => t.mgmt.rdata = 0) &&
     gives (exec .scandataRead { s with mgmt := { s.mgmt with secrets := false } }) (fun t => t.mgmt.scanpos = 1) &&
     rasOffsets.contains 0x3040 && gives (exec (.rasCounterWrite 0x3040 9) s) (fun t => Map.get 0 t.mgmt.ras 0x3040 = 0) &&
     !peerValid (s.peer 3) && gives (exec (.peerEntryWrite 3 0x8000000240000000) s) (fun t => (t.peer 3).entry = peerEntry true 1 9 0 0 0 0 false) &&
     gives (exec (.peerEntryWrite 3 0x240000000) s) (fun t => (t.peer 3).entry = peerEntry false 0 9 0 0 0 0 false) &&
     gives (exec (.mgmtRegisterWrite 0x2000 5000) s) (fun t => t.mgmt.pwrlim = 3200) && gives (exec (.mgmtRegisterWrite 0x2000 9) s) (fun t => t.mgmt.pwrlim = 800) &&
     gives (exec (.powerLoop 1 2 3 4 5 6) s) (fun t => t.mgmt.pkgpw = 1 && t.mgmt.diepw = 0x300000002 && t.mgmt.hbmpw = 4 && t.mgmt.temp = 5 && t.mgmt.ebudget = 6) &&
     decide (s.mgmt.ebudget.toNat ≤ s.mgmt.budget.toNat) && gives (exec .powerOverdraw s) (fun t => t.mgmt.ebudget = 512000)) = true := by decide +kernel

/-- The registers that a write changes at any time and from step 6 on, a read-only one, MCMD, and PORTCFG (R401, R404, R405). -/
theorem test_RegisterEvents_writes :
    (let s (r : Bool) : State := { linked 3 with mgmt := { ready := r, portUp := 6, scanpos := 3 } }
     let w (off : BitVec 16) (v : BitVec 64) (r : Bool) : State := after (.mgmtRegisterWrite off v) (s r)
     (w 0x0010 15 false).mgmt.certsel = 8 && (w 0x8000 5 false).mgmt.scansel = 5 && (w 0x8000 5 false).mgmt.scanpos = 0 &&
     decide (w 0x0108 7 false = s false) && (w 0x0108 7 true).mgmt.marg0 = 7 && (w 0x0110 7 true).mgmt.marg1 = 7 &&
     (w 0x0200 0x12345 true).mgmt.evrbase = 0x12000 && (s true).mgmt.evheld.isEmpty && (w 0x0208 9 true).mgmt.evrlog2 = 9 &&
     (w 0x2008 5 true).mgmt.budget = 5 && (w 0x2008 5 true).mgmt.ebudget = 5 && decide (w 0x2010 5 true = s true) &&
     (Claims.commandRow .freeze).any (fun r => r = (6, (s true).mgmt.marg0, (s true).mgmt.marg1)) && (w 0x0100 6 true).mgmt.frozen &&
     (w 0x0300 0x200000032 true).mgmt.portUp = 2 && (w 0x0300 0x200000032 true).requests.length = 1 &&
     (w 0x0300 50 true).mgmt.portUp = 0 && ((w 0x0300 50 true).peer 3).gone) = true := by decide +kernel

/-! ## Compressed blocks -/

/-- R149's example: 64 INT32 values 1000 + i, with EW = 2, base 1000 and DW = 7, in three units. -/
def deltaBlock : List (BitVec 8) :=
  [3, 2, 7, 0, 0, 0, 0, 0] ++ leBytes 8 1000 ++ leBytes 80 ((upTo 64).foldl (fun a i => a + i * 2 ^ (7 * i)) 0)

theorem test_expand_delta :
    (expandBlock 3 deltaBlock).map (fun bs => (bs.length, leNat (bs.take 4), leNat (bs.drop 252))) = some (256, 1000, 1063) := by
  decide +kernel

/-- An L that breaks R149, an EW of 0, a reserved mode, and a zero block with a bit set are decode errors (R151). -/
theorem test_expand_errors :
    expandBlock 3 (4 :: deltaBlock.tail) = none ∧ expandBlock 3 (deltaBlock.set 1 0) = none ∧ expandBlock 5 deltaBlock = none ∧
    expandBlock 1 (leBytes 32 1) = none ∧ expandBlock 1 (leBytes 32 0) = some (List.replicate 256 0) := by
  decide +kernel

/-- An exponent plane with E0 = 127 and no delta bits: sign and mantissa bytes 0x80 and 0x01 give -1.0 and 0x3F81 (R150). -/
theorem test_expand_plane :
    (expandBlock 4 ([5, 127, 0, 0, 0x80, 0x01] ++ List.replicate 154 0)).map (fun bs => (leNat (bs.take 2), leNat ((bs.drop 2).take 2))) =
      some (0xBF80, 0x3F81) := by
  decide +kernel

/-- The encoder on the blocks as in 08_memory_notes Case 4: zeros, a repeat, 16-bit values in EW 1, INT32 values, BF16 exponents, and bytes
that no mode holds (R161). A repeat and a delta block expand to what they were made of. -/
theorem test_compress :
    (let words (n : Nat) (f : Nat → Nat) : List (BitVec 8) := (List.range (256 / n)).flatMap (fun i => leBytes n (f i))
     let half := words 2 (fun i => 0x100 + i % 3)
     let rep := words 4 (fun _ => 0x3F800000)
     compressBlock (List.replicate 256 0) = (1, List.replicate 32 0) ∧
     (compressBlock rep).1 = 2 ∧ (compressBlock rep).2.length = 32 ∧ leNat ((compressBlock rep).2.take 8) = 0x3F8000003F800000 ∧
     ((compressBlock half).1 = 3 ∧ (compressBlock half).2.length = 64 ∧ (compressBlock half).2.getD 1 0 = 1) ∧
     (compressBlock (words 4 (fun i => 5000 - 3 * i))).1 = 3 ∧ (compressBlock (words 4 (fun i => 5000 - 3 * i))).2.length = 96 ∧
     (compressBlock (words 2 (fun i => (i * 5 / 3 % 2 * 256 + 120 + i % 8) * 128 + i * 37 % 128))).1 = 4 ∧
     (compressBlock (words 2 (fun i => (i * 5 / 3 % 2 * 256 + 120 + i % 8) * 128 + i * 37 % 128))).2.length = 192 ∧
     (compressBlock (words 4 (fun i => i * 0x9E3779B1))).1 = 0 ∧
     [rep, half].all (fun b => expandBlock (compressBlock b).1 (compressBlock b).2 == some b) = true) := by
  decide +kernel

/-! ## The mark of `retx` for the watchpoints (R364, R394) -/

/-- `retx` with WSKIP set, through a whole step: its packet leaves the mark to the next one, and another packet uses it up. -/
theorem test_skip_mark :
    gives (step ((State.reset.withFetchWord 32 0x7C000000).setCur (fun w => { w with xcause := 0x20009 })))
      (fun t => (warpOf t).skipWatch && (warpOf t).level = .user && (warpOf t).xcause = 9) &&
    gives (step ((State.reset.withFetchWord 32 0).setCur (fun w => { w with skipWatch := true }))) (fun t => !(warpOf t).skipWatch) = true := by
  decide +kernel

/-! ## Tile arithmetic -/

/-- `mloop` of one step on INT8 and on FP16 elements of a window of zeros: every element and scale is finite; one with a poisoned byte. -/
theorem test_TileArithmetic_steps :
    ([6, 1].all (fun e =>
       let f : BitVec 128 := BitVec.ofNat 128 (e * 2 ^ 96)
       let c : MatCmd := { cmd with op := .mloop, fA := f, fB := f }
       let s := stE (eng .maths) 1 0
       decide (c.stepsDone < c.steps ∧ fbSfmt f = 0 ∧ fbHasZp f = false ∧ fbBlen f = 0 ∧ mcKstep c.ctl = 32) && fbEnc f == e &&
       (Claims.formatOf e).isSome != Claims.integral e && Claims.scaleOk 0 0 &&
       (List.range 32).all (fun k => Claims.elemOk e (Claims.code s winPack 0 (encBits e / 4) k)) &&
       (s.setBad (Claims.inWindow winPack 0) true).badPlace (Claims.inWindow winPack 0))) = true := by
  decide +kernel

/-- `mtst` of two INT4 words, 3 and one that saturates, and of a finite FP32 word with T = 2.0 (R349). -/
theorem test_TileArithmetic_moves :
    (let ctl (e : Nat) : BitVec 64 := BitVec.ofNat 64 (2 ^ 32 + 3 * 16 + e)
     let c (e : Nat) : MatCmd := { cmd with op := .mtst, a := 64, ctl := ctl e }
     let t : TileState := { kind := 2, words := [(0, 3), (1, 0xFFFFFF00)] }
     let r : TileState := { kind := 1, tset := true, t := 0x40000000, words := [(0, 0x3F800000)] }
     let s := stE (eng .maths) 1 0
     mvShape (ctl 7) = 3 && mvCount (ctl 7) % 2 = 0 && encBits 7 / 4 = 1 &&
     ((s.stepTile winPack peerCtx (c 7) t).1.core 0).scratch.read 64 = 0x83 &&
     Claims.finite fp32 (r.word 0) && Claims.finite fp32 r.t.toNat &&
     leNat (bytesAt ((s.stepTile winPack peerCtx (c 1) r).1.core 0).scratch.read 64 2) = 0x4000) = true := by decide +kernel

/-- A plan of one stage of radix 2 on one row of a tile of zeros (R350). -/
theorem test_TileArithmetic_stages :
    (let plan : BitVec 64 := BitVec.ofNat 64 (2 + 2 ^ 13 + 2 ^ 54 + 2 ^ 58)
     let t : TileState := { kind := 1 }
     !ffBad plan 1 && ffRadices plan = [2] && ffFirst plan = 1 && ffLast plan = 1 && ffFrow 1 = 0 && ffRows 1 = 1 &&
     (List.range 4).all (fun k => Claims.finite fp32 (t.word k))) = true := by decide +kernel
end Sys2Proof.Tests
end

