-- ==== Sys2Proof/Word.lean ====
section
/-! DEFINITION. The words of the part (R13, R55, R62) and their plainest arithmetic. -/

namespace Sys2Proof

/-- An instruction word, or one lane of a vector register (R55, R62). -/
abbrev Word := BitVec 32

/-- A uniform register, an address or a special register (R62, R131, R218). -/
abbrev Dword := BitVec 64

end Sys2Proof
end

/-! Proofs for O24: what `trap`, `retx` and the words that are no instruction do (R9, R83, R208, R364). -/

namespace Sys2Proof.Machine

/-! ### Causes that are not held pending -/

/-- A cause that is not held pending is taken by the warp as it stood before its packet (R58, R359). -/
theorem State.settle_raise {s t : State} {c : Cause} {a x : BitVec 64}
    (ht : s.takeTrap s.cur.1 s.cur.2 s.iss.pre c s.iss.restart a (s.fullInfo x) false = .ok t) :
    s.settle (.error (.raise c a x false)) = .next (t.setResult .raised) := by
  simp [State.settle, State.stop, ht]

/-- An instruction that issues, and whose body raises a cause, raises that cause. -/
theorem Raises.of_body {i : Instr} {s : State} {h : Here} {body : Here → Res State} {c : Cause} {a x : BitVec 64}
    (he : exec i s = runWord i s body) (hr : Issues i s h) (hb : body h = .error (.raise c a x false)) :
    Raises i s c a x :=
  fun _ ht => he.trans (runWord_raise hr hb ht)

/-- An instruction that issues, and whose body succeeds, has taken effect with the body's state. -/
theorem Took.of_body {i : Instr} {s t : State} {h : Here} {body : Here → Res State}
    (he : exec i s = runWord i s body) (hr : Issues i s h) (hb : body h = .ok t) : Took i s t :=
  he.trans (runWord_done hr hb)

/-! ### Words that are no instruction -/

/-- A word that a warp issues and that is no instruction goes straight to its cause, ILLEGAL. -/
theorem exec_unassignedEncoding {s : State} {h : Here} (w : BitVec 32) (hh : s.here = some h) :
    exec (.unassignedEncoding w) s = s.settle (.error (.raise .illegal 0 0 false)) := by
  change execUnassignedEncoding w s = _
  simp only [execUnassignedEncoding, hh]
  rfl

/-- A word that the decoder refuses, alone in its packet, holds no instruction and has no literal. -/
theorem formWords_undecodable {word : BitVec 32} (hd : decode word = none) :
    formWords none [word] = [{ word := word, instr := none, lit := none }] := by
  simp [formWords, hd]

/-- Order 1 of R83 finds a word that is no instruction, at its own index. -/
theorem illegalAt_undecodable {p : PWord} (w : Warp) (i : Nat) (hp : p.instr = none) : illegalAt w i p = some i := by
  simp [illegalAt, hp]

/-- ILLEGAL is the first check of R83: a packet that fails it raises nothing else. -/
theorem packetCheck_illegal {w : Warp} {ws : List PWord} {i : Nat} (base : Nat) (pr : Option Producer)
    (hi : firstIx (illegalAt w) 0 ws = some i) : packetCheck w base pr ws = some (.illegal, i) := by
  simp [packetCheck, hi]

/-- A packet of one word that the decoder refuses raises ILLEGAL at that word (R9, R83). -/
theorem packetCheck_undecodable {word : BitVec 32} (w : Warp) (base : Nat) (pr : Option Producer)
    (hd : decode word = none) : packetCheck w base pr (formWords none [word]) = some (.illegal, 0) := by
  rw [formWords_undecodable hd]
  exact packetCheck_illegal base pr (by simp [firstIx, illegalAt_undecodable])

/-- A word that is no instruction raises ILLEGAL, whatever it holds (R9, R83). -/
theorem raises_unassignedEncoding {s : State} {h : Here} (w : BitVec 32) (hh : s.here = some h) :
    Raises (.unassignedEncoding w) s .illegal 0 0 :=
  fun _ ht => (exec_unassignedEncoding w hh).trans (State.settle_raise ht)

/-! ### `trap` and `retx` -/

/-- `trap` raises USERTRAP with its code in XINFO[13:8] (R208). -/
theorem raises_trap {s : State} {h : Here} {fn : BitVec 6} (hr : Issues (.trap fn) s h) :
    Raises (.trap fn) s .usertrap 0 (BitVec.ofNat 64 (fn.toNat * 256)) :=
  Raises.of_body rfl hr rfl

/-- `retx` to an address that can be fetched from restores the level and the pc (R364). -/
theorem State.returnTrap_ok {h : Here} (s : State) (ha : h.warp.xpc.toNat % 4 = 0)
    (hc : Machine.canonical h.warp.xpc.toNat = true) :
    s.returnTrap h = s.setCur (fun v => { v with
      level := .user, pc := h.warp.xpc, latch := [], skipWatch := h.warp.xcause.getLsbD 17
      xcause := v.xcause &&& ~~~(1#64 <<< 17) }) := by
  simp [State.returnTrap, ha, hc]

/-- `retx` to a misaligned or non-canonical address halts the context, misalignment first (R364). -/
theorem State.returnTrap_bad {h : Here} (s : State)
    (hb : h.warp.xpc.toNat % 4 ≠ 0 ∨ Machine.canonical h.warp.xpc.toNat = false) :
    s.returnTrap h = (s.setCur (fun v => { v with preHeld := true })).raiseHalt h.pack.ctx
      (raiseRec h.pack h.warp .superCause
        (causeCode (if h.warp.xpc.toNat % 4 ≠ 0 then .misalign else .xlate)) s.iss.restart) := by
  by_cases ha : h.warp.xpc.toNat % 4 = 0
  · have hc : Machine.canonical h.warp.xpc.toNat = false := hb.resolve_left (not_not_intro ha)
    simp [State.returnTrap, ha, hc]
  · simp [State.returnTrap, ha]

/-- `retx` leaves what returning from a trap leaves. -/
theorem took_retx {s : State} {h : Here} (hr : Issues .retx s h) : Took .retx s (s.returnTrap h) :=
  Took.of_body rfl hr rfl

/-! ### The obligation -/

/-- Settles O24: ILLEGAL is the first of the decoder's checks, `trap` and an unassigned encoding each raise their one
cause, and `retx` is split by whether XPC can be fetched from. -/
theorem trapWords : Obligations.TrapWords := by
  refine ⟨fun w base word => packetCheck_undecodable w base none,
    ⟨fun s h fn => raises_trap, fun s h w => raises_unassignedEncoding w⟩, fun s h hr => ?_⟩
  have ht : Took .retx s (s.returnTrap h) := took_retx hr
  refine ⟨fun ha hc => ?_, fun hb => ?_⟩
  · rwa [State.returnTrap_ok s ha hc] at ht
  · rwa [State.returnTrap_bad s hb] at ht

end Sys2Proof.Machine
